-- ==== Sys2Proof/Word.lean ====
section
/-! DEFINITION. The word types of the Linura K9: the bit vectors the manual itself treats as bits.
Everything wider than a plain abbreviation stands in `Sys2Proof/Machine/Bits.lean`. -/

namespace Sys2Proof

/-- A doubleword, the width of a scalar register (04_scalar_registers R76). -/
abbrev Word := BitVec 64
/-- A scalar instruction word (03_encoding R53). -/
abbrev IWord := BitVec 32
/-- A byte of storage. -/
abbrev Byte := BitVec 8
/-- A vector register, 2,048 bits (05_vector_registers R97). -/
abbrev VWord := BitVec 2048
/-- A predicate register, 256 bits (05_vector_registers R97). -/
abbrev PWord := BitVec 256
/-- A tile command word, 256 bits (03_encoding R62). -/
abbrev Tcw := BitVec 256

end Sys2Proof
end

