-- ==== Sys2Proof/Syntax.lean ====
section
/-! DEFINITION. The syntax of the Linura K9: one constructor of `Instr` per row of `spec/opcode_table.json`.
The rows with an encoding are the scalar instruction words of 03_encoding (R53 to R61), their operand fields kept at
the exact widths of the encoding. The rows without one are the fates of unassigned words (R66), the engine commands
that travel as tile command words (R63), and the device's own steps and outside inputs; their arguments say
which unit acts, and carry what comes from outside the package. They stand first: Lean's runtime builds only a limited
number of the constructors of one type that have fields, and the model's own definitions build these. -/

namespace Sys2Proof

/-- The engines of a die that run commands in slots or queues (11_engine_queues R217, R235). -/
inductive Engine where
  | tongs | collective | swage | migration | save
  deriving DecidableEq, Repr

/-- What a home port does with a bank's due per-bank refresh (10_memory_integrity R207): do it, postpone it while
traffic holds the bank, or pull one in ahead of time. -/
inductive RefreshChoice where
  | done | postponed | pulledIn
  deriving DecidableEq, Repr

/-- How an in-field test ends (15_error_tables R344, R345). -/
inductive TestResult where
  | pass | failCore | failAnvil
  deriving DecidableEq, Repr

/-- The three PCIe resets of 17_outside R369. -/
inductive PcieReset where
  | fundamental | hot | functionLevel
  deriving DecidableEq, Repr

/-- The host port's two windows (17_outside R364). -/
inductive HostBar where
  | bar0 | bar2
  deriving DecidableEq, Repr

/-- A firmware image as the boot ROM checks it (17_outside R374, 03_encoding R69): its security version, the minor version that its
firmware sets, the SHA3-256 digests of its header and body and of its header's public key, and whether its signature checks
out with that key. -/
structure ImageHeader where
  svn    : BitVec 8
  fwMin  : BitVec 8
  digest : BitVec 256
  key    : BitVec 256
  signed : Bool
  deriving DecidableEq, Repr, Inhabited

/-- A range that an HDM decoder maps to an expander of its port (17_outside R370). -/
structure HdmRange where
  base     : Nat
  len      : Nat
  expander : Nat
  deriving DecidableEq, Repr

/-- What a boot meets outside the cores: the two flash images, the memory training, the repairs that the lane tests
make, the in-field tests, and the fitted options (17_outside R374, 10_memory_integrity R210, R211, 03_encoding R70). -/
structure BootInputs where
  /-- the images of the two flash slots; `none` where the flash does not answer -/
  slotA     : Option ImageHeader
  slotB     : Option ImageHeader
  /-- the HBM stacks 0–7 whose training completes (10_memory_integrity R211, R213) -/
  trained   : BitVec 8
  /-- homes that lost a lane beyond their spares (R211) -/
  lostHomes : List Nat
  /-- vertical-bus spare lanes in use and groups disabled, per die 0–3 (R213) -/
  vbus      : List (BitVec 8 × BitVec 8)
  /-- forges whose boot test fails, with the failing source -/
  failForges : List (Nat × TestResult)
  hbm4e     : Bool
  lpddrGiB  : Nat
  /-- what boot firmware programs into the HDM decoders, port × 4 + decoder (R370) -/
  hdm       : List (Nat × HdmRange)
  cxl1      : Bool
  atfin     : Bool
  /-- wavelengths that train on the Atfin ports 0–15, all eight where none is given (R372) -/
  waves     : List (BitVec 8)
  pkgId     : BitVec 10
  deriving DecidableEq, Repr

/-- What an Atfin flit carries into the device (17_outside R372, 09_atomics R199). -/
inductive FlitBody where
  /-- a peer package reads `size` bytes at a physical address of this one -/
  | peerRead (pa size : Nat)
  /-- a peer package writes `size` bytes at a physical address of this one -/
  | peerWrite (pa size : Nat) (v : BitVec 64)
  /-- the switch answers the oldest switch-performed atomic of a core with the old value -/
  | switchReply (agent : Nat) (old : BitVec 64)
  /-- the switch writes a merged reduction value back to its home on this package -/
  | mergedWrite (pa : Nat) (v : BitVec 64)
  /-- a peer package sends an atomic to its home on this one: fn[6:0], the operand, the expected value -/
  | peerAtomic (pa : Nat) (fn : BitVec 7) (b d : BitVec 64)
  /-- the switch or a peer's home reports that the oldest atomic of a core failed: it met poison, or its path failed or its
  home reported an access error -/
  | atomicFail (agent : Nat) (poison : Bool)
  /-- a pod barrier arrival of a peer package -/
  | barArrival (bar : BitVec 5)
  deriving DecidableEq, Repr

/-- An arriving flit: the result of its CRC check, and its body. -/
structure Flit where
  crcOk : Bool
  body  : FlitBody
  deriving DecidableEq, Repr

/-- One constructor per row of the opcode table. -/
inductive Instr where
  /-- ILLEGAL_INSTRUCTION (R66): Issue of an unassigned encoding raises a precise illegal-instruction or access fault and freezes the core. -/
  | illegalInstruction (w : BitVec 32)
  /-- EMUL (R66): Issue of an extension-space word not announced in FEAT1 raises an EMUL fault for supervisor emulation. -/
  | emul (w : BitVec 32)
  /-- MAPPLY (R245): Anvil command streaming an A block through a billet into an MRB. -/
  | mapply (g : Nat)
  /-- MCOLSUM (R246): Anvil command producing the billet's row sums. -/
  | mcolsum (g : Nat)
  /-- MLOADB (R247): Anvil command loading a billet image into the shadow bank. -/
  | mloadb (g : Nat)
  /-- MSWAPB (R248): Anvil command exchanging the phase banks. -/
  | mswapb (g : Nat)
  /-- MROTB (R249): Anvil command handing the active billet to the next anvil. -/
  | mrotb (g : Nat)
  /-- MPROBE (R250): Anvil command running a probe set now. -/
  | mprobe (g : Nat)
  /-- SFACT (R234): Swage command factorising a weight tile into a billet image. -/
  | sfact (d slot : Nat)
  /-- SFACTQ (R234): Swage command factorising grouped weights into a billet image. -/
  | sfactq (d slot : Nat)
  /-- TCOPY (R228): Tongs command converting and copying elements. -/
  | tcopy (d slot : Nat)
  /-- TCOPY2 (R229): Tongs command copying a two-dimensional region. -/
  | tcopy2 (d slot : Nat)
  /-- TGATH (R229): Tongs command gathering indexed rows. -/
  | tgath (d slot : Nat)
  /-- TSCAT (R229): Tongs command scattering rows to indexed places. -/
  | tscat (d slot : Nat)
  /-- TFILL (R230): Tongs command filling elements with a value. -/
  | tfill (d slot : Nat)
  /-- TPREF (R230): Tongs command prefetching into the hearth or L2. -/
  | tpref (d slot : Nat)
  /-- CREDS (R233): Collective reduce-scatter. -/
  | creds (k : Nat)
  /-- CGATH (R233): Collective gather. -/
  | cgath (k : Nat)
  /-- CBCAST (R233): Collective broadcast. -/
  | cbcast (k : Nat)
  /-- CALLRED (R233): Collective all-reduce. -/
  | callred (k : Nat)
  /-- MIGR (R289): Migration command moving a page between tiers. -/
  | migr (d : Nat)
  /-- MIGRA (R236): Migration command aborting a page move. -/
  | migra (d : Nat)
  /-- MEVAC (R236): Migration command running a list of moves. -/
  | mevac (d : Nat)
  /-- SVCTX_REQUEST (R237): Save command mode 0 requesting pre-emption at the next PREHINT. -/
  | svctxRequest (d : Nat)
  /-- SVCTX_FORCED (R237): Save command mode 1 forcing a full save at the next chunk boundary. -/
  | svctxForced (d : Nat)
  /-- SVCTX_FROZEN (R237): Save command mode 2 saving a frozen core's task. -/
  | svctxFrozen (d : Nat)
  /-- RSCTX (R237): Save command restoring a save area onto an idle core. -/
  | rsctx (d : Nat)
  /-- ENGINE_START (R217): A die engine starts the next startable command in round-robin order. -/
  | engineStart (d : Nat) (e : Engine)
  /-- COLLECTIVE_START (R232): A collective operation starts when all members have matching commands at their heads. -/
  | collectiveStart (core : Nat)
  /-- COMMAND_END (R222): An engine command ends, writing its token and completion word when there is room. -/
  | commandEnd (d : Nat) (e : Engine) (slot : Nat)
  /-- ANVIL_ARBITER_ROUND (R255): The forge arbiter runs one round, starting anvil commands from the queues. -/
  | anvilArbiterRound (g : Nat)
  /-- ANVIL_PASS (R259): A staged pass drives symbol 0, latching its modes, and streams its vectors. -/
  | anvilPass (g : Nat)
  /-- PASS_DRAIN (R260): The drain corrects, checks, records and writes back a pass's MRB. -/
  | passDrain (g : Nat)
  /-- HOLDING_BUFFER_DRAIN (R244): A held completion word enters q1 when an entry frees and its command ends. -/
  | holdingBufferDrain (core : Nat)
  /-- SHADOW_TRANSFER_END (R247): A billet transfer into the shadow bank finishes and the bank becomes valid. -/
  | shadowTransferEnd (g : Nat)
  /-- BATCH_BOUNDARY (R136): A batch boundary completes when its before set has drained, applying a pending switch. -/
  | batchBoundary (g : Nat)
  /-- PROBE_SET (R263): The anvil inserts a probe set between passes. -/
  | probeSet (g : Nat)
  /-- PROBE_REFERENCE_END (R263): The probe reference work of a set ends. -/
  | probeReferenceEnd (g : Nat)
  /-- PROBE_UPDATE (R264): At a pass boundary the anvil applies a set's DEB, trim and ADC updates. -/
  | probeUpdate (g : Nat)
  /-- PROBE_STALE_TIMEOUT (R264): PROBEIVL passes with no completed probe set and STALE sets. -/
  | probeStaleTimeout (g : Nat)
  /-- CHUNK_COMMIT (R171): The commit arbiter grants a closed chunk its commit. -/
  | chunkCommit (agent : Nat)
  /-- WRITE_NOTICE (R183): A home's write notice reaches a die's commit arbiter as a commit of the line. -/
  | writeNotice
  /-- SCOREBOARD_COMPLETE (R79): A multi-cycle instruction completes and frees its scoreboard entry. -/
  | scoreboardComplete (agent entry : Nat)
  /-- LATE_FAULT (R175): A pending entry's access faults late; the core commits and freezes. -/
  | lateFault (agent entry : Nat)
  /-- RUN_AHEAD (R284): After a translation fault the core posts, runs ahead, rolls back and freezes. -/
  | runAhead (agent : Nat)
  /-- ATOMIC_PERFORM (R196): An atomic request is performed at its bank, home or source home. -/
  | atomicPerform
  /-- REDUCTION_DELIVERY (R195): A redirected reduction delivers its old value and barrier arrival. -/
  | reductionDelivery
  /-- FE_WAIT_RELEASE (R161): A full/empty change releases the oldest waiting LDSE or STF. -/
  | feWaitRelease (word : Nat)
  /-- LINK_SLOT_ARRIVAL (R125): An LKWR value lands in the neighbour's inbound slot. -/
  | linkSlotArrival (core : Nat) (dir : BitVec 2)
  /-- BARRIER_ARRIVAL (R354): Arrivals reach a core's barrier word and complete phases. -/
  | barrierArrival
  /-- EVENT_RELEASE (R358): The event unit applies signals and releases waiters. -/
  | eventRelease (g : Nat)
  /-- TASK_AGING_TICK (R302): Every 4,096 cycles a waiting entry's AGE rises and EPRIO rises on wrap. -/
  | taskAgingTick (core entry : Nat)
  /-- DISPATCH (R303): An idle core selects and dispatches its best eligible or pre-empted entry. -/
  | dispatch (core : Nat)
  /-- RESTORE (R324): A saved task is restored onto a core and resumes. -/
  | restore (core entry : Nat)
  /-- GANG_RESERVATION (R318): The forge grants the gang reservation to a gang task. -/
  | gangReservation (g : Nat)
  /-- GANG_DISPATCH (R318): When all gang members are reserved they are dispatched together. -/
  | gangDispatch (g : Nat)
  /-- LAUNCH_UNIT_POST (R305): The launch unit posts the team image into a freed member entry. -/
  | launchUnitPost (core : Nat)
  /-- COSTART_DISPATCH (R305): All copies of a co-start team are dispatched in one cycle. -/
  | costartDispatch (team : Nat)
  /-- PREBUDGET_EXPIRY (R321): PEND outlasts BUDGET; OVERDUE sets and a PREEMPT_LATE notice is sent. -/
  | prebudgetExpiry (core : Nat)
  /-- SAVE (R322): The save engine drains the core and writes its save image. -/
  | save (core : Nat)
  /-- PACKET_RING_WRITE (R332): A waiting fault or notice packet enters the supervisor ring when room exists. -/
  | packetRingWrite (sup : Nat)
  /-- MIGRATION_LINE_COPY (R289): The migration engine locks, copies and marks one line moved. -/
  | migrationLineCopy (d entry : Nat)
  /-- MIGRATION_SWITCH (R289): After dual writes are acknowledged the leaf is switched to the destination. -/
  | migrationSwitch (d entry : Nat)
  /-- MIGRATION_ABORT (R291): A move aborts, discarding the destination and restoring the source PTE. -/
  | migrationAbort (d entry : Nat)
  /-- HOTNESS_SAMPLE (R295): Every RATE-th qualifying request is sampled and may post a HOT notification. -/
  | hotnessSample (port : Nat)
  /-- HOTNESS_HALVING (R294): Every 2^DECAY samples each COUNT of the port halves. -/
  | hotnessHalving (port : Nat)
  /-- NOTIFICATION_REPOST (R295): When the queue falls below 128 PENDING entries post again. -/
  | notificationRepost (d : Nat)
  /-- SCRUB_STEP (R204): The home port scrubs one row, correcting or poisoning lines. -/
  | scrubStep (port row : Nat) (ce ue : BitVec 16)
  /-- SCRUB_RATE_REVIEW (R203): After 4,096 base steps the scrub interval halves or doubles. -/
  | scrubRateReview (port : Nat)
  /-- REFRESH_DUE (R207): A bank's refresh falls due and is done, postponed or forced all-bank. -/
  | refreshDue (port bank : Nat) (how : RefreshChoice)
  /-- ACTIVATION_ALERT (R208): A stack activation-count alert starts the refresh-management back-off. -/
  | activationAlert (port : Nat) (banks : List Nat)
  /-- VBUS_CRC_ERROR (R210): A vertical-bus frame CRC error replays the frame. -/
  | vbusCrcError (d group lane : Nat)
  /-- VBUS_LANE_STEER (R210): At a frame boundary a failing lane is steered to its spare or the group disabled. -/
  | vbusLaneSteer (d group : Nat)
  /-- IN_FIELD_TEST (R344): A forge runs its in-field test once its cores are idle. -/
  | inFieldTest (g : Nat)
  /-- IFT_INTERVAL (R345): The IVL interval expires and an in-field test is requested. -/
  | iftInterval (g : Nat)
  /-- IFT_START (R345): A write of IFTCTL.START requests an in-field test. -/
  | iftStart (g : Nat)
  /-- ISLAND_RELOCK (R20): An island finishes relocking to a new clock and its cores resume. -/
  | islandRelock (d q : Nat)
  /-- ISLCTL_WRITE (R378): A write of ISLCTL sets the island clock, voltage fix and droop response. -/
  | islctlWrite (d q : Nat) (v : BitVec 64)
  /-- DROOP_STRETCH (R377): A supply droop stretches the island clock or freezes it in STOP mode. -/
  | droopStretch (d q : Nat)
  /-- DROOP_RECOVER (R377): After 1 µs of recovered supply the stretch ends. -/
  | droopRecover (d q : Nat)
  /-- BROWNOUT_HOLD (R379): Package input below 90 % puts every die into hold. -/
  | brownoutHold
  /-- BROWNOUT_RESUME (R379): Input returns within 2 ms and the device resumes, raising DROOP. -/
  | brownoutResume
  /-- POWER_CAP_STEP (R380): Every 10 µs with AVG above CAP the highest-clocked islands drop 50 MHz. -/
  | powerCapStep (avg : BitVec 16)
  /-- POWER_CAP_RESTORE (R380): AVG falls 5 % below CAP and island clocks are restored. -/
  | powerCapRestore (avg : BitVec 16)
  /-- CONVERTER_ROW_HOT (R381): A converter row reaches 95 °C and AUTO quench is entered. -/
  | converterRowHot (g : Nat) (temp : BitVec 8)
  /-- QUENCH_EXIT (R381): The converter row cools below 90 °C and quench ends. -/
  | quenchExit (g : Nat) (temp : BitVec 8)
  /-- JUNCTION_HOT (R381): An island junction reaches 100 °C; throttling starts and THERMAL is raised. -/
  | junctionHot (d q : Nat) (temp : BitVec 8)
  /-- THROTTLE_STEP (R381): Every 10 µs a hot island's clock drops 50 MHz until below 97 °C. -/
  | throttleStep (d q : Nat) (temp : BitVec 8)
  /-- PHOTONIC_HOT (R381): The photonic layer reaches 85 °C and THERMAL is raised. -/
  | photonicHot (g : Nat)
  /-- THERMAL_TRIP (R381): A junction reaches 110 °C; cores stop and TRIP is set. -/
  | thermalTrip
  /-- COLD_BOOT (R374): Reset release runs the boot ROM and firmware boot steps. -/
  | coldBoot (inputs : BootInputs)
  /-- PCIE_RESET (R369): PERST#, hot reset or FLR acts as a warm reset. -/
  | pcieReset (kind : PcieReset) (inputs : BootInputs)
  /-- HOST_LINK_DOWN (R369): The host link goes down and traffic toward the host waits. -/
  | hostLinkDown
  /-- HOST_LINK_UP (R369): The host link returns and waiting writes and messages are sent. -/
  | hostLinkUp
  /-- HOST_MEM_READ (R364): A host read through a BAR is served. -/
  | hostMemRead (bar : HostBar) (off size : Nat)
  /-- HOST_MEM_WRITE (R364): A posted host write through a BAR is served in order: `size` bytes, those of `v`. -/
  | hostMemWrite (bar : HostBar) (off size v : Nat)
  /-- CXL_SURPRISE_REMOVAL (R370): An expander is removed without evacuation; its ranges stay mapped. -/
  | cxlSurpriseRemoval (port expander : Nat)
  /-- ATFIN_LOCK_LOST (R372): An Atfin port loses lock and starts retraining. -/
  | atfinLockLost (port : Nat)
  /-- ATFIN_REPLAY_REQUEST (R372): A far-end replay request makes the sender resend unacknowledged flits. -/
  | atfinReplayRequest (port : Nat)
  /-- ATFIN_FLIT_ACK (R372): A flit acknowledgement frees it from the replay buffer. -/
  | atfinFlitAck (port : Nat)
  /-- ATFIN_REPLAY_LIMIT (R372): 16 replays within 1 ms start retraining. -/
  | atfinReplayLimit (port : Nat)
  /-- ATFIN_RETRAIN_END (R372): Retraining ends, replaying the buffer or taking the port down. -/
  | atfinRetrainEnd (port : Nat) (ok : Bool) (waves : BitVec 8)
  /-- HOSTCMD_WARM_RESET (R374): HOSTCMD 1 performs a warm reset and reruns boot. -/
  | hostcmdWarmReset (inputs : BootInputs)
  /-- HOSTCMD_POST_TRANSPORT (R374): HOSTCMD 2 repeats lane tests, retrains ports and runs the in-field test. -/
  | hostcmdPostTransport (inputs : BootInputs)
  /-- HOSTCMD_QUOTE (R375): HOSTCMD 3 forms a signed quote. -/
  | hostcmdQuote
  /-- HOSTCMD_FW_COMMIT (R376): HOSTCMD 4 verifies and writes the staged firmware; `flash` says that the board flash answers. -/
  | hostcmdFwCommit (flash : Bool)
  /-- READ_STATUS (R383): Sideband command returning BOOTSTAT, PWRSTAT and THERMSTAT. -/
  | readStatus
  /-- WARM_RESET (R383): Sideband warm reset. -/
  | warmReset (inputs : BootInputs)
  /-- POST_TRANSPORT (R383): Sideband post-transport test. -/
  | postTransport (inputs : BootInputs)
  /-- SET_CAP (R383): Sideband write of PWRCAP. -/
  | setCap (v : BitVec 64)
  /-- READ_FEAT (R383): Sideband command returning FEAT0–FEAT3. -/
  | readFeat
  /-- FLASH_WINDOW (R383): Sideband command serving flash reads to the boot ROM. -/
  | flashWindow (off : Nat)
  /-- WTT_POST (R304): A window CMD POST posts the entry's words. -/
  | wttPost (core entry : Nat)
  /-- WTT_CANCEL (R304): A window CMD CANCEL cancels the entry. -/
  | wttCancel (core entry : Nat)
  /-- WTT_KILL (R310): A window CMD KILL stops and cancels the entry's task. -/
  | wttKill (core entry : Nat)
  /-- TEAM_LAUNCH (R305): A write of LCMD starts a team launch. -/
  | teamLaunch (v : BitVec 64)
  /-- MIG_PORT_SUBMIT (R235): A write of migration-port word 3 checks and enqueues the assembled TCW. -/
  | migPortSubmit (d sup : Nat) (w3 : BitVec 64)
  /-- MIG_PORT_POP (R235): A read of the migration port pops a completion word. -/
  | migPortPop (d : Nat)
  /-- SAVE_PORT_SUBMIT (R235): A write of save-port word 3 checks and enqueues the assembled TCW. -/
  | savePortSubmit (d sup : Nat) (w3 : BitVec 64)
  /-- SAVE_PORT_POP (R235): A read of the save port pops a completion word. -/
  | savePortPop (d : Nat)
  /-- NQ_POP (R239): A load from the notification-queue offset pops its head. -/
  | nqPop (d : Nat)
  /-- HDOOR (R366): A host doorbell write adds 1 to MC14 of supervisor 512. -/
  | hdoor (v : BitVec 64)
  /-- HRELEASE (R366): A host write releases parked supervisors. -/
  | hrelease (v : BitVec 64)
  /-- SMSG_DOORBELL (R367): A supervisor write of the last SMSG word sends MSI-X vector 2. -/
  | smsgDoorbell (v : BitVec 64)
  /-- HIST_CLEAR (R359): A write of 1 to the forge-window HIST clear register clears HIST0–HIST31. -/
  | histClear (g : Nat) (v : BitVec 64)
  /-- EV_WINDOW_LOAD (R357): A load from the event-unit window acts as EVWAIT. -/
  | evWindowLoad (g : Nat) (sel : BitVec 8) (d : BitVec 5)
  /-- EV_WINDOW_STORE (R357): A store to the event-unit window acts as EVSIG. -/
  | evWindowStore (g : Nat) (sel : BitVec 8)
  /-- LSPLIT_WRITE (R146): A write of LSPLIT on an unbound core resizes L1 and flushes it. -/
  | lsplitWrite (core : Nat) (v : BitVec 64)
  /-- L2SCR_WRITE (R151): A write of L2SCR converts held ways to scratchpad or back. -/
  | l2scrWrite (core : Nat) (v : BitVec 64)
  /-- HSAMPLE_WRITE (R294): A write of HSAMPLE sets sampling and restarts each port's count. -/
  | hsampleWrite (d : Nat) (v : BitVec 64)
  /-- REGISTER_WRITE (R7): A write to any register without a row of its own, applied by its access codes. -/
  | registerWrite (pa : Nat) (v : BitVec 64)
  /-- VOLTAGE_LOOP_ADJUST (R23): Every 1 µs the voltage loop adjusts each island's supply voltage from its droop detectors and timing monitors, changing ISLCTL.VCUR. -/
  | voltageLoopAdjust (d q : Nat)
  /-- REFRESH_COMPLETE (R208): A refresh-management command or forced all-bank refresh completes, clearing postpone counts and letting stalled activates resume. -/
  | refreshComplete (port : Nat) (stalled : Nat)
  /-- POWER_REMOVAL (R379): The board controller removes power, after a hold beyond 2 ms or a thermal trip, and the device loses all state but fuses and flash. -/
  | powerRemoval
  /-- IN_FIELD_TEST_END (R344): A forge's in-field test finishes, setting LAST and RUNS, clearing RUN and the suspect window on a pass or raising IFT_FAIL, and invalidating the banks and directory. -/
  | inFieldTestEnd (g : Nat) (result : TestResult)
  /-- DIE_TO_DIE_PATH_FAILURE (R232): A die-to-die path fails, ending every affected collective member's command with status LINK. -/
  | dieToDiePathFailure (k : Nat)
  /-- ATFIN_FLIT_ARRIVAL (R372): A flit arrives on an Atfin port: its CRC is checked, replay is requested on error, and the peer-memory request, switch response or merged write it carries is taken. -/
  | atfinFlitArrival (port : Nat) (flit : Flit)
  /-- HOME_ACKNOWLEDGE (R171): A home acknowledges pushed, written-through or written-back bytes, completing the commit, REL, L2FLW, HFLUSH or TLBI that waits for it. -/
  | homeAcknowledge
  /-- MSG_DELIVERY (R350): An MSG reaches its target core, writing the target word full and then incrementing the named message counter. -/
  | msgDelivery
  /-- SKX_DELIVERY (R137): An SKCOMB value arrives at a forge core's SKX within 8 cycles of issue, in slot order. -/
  | skxDelivery
  /-- ILL (R60): The all-zero word raises an illegal-instruction fault and freezes the core. -/
  | ill
  /-- NOP (R60): Does nothing. -/
  | nop
  /-- CSRR (R138): Reads a CSR into a scalar register. -/
  | csrr (d : BitVec 5) (c : BitVec 12)
  /-- CSRW (R138): Writes a CSR and returns its old value. -/
  | csrw (d : BitVec 5) (a : BitVec 5) (c : BitVec 12)
  /-- CSRS (R138): Sets CSR bits and returns the old value. -/
  | csrs (d : BitVec 5) (a : BitVec 5) (c : BitVec 12)
  /-- CSRC (R138): Clears CSR bits and returns the old value. -/
  | csrc (d : BitVec 5) (a : BitVec 5) (c : BitVec 12)
  /-- FENCE (R177): Closes the chunk and performs release then acquire at the scope. -/
  | fence (s : BitVec 3)
  /-- REL (R177): Closes the chunk and releases committed dirty data at the scope. -/
  | rel (s : BitVec 3)
  /-- ACQ (R177): Closes the chunk and invalidates cached lines at the scope. -/
  | acq (s : BitVec 3)
  /-- CHUNKE (R177): Closes the current chunk. -/
  | chunke
  /-- SVC (R336): Closes the chunk, freezes the core and sends an SVC packet. -/
  | svc (n : BitVec 12)
  /-- HALT (R336): Closes the chunk, freezes the core and sends a HALT packet. -/
  | halt
  /-- RESUME (R335): Supervisor settles a frozen core's scoreboard entries and releases it. -/
  | resume (d : BitVec 5) (a : BitVec 5)
  /-- TLBI (R278): Supervisor invalidates TLB and directory entries across the package. -/
  | tlbi (a : BitVec 5) (m : BitVec 2)
  /-- FRPLY (R287): Supervisor empties fault-buffer entries and releases cores frozen on translation faults. -/
  | frply (a : BitVec 5)
  /-- L2FLW (R150): Flushes and holds the named L2 ways for conversion. -/
  | l2flw (a : BitVec 5)
  /-- HFLUSH (R153): Supervisor writes back and invalidates hearth lines. -/
  | hflush (d : BitVec 5) (a : BitVec 5) (m : BitVec 2)
  /-- ADD (R83): Integer add. -/
  | add (d : BitVec 5) (a : BitVec 5) (b : BitVec 5)
  /-- SUB (R83): Integer subtract. -/
  | sub (d : BitVec 5) (a : BitVec 5) (b : BitVec 5)
  /-- AND (R83): Bitwise AND. -/
  | and (d : BitVec 5) (a : BitVec 5) (b : BitVec 5)
  /-- OR (R83): Bitwise OR. -/
  | or (d : BitVec 5) (a : BitVec 5) (b : BitVec 5)
  /-- XOR (R83): Bitwise XOR. -/
  | xor (d : BitVec 5) (a : BitVec 5) (b : BitVec 5)
  /-- ANDN (R83): AND with complement. -/
  | andn (d : BitVec 5) (a : BitVec 5) (b : BitVec 5)
  /-- ORN (R83): OR with complement. -/
  | orn (d : BitVec 5) (a : BitVec 5) (b : BitVec 5)
  /-- XNOR (R83): Complement of XOR. -/
  | xnor (d : BitVec 5) (a : BitVec 5) (b : BitVec 5)
  /-- SLL (R83): Shift left logical. -/
  | sll (d : BitVec 5) (a : BitVec 5) (b : BitVec 5)
  /-- SRL (R83): Shift right logical. -/
  | srl (d : BitVec 5) (a : BitVec 5) (b : BitVec 5)
  /-- SRA (R83): Shift right arithmetic. -/
  | sra (d : BitVec 5) (a : BitVec 5) (b : BitVec 5)
  /-- ROL (R83): Rotate left. -/
  | rol (d : BitVec 5) (a : BitVec 5) (b : BitVec 5)
  /-- ROR (R83): Rotate right. -/
  | ror (d : BitVec 5) (a : BitVec 5) (b : BitVec 5)
  /-- SLT (R83): Set if signed less than. -/
  | slt (d : BitVec 5) (a : BitVec 5) (b : BitVec 5)
  /-- SLTU (R83): Set if unsigned less than. -/
  | sltu (d : BitVec 5) (a : BitVec 5) (b : BitVec 5)
  /-- SEQ (R83): Set if equal. -/
  | seq (d : BitVec 5) (a : BitVec 5) (b : BitVec 5)
  /-- MIN (R83): Signed minimum. -/
  | min (d : BitVec 5) (a : BitVec 5) (b : BitVec 5)
  /-- MAX (R83): Signed maximum. -/
  | max (d : BitVec 5) (a : BitVec 5) (b : BitVec 5)
  /-- MINU (R83): Unsigned minimum. -/
  | minu (d : BitVec 5) (a : BitVec 5) (b : BitVec 5)
  /-- MAXU (R83): Unsigned maximum. -/
  | maxu (d : BitVec 5) (a : BitVec 5) (b : BitVec 5)
  /-- MUL (R83): Low 64 bits of the product. -/
  | mul (d : BitVec 5) (a : BitVec 5) (b : BitVec 5) (l : BitVec 4)
  /-- MULH (R83): High 64 bits of the signed product. -/
  | mulh (d : BitVec 5) (a : BitVec 5) (b : BitVec 5) (l : BitVec 4)
  /-- MULHU (R83): High 64 bits of the unsigned product. -/
  | mulhu (d : BitVec 5) (a : BitVec 5) (b : BitVec 5) (l : BitVec 4)
  /-- DIV (R84): Signed division with saturating special cases. -/
  | div (d : BitVec 5) (a : BitVec 5) (b : BitVec 5) (l : BitVec 4)
  /-- DIVU (R84): Unsigned division. -/
  | divu (d : BitVec 5) (a : BitVec 5) (b : BitVec 5) (l : BitVec 4)
  /-- REM (R84): Signed remainder. -/
  | rem (d : BitVec 5) (a : BitVec 5) (b : BitVec 5) (l : BitVec 4)
  /-- REMU (R84): Unsigned remainder. -/
  | remu (d : BitVec 5) (a : BitVec 5) (b : BitVec 5) (l : BitVec 4)
  /-- CLZ (R83): Counts leading zeros. -/
  | clz (d : BitVec 5) (a : BitVec 5)
  /-- CTZ (R83): Counts trailing zeros. -/
  | ctz (d : BitVec 5) (a : BitVec 5)
  /-- POPC (R83): Counts one bits. -/
  | popc (d : BitVec 5) (a : BitVec 5)
  /-- BREV (R83): Reverses bit order. -/
  | brev (d : BitVec 5) (a : BitVec 5)
  /-- BSWAP (R83): Reverses byte order. -/
  | bswap (d : BitVec 5) (a : BitVec 5)
  /-- SEXTB (R83): Sign-extends a byte. -/
  | sextb (d : BitVec 5) (a : BitVec 5)
  /-- SEXTH (R83): Sign-extends a halfword. -/
  | sexth (d : BitVec 5) (a : BitVec 5)
  /-- SEXTW (R83): Sign-extends a word. -/
  | sextw (d : BitVec 5) (a : BitVec 5)
  /-- ZEXTW (R83): Zero-extends a word. -/
  | zextw (d : BitVec 5) (a : BitVec 5)
  /-- ADDW (R83): 32-bit add sign-extended. -/
  | addw (d : BitVec 5) (a : BitVec 5) (b : BitVec 5)
  /-- SUBW (R83): 32-bit subtract sign-extended. -/
  | subw (d : BitVec 5) (a : BitVec 5) (b : BitVec 5)
  /-- ADDS (R83): Saturating signed add. -/
  | adds (d : BitVec 5) (a : BitVec 5) (b : BitVec 5)
  /-- HADD (R85): Forms a heap pointer and faults HEAP_LIMIT when outside the heap. -/
  | hadd (d : BitVec 5) (a : BitVec 5) (b : BitVec 5)
  /-- ADDI (R86): Adds a sign-extended immediate. -/
  | addi (d : BitVec 5) (a : BitVec 5) (i : BitVec 16)
  /-- ANDI (R86): ANDs a zero-extended immediate. -/
  | andi (d : BitVec 5) (a : BitVec 5) (i : BitVec 16)
  /-- ORI (R86): ORs a zero-extended immediate. -/
  | ori (d : BitVec 5) (a : BitVec 5) (i : BitVec 16)
  /-- XORI (R86): XORs a zero-extended immediate. -/
  | xori (d : BitVec 5) (a : BitVec 5) (i : BitVec 16)
  /-- SLTI (R86): Set if signed less than immediate. -/
  | slti (d : BitVec 5) (a : BitVec 5) (i : BitVec 16)
  /-- SLTIU (R86): Set if unsigned less than immediate. -/
  | sltiu (d : BitVec 5) (a : BitVec 5) (i : BitVec 16)
  /-- LUI (R86): Loads a sign-extended upper immediate. -/
  | lui (d : BitVec 5) (i : BitVec 16)
  /-- SLLI (R86): Shift left by immediate. -/
  | slli (d : BitVec 5) (a : BitVec 5) (n : BitVec 6)
  /-- SRLI (R86): Shift right logical by immediate. -/
  | srli (d : BitVec 5) (a : BitVec 5) (n : BitVec 6)
  /-- SRAI (R86): Shift right arithmetic by immediate. -/
  | srai (d : BitVec 5) (a : BitVec 5) (n : BitVec 6)
  /-- RORI (R86): Rotate right by immediate. -/
  | rori (d : BitVec 5) (a : BitVec 5) (n : BitVec 6)
  /-- BEQ (R89): Branch if equal. -/
  | beq (a : BitVec 5) (b : BitVec 5) (o : BitVec 16)
  /-- BNE (R89): Branch if not equal. -/
  | bne (a : BitVec 5) (b : BitVec 5) (o : BitVec 16)
  /-- BLT (R89): Branch if signed less than. -/
  | blt (a : BitVec 5) (b : BitVec 5) (o : BitVec 16)
  /-- BGE (R89): Branch if signed greater or equal. -/
  | bge (a : BitVec 5) (b : BitVec 5) (o : BitVec 16)
  /-- BLTU (R89): Branch if unsigned less than. -/
  | bltu (a : BitVec 5) (b : BitVec 5) (o : BitVec 16)
  /-- BGEU (R89): Branch if unsigned greater or equal. -/
  | bgeu (a : BitVec 5) (b : BitVec 5) (o : BitVec 16)
  /-- JAL (R90): Jumps PC-relative and links into s1. -/
  | jal (o : BitVec 26)
  /-- JALR (R90): Jumps to register plus offset and links. -/
  | jalr (d : BitVec 5) (a : BitVec 5) (i : BitVec 16)
  /-- LB (R157): Loads a sign-extended byte. -/
  | lb (d : BitVec 5) (a : BitVec 5) (o : BitVec 12) (l : BitVec 4)
  /-- LH (R157): Loads a sign-extended halfword. -/
  | lh (d : BitVec 5) (a : BitVec 5) (o : BitVec 12) (l : BitVec 4)
  /-- LW (R157): Loads a sign-extended word. -/
  | lw (d : BitVec 5) (a : BitVec 5) (o : BitVec 12) (l : BitVec 4)
  /-- LD (R157): Loads a doubleword. -/
  | ld (d : BitVec 5) (a : BitVec 5) (o : BitVec 12) (l : BitVec 4)
  /-- LBU (R157): Loads a zero-extended byte. -/
  | lbu (d : BitVec 5) (a : BitVec 5) (o : BitVec 12) (l : BitVec 4)
  /-- LHU (R157): Loads a zero-extended halfword. -/
  | lhu (d : BitVec 5) (a : BitVec 5) (o : BitVec 12) (l : BitVec 4)
  /-- LWU (R157): Loads a zero-extended word. -/
  | lwu (d : BitVec 5) (a : BitVec 5) (o : BitVec 12) (l : BitVec 4)
  /-- SB (R157): Stores a byte. -/
  | sb (d : BitVec 5) (a : BitVec 5) (o : BitVec 12) (l : BitVec 4)
  /-- SH (R157): Stores a halfword. -/
  | sh (d : BitVec 5) (a : BitVec 5) (o : BitVec 12) (l : BitVec 4)
  /-- SW (R157): Stores a word. -/
  | sw (d : BitVec 5) (a : BitVec 5) (o : BitVec 12) (l : BitVec 4)
  /-- SD (R157): Stores a doubleword. -/
  | sd (d : BitVec 5) (a : BitVec 5) (o : BitVec 12) (l : BitVec 4)
  /-- LDS (R160): Closes the chunk, waits until the word is full, then loads it. -/
  | lds (d : BitVec 5) (a : BitVec 5) (o : BitVec 12) (l : BitVec 4)
  /-- LDSE (R161): Waits until full, loads the word and empties it. -/
  | ldse (d : BitVec 5) (a : BitVec 5) (l : BitVec 4)
  /-- STF (R161): Waits until empty, stores the word and sets it full. -/
  | stf (a : BitVec 5) (b : BitVec 5) (l : BitVec 4)
  /-- FECLR (R161): Marks the word empty. -/
  | feclr (a : BitVec 5) (l : BitVec 4)
  /-- FESET (R161): Marks the word full. -/
  | feset (a : BitVec 5) (l : BitVec 4)
  /-- FEQ (R161): Reads the full/empty bits of the 16 words of a line. -/
  | feq (d : BitVec 5) (a : BitVec 5) (l : BitVec 4)
  /-- FADD (R93): Binary64 add. -/
  | fadd (d : BitVec 5) (a : BitVec 5) (b : BitVec 5) (l : BitVec 4)
  /-- FSUB (R93): Binary64 subtract. -/
  | fsub (d : BitVec 5) (a : BitVec 5) (b : BitVec 5) (l : BitVec 4)
  /-- FMUL (R93): Binary64 multiply. -/
  | fmul (d : BitVec 5) (a : BitVec 5) (b : BitVec 5) (l : BitVec 4)
  /-- FDIV (R93): Binary64 divide. -/
  | fdiv (d : BitVec 5) (a : BitVec 5) (b : BitVec 5) (l : BitVec 4)
  /-- FSQRT (R93): Binary64 square root. -/
  | fsqrt (d : BitVec 5) (a : BitVec 5) (l : BitVec 4)
  /-- FMIN (R93): Binary64 minimum. -/
  | fmin (d : BitVec 5) (a : BitVec 5) (b : BitVec 5) (l : BitVec 4)
  /-- FMAX (R93): Binary64 maximum. -/
  | fmax (d : BitVec 5) (a : BitVec 5) (b : BitVec 5) (l : BitVec 4)
  /-- FCEQ (R93): Quiet equality compare. -/
  | fceq (d : BitVec 5) (a : BitVec 5) (b : BitVec 5) (l : BitVec 4)
  /-- FCLT (R93): Signalling less-than compare. -/
  | fclt (d : BitVec 5) (a : BitVec 5) (b : BitVec 5) (l : BitVec 4)
  /-- FCLE (R93): Signalling less-or-equal compare. -/
  | fcle (d : BitVec 5) (a : BitVec 5) (b : BitVec 5) (l : BitVec 4)
  /-- FMAC (R93): Fused multiply-add into the destination. -/
  | fmac (d : BitVec 5) (a : BitVec 5) (b : BitVec 5) (l : BitVec 4)
  /-- FCVTDL (R93): Binary64 to int64. -/
  | fcvtdl (d : BitVec 5) (a : BitVec 5) (l : BitVec 4)
  /-- FCVTLD (R93): Int64 to binary64. -/
  | fcvtld (d : BitVec 5) (a : BitVec 5) (l : BitVec 4)
  /-- FCVTSD (R93): Binary32 to binary64. -/
  | fcvtsd (d : BitVec 5) (a : BitVec 5) (l : BitVec 4)
  /-- FCVTDS (R93): Binary64 to binary32. -/
  | fcvtds (d : BitVec 5) (a : BitVec 5) (l : BitVec 4)
  /-- FCLASS (R95): Writes the class code of a binary64 value. -/
  | fclass (d : BitVec 5) (a : BitVec 5) (l : BitVec 4)
  /-- BEXT (R87): Extracts an unsigned bit field. -/
  | bext (d : BitVec 5) (a : BitVec 5) (p : BitVec 6) (n : BitVec 6)
  /-- BEXTS (R87): Extracts a signed bit field. -/
  | bexts (d : BitVec 5) (a : BitVec 5) (p : BitVec 6) (n : BitVec 6)
  /-- BINS (R87): Inserts a bit field. -/
  | bins (d : BitVec 5) (a : BitVec 5) (p : BitVec 6) (n : BitVec 6)
  /-- AMOSWAP (R190): Atomic swap returning the old value. -/
  | amoswap (d : BitVec 5) (a : BitVec 5) (b : BitVec 5) (l : BitVec 4)
  /-- AMOADD (R190): Atomic add. -/
  | amoadd (d : BitVec 5) (a : BitVec 5) (b : BitVec 5) (l : BitVec 4)
  /-- AMOAND (R190): Atomic AND. -/
  | amoand (d : BitVec 5) (a : BitVec 5) (b : BitVec 5) (l : BitVec 4)
  /-- AMOOR (R190): Atomic OR. -/
  | amoor (d : BitVec 5) (a : BitVec 5) (b : BitVec 5) (l : BitVec 4)
  /-- AMOXOR (R190): Atomic XOR. -/
  | amoxor (d : BitVec 5) (a : BitVec 5) (b : BitVec 5) (l : BitVec 4)
  /-- AMOMIN (R190): Atomic signed minimum. -/
  | amomin (d : BitVec 5) (a : BitVec 5) (b : BitVec 5) (l : BitVec 4)
  /-- AMOMAX (R190): Atomic signed maximum. -/
  | amomax (d : BitVec 5) (a : BitVec 5) (b : BitVec 5) (l : BitVec 4)
  /-- AMOMINU (R190): Atomic unsigned minimum. -/
  | amominu (d : BitVec 5) (a : BitVec 5) (b : BitVec 5) (l : BitVec 4)
  /-- AMOMAXU (R190): Atomic unsigned maximum. -/
  | amomaxu (d : BitVec 5) (a : BitVec 5) (b : BitVec 5) (l : BitVec 4)
  /-- AMOSWAP_I32 (R190): 32-bit atomic swap. -/
  | amoswapI32 (d : BitVec 5) (a : BitVec 5) (b : BitVec 5) (l : BitVec 4)
  /-- AMOADD_I32 (R190): 32-bit atomic add. -/
  | amoaddI32 (d : BitVec 5) (a : BitVec 5) (b : BitVec 5) (l : BitVec 4)
  /-- AMOAND_I32 (R190): 32-bit atomic AND. -/
  | amoandI32 (d : BitVec 5) (a : BitVec 5) (b : BitVec 5) (l : BitVec 4)
  /-- AMOOR_I32 (R190): 32-bit atomic OR. -/
  | amoorI32 (d : BitVec 5) (a : BitVec 5) (b : BitVec 5) (l : BitVec 4)
  /-- AMOXOR_I32 (R190): 32-bit atomic XOR. -/
  | amoxorI32 (d : BitVec 5) (a : BitVec 5) (b : BitVec 5) (l : BitVec 4)
  /-- AMOMIN_I32 (R190): 32-bit atomic signed minimum. -/
  | amominI32 (d : BitVec 5) (a : BitVec 5) (b : BitVec 5) (l : BitVec 4)
  /-- AMOMAX_I32 (R190): 32-bit atomic signed maximum. -/
  | amomaxI32 (d : BitVec 5) (a : BitVec 5) (b : BitVec 5) (l : BitVec 4)
  /-- AMOMINU_I32 (R190): 32-bit atomic unsigned minimum. -/
  | amominuI32 (d : BitVec 5) (a : BitVec 5) (b : BitVec 5) (l : BitVec 4)
  /-- AMOMAXU_I32 (R190): 32-bit atomic unsigned maximum. -/
  | amomaxuI32 (d : BitVec 5) (a : BitVec 5) (b : BitVec 5) (l : BitVec 4)
  /-- CAS (R191): Compare-and-swap. -/
  | cas (d : BitVec 5) (a : BitVec 5) (b : BitVec 5) (l : BitVec 4)
  /-- CASGT (R191): Stores when the old word exceeds a threshold. -/
  | casgt (d : BitVec 5) (a : BitVec 5) (b : BitVec 5) (l : BitVec 4)
  /-- CASVER (R191): Versioned compare-and-swap. -/
  | casver (d : BitVec 5) (a : BitVec 5) (b : BitVec 5) (l : BitVec 4)
  /-- CASTAG (R191): Compare-and-swap on the tag byte. -/
  | castag (d : BitVec 5) (a : BitVec 5) (b : BitVec 5) (l : BitVec 4)
  /-- AMOFADD (R192): Atomic binary64 add. -/
  | amofadd (d : BitVec 5) (a : BitVec 5) (b : BitVec 5) (l : BitVec 4)
  /-- REDADD (R193): Reduction add with optional redirection. -/
  | redadd (d : BitVec 5) (a : BitVec 5) (b : BitVec 5) (l : BitVec 4)
  /-- REDMIN (R193): Reduction signed minimum. -/
  | redmin (d : BitVec 5) (a : BitVec 5) (b : BitVec 5) (l : BitVec 4)
  /-- REDMAX (R193): Reduction signed maximum. -/
  | redmax (d : BitVec 5) (a : BitVec 5) (b : BitVec 5) (l : BitVec 4)
  /-- REDFADD (R193): Reduction binary64 add. -/
  | redfadd (d : BitVec 5) (a : BitVec 5) (b : BitVec 5) (l : BitVec 4)
  /-- REDOR (R193): Reduction OR. -/
  | redor (d : BitVec 5) (a : BitVec 5) (b : BitVec 5) (l : BitVec 4)
  /-- BAR_ARR (R355): Arrives at a named barrier. -/
  | barArr (n : BitVec 5)
  /-- BAR_WAIT (R355): Waits for the barrier phase to change. -/
  | barWait (n : BitVec 5)
  /-- BAR_ARRW (R355): Arrives at a barrier and waits. -/
  | barArrw (n : BitVec 5)
  /-- BAR_INIT (R355): Sets a barrier's target and scope. -/
  | barInit (n : BitVec 5) (a : BitVec 5) (s : BitVec 3)
  /-- EVWAIT (R357): Sleeps until an event count, mutex or barrier is available. -/
  | evwait (d : BitVec 5) (a : BitVec 5)
  /-- EVSIG (R357): Signals an event count or frees a mutex. -/
  | evsig (a : BitVec 5) (b : BitVec 5)
  /-- MSG (R350): Writes a word to a target core and increments its message counter. -/
  | msg (a : BitVec 5) (b : BitVec 5)
  /-- CNTADD (R350): Adds to an own message counter at commit. -/
  | cntadd (n : BitVec 4) (a : BitVec 5)
  /-- CNTWAIT (R350): Waits until a message counter reaches a threshold. -/
  | cntwait (n : BitVec 4) (a : BitVec 5)
  /-- TKPOST (R306): Posts a WTT image into a core's entry. -/
  | tkpost (d : BitVec 5) (a : BitVec 5) (b : BitVec 5)
  /-- TKCANCEL (R307): Cancels a waiting or eligible entry. -/
  | tkcancel (d : BitVec 5) (a : BitVec 5)
  /-- TKEXIT (R311): Ends the task on the core after its commands end. -/
  | tkexit
  /-- TKYIELD (R312): Offers the core to other entries, saving the task if one qualifies. -/
  | tkyield (a : BitVec 5) (b : BitVec 5)
  /-- PREHINT (R319): Latches liveness and ranges and saves the task when pre-emption is pending. -/
  | prehint (a : BitVec 5) (b : BitVec 5)
  /-- GANG (R314): Fuses running cores of a forge into a gang. -/
  | gang (a : BitVec 5)
  /-- SPLIT (R317): Leaves the gang. -/
  | split
  /-- CROPEN (R337): Opens a containment region. -/
  | cropen (a : BitVec 5)
  /-- CRCLOSE (R337): Closes the innermost containment region after its commands end. -/
  | crclose
  /-- TKSTAT (R308): Reads the status word of a WTT entry. -/
  | tkstat (d : BitVec 5) (a : BitVec 5)
  /-- QSEND (R219): Reads a TCW from memory, checks it and enqueues it. -/
  | qsend (q : BitVec 4) (a : BitVec 5) (t : BitVec 5)
  /-- QSENDV (R219): Enqueues a TCW taken from a vector register. -/
  | qsendv (q : BitVec 4) (a : BitVec 5) (t : BitVec 5)
  /-- QPUSH (R224): Reserves and, at commit, appends a marker word to a completion queue. -/
  | qpush (q : BitVec 4) (a : BitVec 5)
  /-- QPOP (R223): Waits for and pops a completion word. -/
  | qpop (d : BitVec 5) (q : BitVec 4) (l : BitVec 4)
  /-- QPOPV (R223): Pops up to 16 completion words into a vector. -/
  | qpopv (d : BitVec 5) (q : BitVec 4) (l : BitVec 4)
  /-- QSTAT (R225): Reads queue status. -/
  | qstat (d : BitVec 5) (q : BitVec 4)
  /-- QFLUSH (R226): At commit removes unstarted commands or unheld words of a queue. -/
  | qflush (q : BitVec 4)
  /-- LKRD (R125): Waits for and takes the inbound link slot value. -/
  | lkrd (d : BitVec 5) (k : BitVec 2) (l : BitVec 4)
  /-- LKRDF (R125): Waits for and reads the inbound link slot leaving it full. -/
  | lkrdf (d : BitVec 5) (k : BitVec 2) (l : BitVec 4)
  /-- LKWR (R125): Waits until the neighbour's slot is empty and sends a value. -/
  | lkwr (k : BitVec 2) (a : BitVec 5)
  /-- LKSTAT (R125): Reads link slot status. -/
  | lkstat (d : BitVec 5)
  /-- TLOC (R340): Classifies a retry record and locates a single error. -/
  | tloc (d : BitVec 5) (a : BitVec 5) (l : BitVec 4)
  /-- TFIX (R341): Corrects a single located anvil error and releases the record. -/
  | tfix (d : BitVec 5) (a : BitVec 5)
  /-- TRETRY (R342): Resends the MAPPLY of a retry record or drops the record. -/
  | tretry (d : BitVec 5) (a : BitVec 5)
  /-- TRRD (R343): Reads a word of a retry record. -/
  | trrd (d : BitVec 5) (a : BitVec 5) (b : BitVec 5) (l : BitVec 4)
  /-- WSPSW (R136): Requests a weight-set switch at the next batch boundary. -/
  | wspsw (a : BitVec 5)
  /-- MBATCH (R136): Opens a batch boundary in the forge's anvil queues. -/
  | mbatch (d : BitVec 5)
  /-- MDRAIN (R265): Waits until the core's earlier anvil commands have ended. -/
  | mdrain (d : BitVec 5)
  /-- SKCOMB (R137): Forms the keeper exponent and delivers it to forge cores' SKX. -/
  | skcomb (d : BitVec 5) (a : BitVec 5) (b : BitVec 5)
  /-- CKACC (R120): Adds into a checksum accumulator. -/
  | ckacc (k : BitVec 2) (a : BitVec 5) (l : BitVec 4)
  /-- CKACCX (R120): Rotate-XOR into a checksum accumulator. -/
  | ckaccx (k : BitVec 2) (a : BitVec 5) (l : BitVec 4)
  /-- CKACCF (R120): Binary64 add into a checksum accumulator. -/
  | ckaccf (k : BitVec 2) (a : BitVec 5) (l : BitVec 4)
  /-- CKACCV (R120): Folds a vector's elements into a checksum accumulator. -/
  | ckaccv (k : BitVec 2) (a : BitVec 5) (e : BitVec 5) (l : BitVec 4)
  /-- CKCHK (R121): Integer checksum compare raising CHECK_FAIL on mismatch. -/
  | ckchk (k : BitVec 2) (a : BitVec 5) (b : BitVec 5) (l : BitVec 4)
  /-- CKCHKF (R121): Binary64 checksum compare raising CHECK_FAIL on mismatch. -/
  | ckchkf (k : BitVec 2) (a : BitVec 5) (b : BitVec 5) (l : BitVec 4)
  /-- CKCLR (R120): Clears a checksum accumulator. -/
  | ckclr (k : BitVec 2)
  /-- CKRD (R120): Reads a checksum accumulator. -/
  | ckrd (d : BitVec 5) (k : BitVec 2)
  /-- FSHL (R88): Funnel shift left. -/
  | fshl (d : BitVec 5) (a : BitVec 5) (b : BitVec 5) (c : BitVec 5)
  /-- FSHR (R88): Funnel shift right. -/
  | fshr (d : BitVec 5) (a : BitVec 5) (b : BitVec 5) (c : BitVec 5)
  /-- BEXTV (R88): Extracts a bit field with register position and length. -/
  | bextv (d : BitVec 5) (a : BitVec 5) (b : BitVec 5) (c : BitVec 5)
  /-- BINSV (R88): Inserts a bit field with register position and length. -/
  | binsv (d : BitVec 5) (a : BitVec 5) (b : BitVec 5) (c : BitVec 5)
  /-- VADD_I32 (R103): Vector int32 add. -/
  | vaddI32 (d : BitVec 5) (a : BitVec 5) (b : BitVec 5) (p : BitVec 3) (l : BitVec 4)
  /-- VSUB_I32 (R103): Vector int32 subtract. -/
  | vsubI32 (d : BitVec 5) (a : BitVec 5) (b : BitVec 5) (p : BitVec 3) (l : BitVec 4)
  /-- VMUL_I32 (R103): Vector int32 multiply. -/
  | vmulI32 (d : BitVec 5) (a : BitVec 5) (b : BitVec 5) (p : BitVec 3) (l : BitVec 4)
  /-- VMAC_I32 (R103): Vector int32 multiply-accumulate. -/
  | vmacI32 (d : BitVec 5) (a : BitVec 5) (b : BitVec 5) (p : BitVec 3) (l : BitVec 4)
  /-- VMIN_I32 (R103): Vector int32 signed minimum. -/
  | vminI32 (d : BitVec 5) (a : BitVec 5) (b : BitVec 5) (p : BitVec 3) (l : BitVec 4)
  /-- VMAX_I32 (R103): Vector int32 signed maximum. -/
  | vmaxI32 (d : BitVec 5) (a : BitVec 5) (b : BitVec 5) (p : BitVec 3) (l : BitVec 4)
  /-- VMINU_I32 (R103): Vector int32 unsigned minimum. -/
  | vminuI32 (d : BitVec 5) (a : BitVec 5) (b : BitVec 5) (p : BitVec 3) (l : BitVec 4)
  /-- VMAXU_I32 (R103): Vector int32 unsigned maximum. -/
  | vmaxuI32 (d : BitVec 5) (a : BitVec 5) (b : BitVec 5) (p : BitVec 3) (l : BitVec 4)
  /-- VABS_I32 (R103): Vector int32 absolute value. -/
  | vabsI32 (d : BitVec 5) (a : BitVec 5) (p : BitVec 3) (l : BitVec 4)
  /-- VNEG_I32 (R103): Vector int32 negate. -/
  | vnegI32 (d : BitVec 5) (a : BitVec 5) (p : BitVec 3) (l : BitVec 4)
  /-- VSHL_I32 (R103): Vector int32 shift left. -/
  | vshlI32 (d : BitVec 5) (a : BitVec 5) (b : BitVec 5) (p : BitVec 3) (l : BitVec 4)
  /-- VSHR_I32 (R103): Vector int32 logical shift right. -/
  | vshrI32 (d : BitVec 5) (a : BitVec 5) (b : BitVec 5) (p : BitVec 3) (l : BitVec 4)
  /-- VSRA_I32 (R103): Vector int32 arithmetic shift right. -/
  | vsraI32 (d : BitVec 5) (a : BitVec 5) (b : BitVec 5) (p : BitVec 3) (l : BitVec 4)
  /-- VCEQ_I32 (R106): Vector int32 equality compare into a predicate. -/
  | vceqI32 (d : BitVec 3) (a : BitVec 5) (b : BitVec 5) (p : BitVec 3) (l : BitVec 4)
  /-- VCLT_I32 (R106): Vector int32 signed less-than compare. -/
  | vcltI32 (d : BitVec 3) (a : BitVec 5) (b : BitVec 5) (p : BitVec 3) (l : BitVec 4)
  /-- VCLTU_I32 (R106): Vector int32 unsigned less-than compare. -/
  | vcltuI32 (d : BitVec 3) (a : BitVec 5) (b : BitVec 5) (p : BitVec 3) (l : BitVec 4)
  /-- VADD_I16 (R103): Vector int16 add. -/
  | vaddI16 (d : BitVec 5) (a : BitVec 5) (b : BitVec 5) (p : BitVec 3) (l : BitVec 4)
  /-- VSUB_I16 (R103): Vector int16 subtract. -/
  | vsubI16 (d : BitVec 5) (a : BitVec 5) (b : BitVec 5) (p : BitVec 3) (l : BitVec 4)
  /-- VMUL_I16 (R103): Vector int16 multiply. -/
  | vmulI16 (d : BitVec 5) (a : BitVec 5) (b : BitVec 5) (p : BitVec 3) (l : BitVec 4)
  /-- VMAC_I16 (R103): Vector int16 multiply-accumulate. -/
  | vmacI16 (d : BitVec 5) (a : BitVec 5) (b : BitVec 5) (p : BitVec 3) (l : BitVec 4)
  /-- VMIN_I16 (R103): Vector int16 signed minimum. -/
  | vminI16 (d : BitVec 5) (a : BitVec 5) (b : BitVec 5) (p : BitVec 3) (l : BitVec 4)
  /-- VMAX_I16 (R103): Vector int16 signed maximum. -/
  | vmaxI16 (d : BitVec 5) (a : BitVec 5) (b : BitVec 5) (p : BitVec 3) (l : BitVec 4)
  /-- VMINU_I16 (R103): Vector int16 unsigned minimum. -/
  | vminuI16 (d : BitVec 5) (a : BitVec 5) (b : BitVec 5) (p : BitVec 3) (l : BitVec 4)
  /-- VMAXU_I16 (R103): Vector int16 unsigned maximum. -/
  | vmaxuI16 (d : BitVec 5) (a : BitVec 5) (b : BitVec 5) (p : BitVec 3) (l : BitVec 4)
  /-- VABS_I16 (R103): Vector int16 absolute value. -/
  | vabsI16 (d : BitVec 5) (a : BitVec 5) (p : BitVec 3) (l : BitVec 4)
  /-- VNEG_I16 (R103): Vector int16 negate. -/
  | vnegI16 (d : BitVec 5) (a : BitVec 5) (p : BitVec 3) (l : BitVec 4)
  /-- VSHL_I16 (R103): Vector int16 shift left. -/
  | vshlI16 (d : BitVec 5) (a : BitVec 5) (b : BitVec 5) (p : BitVec 3) (l : BitVec 4)
  /-- VSHR_I16 (R103): Vector int16 logical shift right. -/
  | vshrI16 (d : BitVec 5) (a : BitVec 5) (b : BitVec 5) (p : BitVec 3) (l : BitVec 4)
  /-- VSRA_I16 (R103): Vector int16 arithmetic shift right. -/
  | vsraI16 (d : BitVec 5) (a : BitVec 5) (b : BitVec 5) (p : BitVec 3) (l : BitVec 4)
  /-- VCEQ_I16 (R106): Vector int16 equality compare. -/
  | vceqI16 (d : BitVec 3) (a : BitVec 5) (b : BitVec 5) (p : BitVec 3) (l : BitVec 4)
  /-- VCLT_I16 (R106): Vector int16 signed less-than compare. -/
  | vcltI16 (d : BitVec 3) (a : BitVec 5) (b : BitVec 5) (p : BitVec 3) (l : BitVec 4)
  /-- VCLTU_I16 (R106): Vector int16 unsigned less-than compare. -/
  | vcltuI16 (d : BitVec 3) (a : BitVec 5) (b : BitVec 5) (p : BitVec 3) (l : BitVec 4)
  /-- VADD_I8 (R103): Vector int8 add. -/
  | vaddI8 (d : BitVec 5) (a : BitVec 5) (b : BitVec 5) (p : BitVec 3) (l : BitVec 4)
  /-- VSUB_I8 (R103): Vector int8 subtract. -/
  | vsubI8 (d : BitVec 5) (a : BitVec 5) (b : BitVec 5) (p : BitVec 3) (l : BitVec 4)
  /-- VMUL_I8 (R103): Vector int8 multiply. -/
  | vmulI8 (d : BitVec 5) (a : BitVec 5) (b : BitVec 5) (p : BitVec 3) (l : BitVec 4)
  /-- VMAC_I8 (R103): Vector int8 multiply-accumulate. -/
  | vmacI8 (d : BitVec 5) (a : BitVec 5) (b : BitVec 5) (p : BitVec 3) (l : BitVec 4)
  /-- VMIN_I8 (R103): Vector int8 signed minimum. -/
  | vminI8 (d : BitVec 5) (a : BitVec 5) (b : BitVec 5) (p : BitVec 3) (l : BitVec 4)
  /-- VMAX_I8 (R103): Vector int8 signed maximum. -/
  | vmaxI8 (d : BitVec 5) (a : BitVec 5) (b : BitVec 5) (p : BitVec 3) (l : BitVec 4)
  /-- VMINU_I8 (R103): Vector int8 unsigned minimum. -/
  | vminuI8 (d : BitVec 5) (a : BitVec 5) (b : BitVec 5) (p : BitVec 3) (l : BitVec 4)
  /-- VMAXU_I8 (R103): Vector int8 unsigned maximum. -/
  | vmaxuI8 (d : BitVec 5) (a : BitVec 5) (b : BitVec 5) (p : BitVec 3) (l : BitVec 4)
  /-- VABS_I8 (R103): Vector int8 absolute value. -/
  | vabsI8 (d : BitVec 5) (a : BitVec 5) (p : BitVec 3) (l : BitVec 4)
  /-- VNEG_I8 (R103): Vector int8 negate. -/
  | vnegI8 (d : BitVec 5) (a : BitVec 5) (p : BitVec 3) (l : BitVec 4)
  /-- VSHL_I8 (R103): Vector int8 shift left. -/
  | vshlI8 (d : BitVec 5) (a : BitVec 5) (b : BitVec 5) (p : BitVec 3) (l : BitVec 4)
  /-- VSHR_I8 (R103): Vector int8 logical shift right. -/
  | vshrI8 (d : BitVec 5) (a : BitVec 5) (b : BitVec 5) (p : BitVec 3) (l : BitVec 4)
  /-- VSRA_I8 (R103): Vector int8 arithmetic shift right. -/
  | vsraI8 (d : BitVec 5) (a : BitVec 5) (b : BitVec 5) (p : BitVec 3) (l : BitVec 4)
  /-- VCEQ_I8 (R106): Vector int8 equality compare. -/
  | vceqI8 (d : BitVec 3) (a : BitVec 5) (b : BitVec 5) (p : BitVec 3) (l : BitVec 4)
  /-- VCLT_I8 (R106): Vector int8 signed less-than compare. -/
  | vcltI8 (d : BitVec 3) (a : BitVec 5) (b : BitVec 5) (p : BitVec 3) (l : BitVec 4)
  /-- VCLTU_I8 (R106): Vector int8 unsigned less-than compare. -/
  | vcltuI8 (d : BitVec 3) (a : BitVec 5) (b : BitVec 5) (p : BitVec 3) (l : BitVec 4)
  /-- VADD_F32 (R104): Vector FP32 add. -/
  | vaddF32 (d : BitVec 5) (a : BitVec 5) (b : BitVec 5) (p : BitVec 3) (l : BitVec 4)
  /-- VSUB_F32 (R104): Vector FP32 subtract. -/
  | vsubF32 (d : BitVec 5) (a : BitVec 5) (b : BitVec 5) (p : BitVec 3) (l : BitVec 4)
  /-- VMUL_F32 (R104): Vector FP32 multiply. -/
  | vmulF32 (d : BitVec 5) (a : BitVec 5) (b : BitVec 5) (p : BitVec 3) (l : BitVec 4)
  /-- VFMA_F32 (R104): Vector FP32 fused multiply-add. -/
  | vfmaF32 (d : BitVec 5) (a : BitVec 5) (b : BitVec 5) (p : BitVec 3) (l : BitVec 4)
  /-- VMIN_F32 (R104): Vector FP32 minimum. -/
  | vminF32 (d : BitVec 5) (a : BitVec 5) (b : BitVec 5) (p : BitVec 3) (l : BitVec 4)
  /-- VMAX_F32 (R104): Vector FP32 maximum. -/
  | vmaxF32 (d : BitVec 5) (a : BitVec 5) (b : BitVec 5) (p : BitVec 3) (l : BitVec 4)
  /-- VFMS_F32 (R104): Vector FP32 fused multiply-subtract. -/
  | vfmsF32 (d : BitVec 5) (a : BitVec 5) (b : BitVec 5) (p : BitVec 3) (l : BitVec 4)
  /-- VDIV_F32 (R104): Vector FP32 divide. -/
  | vdivF32 (d : BitVec 5) (a : BitVec 5) (b : BitVec 5) (p : BitVec 3) (l : BitVec 4)
  /-- VABS_F32 (R104): Vector FP32 absolute value. -/
  | vabsF32 (d : BitVec 5) (a : BitVec 5) (p : BitVec 3) (l : BitVec 4)
  /-- VNEG_F32 (R104): Vector FP32 negate. -/
  | vnegF32 (d : BitVec 5) (a : BitVec 5) (p : BitVec 3) (l : BitVec 4)
  /-- VSQRT_F32 (R104): Vector FP32 square root. -/
  | vsqrtF32 (d : BitVec 5) (a : BitVec 5) (p : BitVec 3) (l : BitVec 4)
  /-- VRCPE_F32 (R105): Vector FP32 reciprocal estimate. -/
  | vrcpeF32 (d : BitVec 5) (a : BitVec 5) (p : BitVec 3) (l : BitVec 4)
  /-- VRSQE_F32 (R105): Vector FP32 reciprocal square root estimate. -/
  | vrsqeF32 (d : BitVec 5) (a : BitVec 5) (p : BitVec 3) (l : BitVec 4)
  /-- VCEQ_F32 (R106): Vector FP32 quiet equality compare. -/
  | vceqF32 (d : BitVec 3) (a : BitVec 5) (b : BitVec 5) (p : BitVec 3) (l : BitVec 4)
  /-- VCLT_F32 (R106): Vector FP32 less-than compare. -/
  | vcltF32 (d : BitVec 3) (a : BitVec 5) (b : BitVec 5) (p : BitVec 3) (l : BitVec 4)
  /-- VCLE_F32 (R106): Vector FP32 less-or-equal compare. -/
  | vcleF32 (d : BitVec 3) (a : BitVec 5) (b : BitVec 5) (p : BitVec 3) (l : BitVec 4)
  /-- VADD_BF16 (R104): Vector BF16 add. -/
  | vaddBf16 (d : BitVec 5) (a : BitVec 5) (b : BitVec 5) (p : BitVec 3) (l : BitVec 4)
  /-- VSUB_BF16 (R104): Vector BF16 subtract. -/
  | vsubBf16 (d : BitVec 5) (a : BitVec 5) (b : BitVec 5) (p : BitVec 3) (l : BitVec 4)
  /-- VMUL_BF16 (R104): Vector BF16 multiply. -/
  | vmulBf16 (d : BitVec 5) (a : BitVec 5) (b : BitVec 5) (p : BitVec 3) (l : BitVec 4)
  /-- VFMA_BF16 (R104): Vector BF16 fused multiply-add. -/
  | vfmaBf16 (d : BitVec 5) (a : BitVec 5) (b : BitVec 5) (p : BitVec 3) (l : BitVec 4)
  /-- VMIN_BF16 (R104): Vector BF16 minimum. -/
  | vminBf16 (d : BitVec 5) (a : BitVec 5) (b : BitVec 5) (p : BitVec 3) (l : BitVec 4)
  /-- VMAX_BF16 (R104): Vector BF16 maximum. -/
  | vmaxBf16 (d : BitVec 5) (a : BitVec 5) (b : BitVec 5) (p : BitVec 3) (l : BitVec 4)
  /-- VFMS_BF16 (R104): Vector BF16 fused multiply-subtract. -/
  | vfmsBf16 (d : BitVec 5) (a : BitVec 5) (b : BitVec 5) (p : BitVec 3) (l : BitVec 4)
  /-- VABS_BF16 (R104): Vector BF16 absolute value. -/
  | vabsBf16 (d : BitVec 5) (a : BitVec 5) (p : BitVec 3) (l : BitVec 4)
  /-- VNEG_BF16 (R104): Vector BF16 negate. -/
  | vnegBf16 (d : BitVec 5) (a : BitVec 5) (p : BitVec 3) (l : BitVec 4)
  /-- VRCPE_BF16 (R105): Vector BF16 reciprocal estimate. -/
  | vrcpeBf16 (d : BitVec 5) (a : BitVec 5) (p : BitVec 3) (l : BitVec 4)
  /-- VRSQE_BF16 (R105): Vector BF16 reciprocal square root estimate. -/
  | vrsqeBf16 (d : BitVec 5) (a : BitVec 5) (p : BitVec 3) (l : BitVec 4)
  /-- VCEQ_BF16 (R106): Vector BF16 equality compare. -/
  | vceqBf16 (d : BitVec 3) (a : BitVec 5) (b : BitVec 5) (p : BitVec 3) (l : BitVec 4)
  /-- VCLT_BF16 (R106): Vector BF16 less-than compare. -/
  | vcltBf16 (d : BitVec 3) (a : BitVec 5) (b : BitVec 5) (p : BitVec 3) (l : BitVec 4)
  /-- VCLE_BF16 (R106): Vector BF16 less-or-equal compare. -/
  | vcleBf16 (d : BitVec 3) (a : BitVec 5) (b : BitVec 5) (p : BitVec 3) (l : BitVec 4)
  /-- VADD_F16 (R104): Vector FP16 add. -/
  | vaddF16 (d : BitVec 5) (a : BitVec 5) (b : BitVec 5) (p : BitVec 3) (l : BitVec 4)
  /-- VSUB_F16 (R104): Vector FP16 subtract. -/
  | vsubF16 (d : BitVec 5) (a : BitVec 5) (b : BitVec 5) (p : BitVec 3) (l : BitVec 4)
  /-- VMUL_F16 (R104): Vector FP16 multiply. -/
  | vmulF16 (d : BitVec 5) (a : BitVec 5) (b : BitVec 5) (p : BitVec 3) (l : BitVec 4)
  /-- VFMA_F16 (R104): Vector FP16 fused multiply-add. -/
  | vfmaF16 (d : BitVec 5) (a : BitVec 5) (b : BitVec 5) (p : BitVec 3) (l : BitVec 4)
  /-- VMIN_F16 (R104): Vector FP16 minimum. -/
  | vminF16 (d : BitVec 5) (a : BitVec 5) (b : BitVec 5) (p : BitVec 3) (l : BitVec 4)
  /-- VMAX_F16 (R104): Vector FP16 maximum. -/
  | vmaxF16 (d : BitVec 5) (a : BitVec 5) (b : BitVec 5) (p : BitVec 3) (l : BitVec 4)
  /-- VFMS_F16 (R104): Vector FP16 fused multiply-subtract. -/
  | vfmsF16 (d : BitVec 5) (a : BitVec 5) (b : BitVec 5) (p : BitVec 3) (l : BitVec 4)
  /-- VABS_F16 (R104): Vector FP16 absolute value. -/
  | vabsF16 (d : BitVec 5) (a : BitVec 5) (p : BitVec 3) (l : BitVec 4)
  /-- VNEG_F16 (R104): Vector FP16 negate. -/
  | vnegF16 (d : BitVec 5) (a : BitVec 5) (p : BitVec 3) (l : BitVec 4)
  /-- VRCPE_F16 (R105): Vector FP16 reciprocal estimate. -/
  | vrcpeF16 (d : BitVec 5) (a : BitVec 5) (p : BitVec 3) (l : BitVec 4)
  /-- VRSQE_F16 (R105): Vector FP16 reciprocal square root estimate. -/
  | vrsqeF16 (d : BitVec 5) (a : BitVec 5) (p : BitVec 3) (l : BitVec 4)
  /-- VCEQ_F16 (R106): Vector FP16 equality compare. -/
  | vceqF16 (d : BitVec 3) (a : BitVec 5) (b : BitVec 5) (p : BitVec 3) (l : BitVec 4)
  /-- VCLT_F16 (R106): Vector FP16 less-than compare. -/
  | vcltF16 (d : BitVec 3) (a : BitVec 5) (b : BitVec 5) (p : BitVec 3) (l : BitVec 4)
  /-- VCLE_F16 (R106): Vector FP16 less-or-equal compare. -/
  | vcleF16 (d : BitVec 3) (a : BitVec 5) (b : BitVec 5) (p : BitVec 3) (l : BitVec 4)
  /-- VAND (R107): Bytewise AND of vectors. -/
  | vand (d : BitVec 5) (a : BitVec 5) (b : BitVec 5) (p : BitVec 3)
  /-- VOR (R107): Bytewise OR of vectors. -/
  | vor (d : BitVec 5) (a : BitVec 5) (b : BitVec 5) (p : BitVec 3)
  /-- VXOR (R107): Bytewise XOR of vectors. -/
  | vxor (d : BitVec 5) (a : BitVec 5) (b : BitVec 5) (p : BitVec 3)
  /-- VANDN (R107): Bytewise AND with complement. -/
  | vandn (d : BitVec 5) (a : BitVec 5) (b : BitVec 5) (p : BitVec 3)
  /-- VSEL (R107): Bytewise select by predicate. -/
  | vsel (d : BitVec 5) (a : BitVec 5) (b : BitVec 5) (p : BitVec 3)
  /-- VPAND (R108): Predicate AND. -/
  | vpand (d : BitVec 3) (a : BitVec 3) (b : BitVec 3)
  /-- VPOR (R108): Predicate OR. -/
  | vpor (d : BitVec 3) (a : BitVec 3) (b : BitVec 3)
  /-- VPXOR (R108): Predicate XOR. -/
  | vpxor (d : BitVec 3) (a : BitVec 3) (b : BitVec 3)
  /-- VPNOT (R108): Predicate complement. -/
  | vpnot (d : BitVec 3) (a : BitVec 3)
  /-- VPCNT (R108): Counts active elements into a scalar. -/
  | vpcnt (d : BitVec 5) (a : BitVec 3) (e : BitVec 5) (p : BitVec 3) (l : BitVec 4)
  /-- VPFIRST (R108): Finds the first active element. -/
  | vpfirst (d : BitVec 5) (a : BitVec 3) (e : BitVec 5) (p : BitVec 3) (l : BitVec 4)
  /-- VPERM (R109): Byte permute by index vector. -/
  | vperm (d : BitVec 5) (a : BitVec 5) (b : BitVec 5) (p : BitVec 3) (l : BitVec 4)
  /-- VBCAST (R110): Broadcasts one element. -/
  | vbcast (d : BitVec 5) (a : BitVec 5) (b : BitVec 5) (w : BitVec 3) (l : BitVec 4)
  /-- VEXT (R109): Extracts 256 bytes from a register pair at a byte offset. -/
  | vext (d : BitVec 5) (a : BitVec 5) (b : BitVec 5) (p : BitVec 3) (l : BitVec 4)
  /-- VINS (R110): Inserts element 0 at an index. -/
  | vins (d : BitVec 5) (a : BitVec 5) (b : BitVec 5) (w : BitVec 3) (l : BitVec 4)
  /-- VSLUP (R109): Slides bytes up. -/
  | vslup (d : BitVec 5) (a : BitVec 5) (b : BitVec 5) (p : BitVec 3) (l : BitVec 4)
  /-- VSLDN (R109): Slides bytes down. -/
  | vsldn (d : BitVec 5) (a : BitVec 5) (b : BitVec 5) (p : BitVec 3) (l : BitVec 4)
  /-- VIOTA (R111): Writes running counts of active elements. -/
  | viota (d : BitVec 5) (e : BitVec 5) (p : BitVec 3) (l : BitVec 4)
  /-- VCOMPR (R111): Compresses active elements. -/
  | vcompr (d : BitVec 5) (a : BitVec 5) (e : BitVec 5) (p : BitVec 3) (l : BitVec 4)
  /-- VREDI (R112): Integer sum reduction. -/
  | vredi (d : BitVec 5) (a : BitVec 5) (e : BitVec 5) (p : BitVec 3) (l : BitVec 4)
  /-- VREDF (R112): Floating-point pairwise-tree sum reduction. -/
  | vredf (d : BitVec 5) (a : BitVec 5) (e : BitVec 5) (p : BitVec 3) (l : BitVec 4)
  /-- VREDMX (R112): Maximum reduction. -/
  | vredmx (d : BitVec 5) (a : BitVec 5) (e : BitVec 5) (p : BitVec 3) (l : BitVec 4)
  /-- VREDMN (R112): Minimum reduction. -/
  | vredmn (d : BitVec 5) (a : BitVec 5) (e : BitVec 5) (p : BitVec 3) (l : BitVec 4)
  /-- VCVT (R113): Converts elements by conversion code and part. -/
  | vcvt (d : BitVec 5) (a : BitVec 5) (c : BitVec 5) (x : BitVec 2) (p : BitVec 3) (l : BitVec 4)
  /-- VQGRP (R115): Quantises a register pair into asymmetric groups in memory. -/
  | vqgrp (d : BitVec 5) (a : BitVec 4) (b : BitVec 5) (t : BitVec 3) (l : BitVec 4)
  /-- VDQGRP (R115): Dequantises asymmetric groups from memory into a register pair. -/
  | vdqgrp (d : BitVec 4) (a : BitVec 5) (b : BitVec 5) (t : BitVec 3) (l : BitVec 4)
  /-- VQMX (R116): Quantises a register pair into MX blocks in memory. -/
  | vqmx (d : BitVec 5) (a : BitVec 4) (b : BitVec 5) (t : BitVec 3) (l : BitVec 4)
  /-- VDQMX (R116): Dequantises MX blocks from memory into a register pair. -/
  | vdqmx (d : BitVec 4) (a : BitVec 5) (b : BitVec 5) (t : BitVec 3) (l : BitVec 4)
  /-- VSCACC (R118): Scaled accumulate of anvil mantissas into FP32. -/
  | vscacc (d : BitVec 5) (a : BitVec 5) (b : BitVec 5) (p : BitVec 3) (l : BitVec 4)
  /-- VBFPN (R117): Writes block floating-point mantissas. -/
  | vbfpn (d : BitVec 5) (a : BitVec 5) (b : BitVec 5) (f : BitVec 3) (l : BitVec 4)
  /-- VBFPX (R117): Folds a vector into the running block exponent. -/
  | vbfpx (d : BitVec 5) (a : BitVec 5) (f : BitVec 3) (l : BitVec 4)
  /-- VZPC (R118): Subtracts a zero-point correction term. -/
  | vzpc (d : BitVec 5) (a : BitVec 5) (b : BitVec 5) (p : BitVec 3) (l : BitVec 4)
  /-- VLD (R162): Loads 256 bytes into a vector. -/
  | vld (d : BitVec 5) (a : BitVec 5) (o : BitVec 12) (l : BitVec 4)
  /-- VST (R162): Stores a vector's 256 bytes. -/
  | vst (d : BitVec 5) (a : BitVec 5) (o : BitVec 12) (l : BitVec 4)
  /-- VLDS (R163): Strided lane load. -/
  | vlds (d : BitVec 5) (a : BitVec 5) (b : BitVec 5) (p : BitVec 3) (l : BitVec 4)
  /-- VSTS (R163): Strided lane store. -/
  | vsts (d : BitVec 5) (a : BitVec 5) (b : BitVec 5) (p : BitVec 3) (l : BitVec 4)
  /-- VGTH (R163): Gather lane load. -/
  | vgth (d : BitVec 5) (a : BitVec 5) (b : BitVec 5) (p : BitVec 3) (l : BitVec 4)
  /-- VSCT (R163): Scatter lane store. -/
  | vsct (d : BitVec 5) (a : BitVec 5) (b : BitVec 5) (p : BitVec 3) (l : BitVec 4)
  /-- VLDB (R164): Loads one element and broadcasts it. -/
  | vldb (d : BitVec 5) (a : BitVec 5) (w : BitVec 3) (l : BitVec 4)
  /-- VMVSV (R119): Broadcasts a scalar into a vector. -/
  | vmvsv (d : BitVec 5) (a : BitVec 5) (w : BitVec 3) (l : BitVec 4)
  /-- VMVVS (R119): Moves a vector element into a scalar. -/
  | vmvvs (d : BitVec 5) (a : BitVec 5) (b : BitVec 5) (w : BitVec 3) (l : BitVec 4)
  /-- VPLD (R119): Loads a predicate from a vector slice, 0 to 7 (DEDUCED: log entry 102). -/
  | vpld (d : BitVec 3) (a : BitVec 5) (n : BitVec 3) (l : BitVec 4)
  /-- VPST (R119): Stores a predicate into a vector slice, 0 to 7 (DEDUCED: log entry 102). -/
  | vpst (d : BitVec 5) (a : BitVec 3) (n : BitVec 3) (l : BitVec 4)
  deriving DecidableEq, Repr

end Sys2Proof
end

