-- ==== Sys2Proof/WellFormed.lean ====
section
/-! DEFINITION. Which instructions are well formed: the field values to which the manual gives a meaning (03_encoding
R66), and for a step of the device, units that exist. Every other value makes the word an illegal instruction. -/

namespace Sys2Proof

/-- A command queue (11_engine_queues R215). -/
abbrev qcmd (q : BitVec 4) : Prop := q.toNat < 8 ∧ q.toNat % 2 = 0

/-- A completion queue (11_engine_queues R215). -/
abbrev qcpl (q : BitVec 4) : Prop := q.toNat < 8 ∧ q.toNat % 2 = 1

/-- How many parts a conversion code has: 1 for 1:1, the ratio for a widening or narrowing one, 0 for the codes that
name no conversion (02_formats R46). -/
def vcvtParts (c : BitVec 5) : Nat :=
  match c.toNat with
  | 0 | 1 | 2 | 3 | 15 | 16 | 18 | 22 | 23 | 26 | 27 | 28 => 2
  | 4 | 5 | 6 | 7 | 8 | 9 | 13 | 14 | 17 | 19 | 24 | 25 => 4
  | 10 | 11 | 12 | 20 | 21 => 1
  | _ => 0

/-- A conversion code with a part that exists (02_formats R46). -/
abbrev vcvtOk (c : BitVec 5) (p : BitVec 2) : Prop := p.toNat < vcvtParts c

/-- Every field of the instruction has a value that the manual assigns. -/
def Instr.wf : Instr → Bool
  | .ill => true
  | .nop => true
  | .illegalInstruction _ => true
  | .emul _ => true
  | .csrr _ _ => true
  | .csrw _ _ _ => true
  | .csrs _ _ _ => true
  | .csrc _ _ _ => true
  | .fence s => decide (s ≠ 7)
  | .rel s => decide (s ≠ 7)
  | .acq s => decide (s ≠ 7)
  | .chunke => true
  | .svc _ => true
  | .halt => true
  | .resume _ _ => true
  | .tlbi _ _ => true
  | .frply _ => true
  | .l2flw _ => true
  | .hflush _ _ m => decide (m ≠ 3)
  | .add _ _ _ => true
  | .sub _ _ _ => true
  | .and _ _ _ => true
  | .or _ _ _ => true
  | .xor _ _ _ => true
  | .andn _ _ _ => true
  | .orn _ _ _ => true
  | .xnor _ _ _ => true
  | .sll _ _ _ => true
  | .srl _ _ _ => true
  | .sra _ _ _ => true
  | .rol _ _ _ => true
  | .ror _ _ _ => true
  | .slt _ _ _ => true
  | .sltu _ _ _ => true
  | .seq _ _ _ => true
  | .min _ _ _ => true
  | .max _ _ _ => true
  | .minu _ _ _ => true
  | .maxu _ _ _ => true
  | .mul _ _ _ _ => true
  | .mulh _ _ _ _ => true
  | .mulhu _ _ _ _ => true
  | .div _ _ _ _ => true
  | .divu _ _ _ _ => true
  | .rem _ _ _ _ => true
  | .remu _ _ _ _ => true
  | .clz _ _ => true
  | .ctz _ _ => true
  | .popc _ _ => true
  | .brev _ _ => true
  | .bswap _ _ => true
  | .sextb _ _ => true
  | .sexth _ _ => true
  | .sextw _ _ => true
  | .zextw _ _ => true
  | .addw _ _ _ => true
  | .subw _ _ _ => true
  | .adds _ _ _ => true
  | .hadd _ _ _ => true
  | .addi _ _ _ => true
  | .andi _ _ _ => true
  | .ori _ _ _ => true
  | .xori _ _ _ => true
  | .slti _ _ _ => true
  | .sltiu _ _ _ => true
  | .lui _ _ => true
  | .slli _ _ _ => true
  | .srli _ _ _ => true
  | .srai _ _ _ => true
  | .rori _ _ _ => true
  | .beq _ _ _ => true
  | .bne _ _ _ => true
  | .blt _ _ _ => true
  | .bge _ _ _ => true
  | .bltu _ _ _ => true
  | .bgeu _ _ _ => true
  | .jal _ => true
  | .jalr _ _ _ => true
  | .lb _ _ _ _ => true
  | .lh _ _ _ _ => true
  | .lw _ _ _ _ => true
  | .ld _ _ _ _ => true
  | .lbu _ _ _ _ => true
  | .lhu _ _ _ _ => true
  | .lwu _ _ _ _ => true
  | .sb _ _ _ _ => true
  | .sh _ _ _ _ => true
  | .sw _ _ _ _ => true
  | .sd _ _ _ _ => true
  | .lds _ _ _ _ => true
  | .ldse _ _ _ => true
  | .stf _ _ _ => true
  | .feclr _ _ => true
  | .feset _ _ => true
  | .feq _ _ _ => true
  | .fadd _ _ _ _ => true
  | .fsub _ _ _ _ => true
  | .fmul _ _ _ _ => true
  | .fdiv _ _ _ _ => true
  | .fsqrt _ _ _ => true
  | .fmin _ _ _ _ => true
  | .fmax _ _ _ _ => true
  | .fceq _ _ _ _ => true
  | .fclt _ _ _ _ => true
  | .fcle _ _ _ _ => true
  | .fmac _ _ _ _ => true
  | .fcvtdl _ _ _ => true
  | .fcvtld _ _ _ => true
  | .fcvtsd _ _ _ => true
  | .fcvtds _ _ _ => true
  | .fclass _ _ _ => true
  | .bext _ _ _ _ => true
  | .bexts _ _ _ _ => true
  | .bins _ _ _ _ => true
  | .amoswap _ _ _ _ => true
  | .amoadd _ _ _ _ => true
  | .amoand _ _ _ _ => true
  | .amoor _ _ _ _ => true
  | .amoxor _ _ _ _ => true
  | .amomin _ _ _ _ => true
  | .amomax _ _ _ _ => true
  | .amominu _ _ _ _ => true
  | .amomaxu _ _ _ _ => true
  | .amoswapI32 _ _ _ _ => true
  | .amoaddI32 _ _ _ _ => true
  | .amoandI32 _ _ _ _ => true
  | .amoorI32 _ _ _ _ => true
  | .amoxorI32 _ _ _ _ => true
  | .amominI32 _ _ _ _ => true
  | .amomaxI32 _ _ _ _ => true
  | .amominuI32 _ _ _ _ => true
  | .amomaxuI32 _ _ _ _ => true
  | .cas _ _ _ _ => true
  | .casgt _ _ _ _ => true
  | .casver _ _ _ _ => true
  | .castag _ _ _ _ => true
  | .amofadd _ _ _ _ => true
  | .redadd _ _ _ _ => true
  | .redmin _ _ _ _ => true
  | .redmax _ _ _ _ => true
  | .redfadd _ _ _ _ => true
  | .redor _ _ _ _ => true
  | .barArr _ => true
  | .barWait _ => true
  | .barArrw _ => true
  | .barInit _ _ s => decide (s ≠ 6 ∧ s ≠ 7)
  | .evwait _ _ => true
  | .evsig _ _ => true
  | .msg _ _ => true
  | .cntadd _ _ => true
  | .cntwait _ _ => true
  | .tkpost _ _ _ => true
  | .tkcancel _ _ => true
  | .tkexit => true
  | .tkyield _ _ => true
  | .prehint _ _ => true
  | .gang _ => true
  | .split => true
  | .cropen _ => true
  | .crclose => true
  | .tkstat _ _ => true
  | .qsend q _ t => decide (qcmd q ∧ (q = 2 ∨ q = 6 ∨ t = 0))
  | .qsendv q _ t => decide (qcmd q ∧ (q = 2 ∨ q = 6 ∨ t = 0))
  | .qpush q _ => decide (qcpl q)
  | .qpop _ q _ => decide (qcpl q)
  | .qpopv _ q _ => decide (qcpl q)
  | .qstat _ q => decide (q.toNat < 8)
  | .qflush q => decide (q.toNat < 8)
  | .lkrd _ _ _ => true
  | .lkrdf _ _ _ => true
  | .lkwr _ _ => true
  | .lkstat _ => true
  | .tloc _ _ _ => true
  | .tfix _ _ => true
  | .tretry _ _ => true
  | .trrd _ _ _ _ => true
  | .wspsw _ => true
  | .mbatch _ => true
  | .mdrain _ => true
  | .skcomb _ _ _ => true
  | .ckacc _ _ _ => true
  | .ckaccx _ _ _ => true
  | .ckaccf _ _ _ => true
  | .ckaccv _ _ e _ => decide (e.toNat ≤ 5)
  | .ckchk _ _ _ _ => true
  | .ckchkf _ _ _ _ => true
  | .ckclr _ => true
  | .ckrd _ _ => true
  | .fshl _ _ _ _ => true
  | .fshr _ _ _ _ => true
  | .bextv _ _ _ _ => true
  | .binsv _ _ _ _ => true
  | .vaddI32 _ _ _ _ _ => true
  | .vsubI32 _ _ _ _ _ => true
  | .vmulI32 _ _ _ _ _ => true
  | .vmacI32 _ _ _ _ _ => true
  | .vminI32 _ _ _ _ _ => true
  | .vmaxI32 _ _ _ _ _ => true
  | .vminuI32 _ _ _ _ _ => true
  | .vmaxuI32 _ _ _ _ _ => true
  | .vabsI32 _ _ _ _ => true
  | .vnegI32 _ _ _ _ => true
  | .vshlI32 _ _ _ _ _ => true
  | .vshrI32 _ _ _ _ _ => true
  | .vsraI32 _ _ _ _ _ => true
  | .vceqI32 _ _ _ _ _ => true
  | .vcltI32 _ _ _ _ _ => true
  | .vcltuI32 _ _ _ _ _ => true
  | .vaddI16 _ _ _ _ _ => true
  | .vsubI16 _ _ _ _ _ => true
  | .vmulI16 _ _ _ _ _ => true
  | .vmacI16 _ _ _ _ _ => true
  | .vminI16 _ _ _ _ _ => true
  | .vmaxI16 _ _ _ _ _ => true
  | .vminuI16 _ _ _ _ _ => true
  | .vmaxuI16 _ _ _ _ _ => true
  | .vabsI16 _ _ _ _ => true
  | .vnegI16 _ _ _ _ => true
  | .vshlI16 _ _ _ _ _ => true
  | .vshrI16 _ _ _ _ _ => true
  | .vsraI16 _ _ _ _ _ => true
  | .vceqI16 _ _ _ _ _ => true
  | .vcltI16 _ _ _ _ _ => true
  | .vcltuI16 _ _ _ _ _ => true
  | .vaddI8 _ _ _ _ _ => true
  | .vsubI8 _ _ _ _ _ => true
  | .vmulI8 _ _ _ _ _ => true
  | .vmacI8 _ _ _ _ _ => true
  | .vminI8 _ _ _ _ _ => true
  | .vmaxI8 _ _ _ _ _ => true
  | .vminuI8 _ _ _ _ _ => true
  | .vmaxuI8 _ _ _ _ _ => true
  | .vabsI8 _ _ _ _ => true
  | .vnegI8 _ _ _ _ => true
  | .vshlI8 _ _ _ _ _ => true
  | .vshrI8 _ _ _ _ _ => true
  | .vsraI8 _ _ _ _ _ => true
  | .vceqI8 _ _ _ _ _ => true
  | .vcltI8 _ _ _ _ _ => true
  | .vcltuI8 _ _ _ _ _ => true
  | .vaddF32 _ _ _ _ _ => true
  | .vsubF32 _ _ _ _ _ => true
  | .vmulF32 _ _ _ _ _ => true
  | .vfmaF32 _ _ _ _ _ => true
  | .vminF32 _ _ _ _ _ => true
  | .vmaxF32 _ _ _ _ _ => true
  | .vfmsF32 _ _ _ _ _ => true
  | .vdivF32 _ _ _ _ _ => true
  | .vabsF32 _ _ _ _ => true
  | .vnegF32 _ _ _ _ => true
  | .vsqrtF32 _ _ _ _ => true
  | .vrcpeF32 _ _ _ _ => true
  | .vrsqeF32 _ _ _ _ => true
  | .vceqF32 _ _ _ _ _ => true
  | .vcltF32 _ _ _ _ _ => true
  | .vcleF32 _ _ _ _ _ => true
  | .vaddBf16 _ _ _ _ _ => true
  | .vsubBf16 _ _ _ _ _ => true
  | .vmulBf16 _ _ _ _ _ => true
  | .vfmaBf16 _ _ _ _ _ => true
  | .vminBf16 _ _ _ _ _ => true
  | .vmaxBf16 _ _ _ _ _ => true
  | .vfmsBf16 _ _ _ _ _ => true
  | .vabsBf16 _ _ _ _ => true
  | .vnegBf16 _ _ _ _ => true
  | .vrcpeBf16 _ _ _ _ => true
  | .vrsqeBf16 _ _ _ _ => true
  | .vceqBf16 _ _ _ _ _ => true
  | .vcltBf16 _ _ _ _ _ => true
  | .vcleBf16 _ _ _ _ _ => true
  | .vaddF16 _ _ _ _ _ => true
  | .vsubF16 _ _ _ _ _ => true
  | .vmulF16 _ _ _ _ _ => true
  | .vfmaF16 _ _ _ _ _ => true
  | .vminF16 _ _ _ _ _ => true
  | .vmaxF16 _ _ _ _ _ => true
  | .vfmsF16 _ _ _ _ _ => true
  | .vabsF16 _ _ _ _ => true
  | .vnegF16 _ _ _ _ => true
  | .vrcpeF16 _ _ _ _ => true
  | .vrsqeF16 _ _ _ _ => true
  | .vceqF16 _ _ _ _ _ => true
  | .vcltF16 _ _ _ _ _ => true
  | .vcleF16 _ _ _ _ _ => true
  | .vand _ _ _ _ => true
  | .vor _ _ _ _ => true
  | .vxor _ _ _ _ => true
  | .vandn _ _ _ _ => true
  | .vsel _ _ _ _ => true
  | .vpand _ _ _ => true
  | .vpor _ _ _ => true
  | .vpxor _ _ _ => true
  | .vpnot _ _ => true
  | .vpcnt _ _ e _ _ => decide (e.toNat ≤ 5)
  | .vpfirst _ _ e _ _ => decide (e.toNat ≤ 5)
  | .vperm _ _ _ _ _ => true
  | .vbcast _ _ _ w _ => decide (w.toNat ≤ 3)
  | .vext _ _ _ _ _ => true
  | .vins _ _ _ w _ => decide (w.toNat ≤ 3)
  | .vslup _ _ _ _ _ => true
  | .vsldn _ _ _ _ _ => true
  | .viota _ e _ _ => decide (e.toNat ≤ 5)
  | .vcompr _ _ e _ _ => decide (e.toNat ≤ 5)
  | .vredi _ _ e _ _ => decide (e.toNat ≤ 2)
  | .vredf _ _ e _ _ => decide (3 ≤ e.toNat ∧ e.toNat ≤ 5)
  | .vredmx _ _ e _ _ => decide (e.toNat ≤ 5)
  | .vredmn _ _ e _ _ => decide (e.toNat ≤ 5)
  | .vcvt _ _ c x _ _ => decide (vcvtOk c x)
  | .vqgrp _ _ _ t _ => decide (t.toNat ≤ 5)
  | .vdqgrp _ _ _ t _ => decide (t.toNat ≤ 5)
  | .vqmx _ _ _ t _ => decide (t.toNat ≤ 3)
  | .vdqmx _ _ _ t _ => decide (t.toNat ≤ 3)
  | .vscacc _ _ _ _ _ => true
  | .vbfpn _ _ _ f _ => decide (f.toNat ≤ 2)
  | .vbfpx _ _ f _ => decide (f.toNat ≤ 2)
  | .vzpc _ _ _ _ _ => true
  | .vld _ _ _ _ => true
  | .vst _ _ _ _ => true
  | .vlds _ _ _ _ _ => true
  | .vsts _ _ _ _ _ => true
  | .vgth _ _ _ _ _ => true
  | .vsct _ _ _ _ _ => true
  | .vldb _ _ w _ => decide (w.toNat ≤ 3)
  | .vmvsv _ _ w _ => decide (w.toNat ≤ 3)
  | .vmvvs _ _ _ w _ => decide (w.toNat ≤ 3)
  | .vpld _ _ _ _ => true
  | .vpst _ _ _ _ => true
  | .mapply g => decide (g < 64)
  | .mcolsum g => decide (g < 64)
  | .mloadb g => decide (g < 64)
  | .mswapb g => decide (g < 64)
  | .mrotb g => decide (g < 64)
  | .mprobe g => decide (g < 64)
  | .sfact d _ => decide (d < 4)
  | .sfactq d _ => decide (d < 4)
  | .tcopy d _ => decide (d < 4)
  | .tcopy2 d _ => decide (d < 4)
  | .tgath d _ => decide (d < 4)
  | .tscat d _ => decide (d < 4)
  | .tfill d _ => decide (d < 4)
  | .tpref d _ => decide (d < 4)
  | .creds _ => true
  | .cgath _ => true
  | .cbcast _ => true
  | .callred _ => true
  | .migr d => decide (d < 4)
  | .migra d => decide (d < 4)
  | .mevac d => decide (d < 4)
  | .svctxRequest d => decide (d < 4)
  | .svctxForced d => decide (d < 4)
  | .svctxFrozen d => decide (d < 4)
  | .rsctx d => decide (d < 4)
  | .engineStart d _ => decide (d < 4)
  | .collectiveStart core => decide (core < 512)
  | .commandEnd d _ _ => decide (d < 4)
  | .anvilArbiterRound g => decide (g < 64)
  | .anvilPass g => decide (g < 64)
  | .passDrain g => decide (g < 64)
  | .holdingBufferDrain core => decide (core < 512)
  | .shadowTransferEnd g => decide (g < 64)
  | .batchBoundary g => decide (g < 64)
  | .probeSet g => decide (g < 64)
  | .probeReferenceEnd g => decide (g < 64)
  | .probeUpdate g => decide (g < 64)
  | .probeStaleTimeout g => decide (g < 64)
  | .chunkCommit agent => decide (agent < 520)
  | .writeNotice => true
  | .scoreboardComplete agent _ => decide (agent < 520)
  | .lateFault agent _ => decide (agent < 520)
  | .runAhead agent => decide (agent < 520)
  | .atomicPerform => true
  | .reductionDelivery => true
  | .feWaitRelease _ => true
  | .linkSlotArrival core _ => decide (core < 512)
  | .barrierArrival => true
  | .eventRelease g => decide (g < 64)
  | .taskAgingTick core entry => decide (core < 512 ∧ entry < 32)
  | .dispatch core => decide (core < 512)
  | .restore core entry => decide (core < 512 ∧ entry < 32)
  | .gangReservation g => decide (g < 64)
  | .gangDispatch g => decide (g < 64)
  | .launchUnitPost core => decide (core < 512)
  | .costartDispatch _ => true
  | .prebudgetExpiry core => decide (core < 512)
  | .save core => decide (core < 512)
  | .packetRingWrite sup => decide (512 ≤ sup ∧ sup < 520)
  | .migrationLineCopy d _ => decide (d < 4)
  | .migrationSwitch d _ => decide (d < 4)
  | .migrationAbort d _ => decide (d < 4)
  | .hotnessSample port => decide (port < 512)
  | .hotnessHalving port => decide (port < 512)
  | .notificationRepost d => decide (d < 4)
  | .scrubStep port row _ _ => decide (port < 512 ∧ row < 393216)
  | .scrubRateReview port => decide (port < 512)
  | .refreshDue port bank _ => decide (bank < 16 ∧ port < 512)
  | .activationAlert port _ => decide (port < 512)
  | .vbusCrcError d group lane => decide (d < 4 ∧ group < 64 ∧ lane < 256)
  | .vbusLaneSteer d group => decide (d < 4 ∧ group < 64)
  | .inFieldTest g => decide (g < 64)
  | .iftInterval g => decide (g < 64)
  | .iftStart g => decide (g < 64)
  | .islandRelock d q => decide (d < 4 ∧ q < 32)
  | .islctlWrite d q _ => decide (d < 4 ∧ q < 32)
  | .droopStretch d q => decide (d < 4 ∧ q < 32)
  | .droopRecover d q => decide (d < 4 ∧ q < 32)
  | .brownoutHold => true
  | .brownoutResume => true
  | .powerCapStep _ => true
  | .powerCapRestore _ => true
  | .converterRowHot g _ => decide (g < 64)
  | .quenchExit g _ => decide (g < 64)
  | .junctionHot d q _ => decide (d < 4 ∧ q < 32)
  | .throttleStep d q _ => decide (d < 4 ∧ q < 32)
  | .photonicHot g => decide (g < 64)
  | .thermalTrip => true
  | .coldBoot _ => true
  | .pcieReset _ _ => true
  | .hostLinkDown => true
  | .hostLinkUp => true
  | .hostMemRead _ _ _ => true
  | .hostMemWrite _ _ _ _ => true
  | .cxlSurpriseRemoval port expander => decide (port < 2 ∧ expander < 4)
  | .atfinLockLost port => decide (port < 16)
  | .atfinReplayRequest port => decide (port < 16)
  | .atfinFlitAck port => decide (port < 16)
  | .atfinReplayLimit port => decide (port < 16)
  | .atfinRetrainEnd port _ _ => decide (port < 16)
  | .hostcmdWarmReset _ => true
  | .hostcmdPostTransport _ => true
  | .hostcmdQuote => true
  | .hostcmdFwCommit _ => true
  | .readStatus => true
  | .warmReset _ => true
  | .postTransport _ => true
  | .setCap _ => true
  | .readFeat => true
  | .flashWindow _ => true
  | .wttPost core entry => decide (core < 512 ∧ entry < 32)
  | .wttCancel core entry => decide (core < 512 ∧ entry < 32)
  | .wttKill core entry => decide (core < 512 ∧ entry < 32)
  | .teamLaunch _ => true
  | .migPortSubmit d sup _ => decide (d < 4 ∧ 512 ≤ sup ∧ sup ≤ 520)
  | .migPortPop d => decide (d < 4)
  | .savePortSubmit d sup _ => decide (d < 4 ∧ 512 ≤ sup ∧ sup ≤ 520)
  | .savePortPop d => decide (d < 4)
  | .nqPop d => decide (d < 4)
  | .hdoor _ => true
  | .hrelease _ => true
  | .smsgDoorbell _ => true
  | .histClear g _ => decide (g < 64)
  | .evWindowLoad g _ _ => decide (g < 64)
  | .evWindowStore g _ => decide (g < 64)
  | .lsplitWrite core _ => decide (core < 512)
  | .l2scrWrite core _ => decide (core < 512)
  | .hsampleWrite d _ => decide (d < 4)
  | .registerWrite _ _ => true
  | .voltageLoopAdjust d q => decide (d < 4 ∧ q < 32)
  | .refreshComplete port _ => decide (port < 512)
  | .powerRemoval => true
  | .inFieldTestEnd g _ => decide (g < 64)
  | .dieToDiePathFailure _ => true
  | .atfinFlitArrival port _ => decide (port < 16)
  | .homeAcknowledge => true
  | .msgDelivery => true
  | .skxDelivery => true

end Sys2Proof
end

