-- ==== Sys2Proof/Decode.lean ====
section
/-! DEFINITION. The decoder of scalar instruction words, the encoder, and the byte order of a fetched word
(03_encoding R53 to R66). A word without an assigned instruction is rejected by name; the core turns each rejection
into the fate that R66 gives it. Lean's runtime cannot build a constructor with fields past the 245th of a type, so
these definitions carry no compiled code; the kernel evaluates them. -/

noncomputable section

namespace Sys2Proof

/-- Why a word is no instruction (03_encoding R66). -/
inductive Reject where
  /-- major 0x36–0x3E, which FEAT1 does not announce: EMUL -/
  | extension
  /-- major 0x3F -/
  | majorIllegal
  /-- an unassigned fn, fn4, sub or imm12 value -/
  | unassigned
  /-- a nonzero must-be-zero field, la of a single-cycle member among them -/
  | mustBeZero
  /-- a field value that `Instr.wf` does not admit -/
  | fieldValue
  deriving DecidableEq, Repr

/-- The instruction when its must-be-zero fields are zero. -/
def need (p : Prop) [Decidable p] (i : Instr) : Except Reject Instr := if p then .ok i else .error .mustBeZero

/-- A register field of a word. -/
abbrev f5 (w : IWord) (lo : Nat) : BitVec 5 := w.extractLsb' lo 5

/-- The members of group Sys, major 0x00. -/
def decodeSys (d : BitVec 5) (a : BitVec 5) (sub : BitVec 4) (imm : BitVec 12) : Except Reject Instr :=
  match sub.toNat with
  | 0 => if d = 0 ∧ a = 0 then (if imm = 0 then .ok .ill else if imm = 1 then .ok .nop else .error .unassigned)
    else .error .mustBeZero
  | 1 => need (a = 0) (.csrr d imm)
  | 2 => .ok (.csrw d a imm)
  | 3 => .ok (.csrs d a imm)
  | 4 => .ok (.csrc d a imm)
  | 5 => need (d = 0 ∧ a = 0 ∧ (imm.extractLsb' 3 9) = 0) (.fence (imm.extractLsb' 0 3))
  | 6 => need (d = 0 ∧ a = 0 ∧ (imm.extractLsb' 3 9) = 0) (.rel (imm.extractLsb' 0 3))
  | 7 => need (d = 0 ∧ a = 0 ∧ (imm.extractLsb' 3 9) = 0) (.acq (imm.extractLsb' 0 3))
  | 8 => need (d = 0 ∧ a = 0 ∧ imm = 0) .chunke
  | 9 => need (d = 0 ∧ a = 0) (.svc imm)
  | 10 => need (d = 0 ∧ a = 0 ∧ imm = 0) .halt
  | 11 => need (imm = 0) (.resume d a)
  | 12 => need (d = 0 ∧ (imm.extractLsb' 2 10) = 0) (.tlbi a (imm.extractLsb' 0 2))
  | 13 => need (d = 0 ∧ imm = 0) (.frply a)
  | 14 => need (d = 0 ∧ imm = 0) (.l2flw a)
  | 15 => need ((imm.extractLsb' 2 10) = 0) (.hflush d a (imm.extractLsb' 0 2))
  | _ => .error .unassigned

/-- The members of group Alu, major 0x01. -/
def decodeAlu (d : BitVec 5) (a : BitVec 5) (b : BitVec 5) (fn : BitVec 7) (la : BitVec 4) : Except Reject Instr :=
  match fn.toNat with
  | 0 => need (la = 0) (.add d a b)
  | 1 => need (la = 0) (.sub d a b)
  | 2 => need (la = 0) (.and d a b)
  | 3 => need (la = 0) (.or d a b)
  | 4 => need (la = 0) (.xor d a b)
  | 5 => need (la = 0) (.andn d a b)
  | 6 => need (la = 0) (.orn d a b)
  | 7 => need (la = 0) (.xnor d a b)
  | 8 => need (la = 0) (.sll d a b)
  | 9 => need (la = 0) (.srl d a b)
  | 10 => need (la = 0) (.sra d a b)
  | 11 => need (la = 0) (.rol d a b)
  | 12 => need (la = 0) (.ror d a b)
  | 13 => need (la = 0) (.slt d a b)
  | 14 => need (la = 0) (.sltu d a b)
  | 15 => need (la = 0) (.seq d a b)
  | 16 => need (la = 0) (.min d a b)
  | 17 => need (la = 0) (.max d a b)
  | 18 => need (la = 0) (.minu d a b)
  | 19 => need (la = 0) (.maxu d a b)
  | 20 => .ok (.mul d a b la)
  | 21 => .ok (.mulh d a b la)
  | 22 => .ok (.mulhu d a b la)
  | 23 => .ok (.div d a b la)
  | 24 => .ok (.divu d a b la)
  | 25 => .ok (.rem d a b la)
  | 26 => .ok (.remu d a b la)
  | 27 => need (b = 0 ∧ la = 0) (.clz d a)
  | 28 => need (b = 0 ∧ la = 0) (.ctz d a)
  | 29 => need (b = 0 ∧ la = 0) (.popc d a)
  | 30 => need (b = 0 ∧ la = 0) (.brev d a)
  | 31 => need (b = 0 ∧ la = 0) (.bswap d a)
  | 32 => need (b = 0 ∧ la = 0) (.sextb d a)
  | 33 => need (b = 0 ∧ la = 0) (.sexth d a)
  | 34 => need (b = 0 ∧ la = 0) (.sextw d a)
  | 35 => need (b = 0 ∧ la = 0) (.zextw d a)
  | 36 => need (la = 0) (.addw d a b)
  | 37 => need (la = 0) (.subw d a b)
  | 38 => need (la = 0) (.adds d a b)
  | 39 => need (la = 0) (.hadd d a b)
  | _ => .error .unassigned

/-- The members of group Shi, major 0x09. -/
def decodeShi (d : BitVec 5) (a : BitVec 5) (imm : BitVec 16) : Except Reject Instr :=
  match (imm.extractLsb' 14 2).toNat with
  | 0 => need (imm.extractLsb' 6 8 = 0) (.slli d a (imm.extractLsb' 0 6))
  | 1 => need (imm.extractLsb' 6 8 = 0) (.srli d a (imm.extractLsb' 0 6))
  | 2 => need (imm.extractLsb' 6 8 = 0) (.srai d a (imm.extractLsb' 0 6))
  | 3 => need (imm.extractLsb' 6 8 = 0) (.rori d a (imm.extractLsb' 0 6))
  | _ => .error .unassigned

/-- The members of group Fe, major 0x1E. -/
def decodeFe (d : BitVec 5) (a : BitVec 5) (b : BitVec 5) (fn : BitVec 7) (la : BitVec 4) : Except Reject Instr :=
  match fn.toNat with
  | 0 => need (b = 0) (.ldse d a la)
  | 1 => need (d = 0) (.stf a b la)
  | 2 => need (d = 0 ∧ b = 0) (.feclr a la)
  | 3 => need (d = 0 ∧ b = 0) (.feset a la)
  | 4 => need (b = 0) (.feq d a la)
  | _ => .error .unassigned

/-- The members of group Fpu, major 0x1F. -/
def decodeFpu (d : BitVec 5) (a : BitVec 5) (b : BitVec 5) (fn : BitVec 7) (la : BitVec 4) : Except Reject Instr :=
  match fn.toNat with
  | 0 => .ok (.fadd d a b la)
  | 1 => .ok (.fsub d a b la)
  | 2 => .ok (.fmul d a b la)
  | 3 => .ok (.fdiv d a b la)
  | 4 => need (b = 0) (.fsqrt d a la)
  | 5 => .ok (.fmin d a b la)
  | 6 => .ok (.fmax d a b la)
  | 7 => .ok (.fceq d a b la)
  | 8 => .ok (.fclt d a b la)
  | 9 => .ok (.fcle d a b la)
  | 10 => .ok (.fmac d a b la)
  | 11 => need (b = 0) (.fcvtdl d a la)
  | 12 => need (b = 0) (.fcvtld d a la)
  | 13 => need (b = 0) (.fcvtsd d a la)
  | 14 => need (b = 0) (.fcvtds d a la)
  | 15 => need (b = 0) (.fclass d a la)
  | _ => .error .unassigned

/-- The members of group Bf, major 0x20. -/
def decodeBf (d : BitVec 5) (a : BitVec 5) (pos : BitVec 6) (len : BitVec 6) (sub : BitVec 2) (z : BitVec 2) : Except Reject Instr :=
  match sub.toNat with
  | 0 => need (z = 0) (.bext d a pos len)
  | 1 => need (z = 0) (.bexts d a pos len)
  | 2 => need (z = 0) (.bins d a pos len)
  | _ => .error .unassigned

/-- The members of group Amo, major 0x21. -/
def decodeAmo (d : BitVec 5) (a : BitVec 5) (b : BitVec 5) (fn : BitVec 7) (la : BitVec 4) : Except Reject Instr :=
  match fn.toNat with
  | 0 => .ok (.amoswap d a b la)
  | 1 => .ok (.amoadd d a b la)
  | 2 => .ok (.amoand d a b la)
  | 3 => .ok (.amoor d a b la)
  | 4 => .ok (.amoxor d a b la)
  | 5 => .ok (.amomin d a b la)
  | 6 => .ok (.amomax d a b la)
  | 7 => .ok (.amominu d a b la)
  | 8 => .ok (.amomaxu d a b la)
  | 64 => .ok (.amoswapI32 d a b la)
  | 65 => .ok (.amoaddI32 d a b la)
  | 66 => .ok (.amoandI32 d a b la)
  | 67 => .ok (.amoorI32 d a b la)
  | 68 => .ok (.amoxorI32 d a b la)
  | 69 => .ok (.amominI32 d a b la)
  | 70 => .ok (.amomaxI32 d a b la)
  | 71 => .ok (.amominuI32 d a b la)
  | 72 => .ok (.amomaxuI32 d a b la)
  | 9 => .ok (.cas d a b la)
  | 10 => .ok (.casgt d a b la)
  | 11 => .ok (.casver d a b la)
  | 12 => .ok (.castag d a b la)
  | 13 => .ok (.amofadd d a b la)
  | 14 => .ok (.redadd d a b la)
  | 15 => .ok (.redmin d a b la)
  | 16 => .ok (.redmax d a b la)
  | 17 => .ok (.redfadd d a b la)
  | 18 => .ok (.redor d a b la)
  | _ => .error .unassigned

/-- The members of group Sync, major 0x22. -/
def decodeSync (d : BitVec 5) (a : BitVec 5) (b : BitVec 5) (fn : BitVec 7) (la : BitVec 4) : Except Reject Instr :=
  match fn.toNat with
  | 0 => need (a = 0 ∧ b = 0 ∧ la = 0) (.barArr d)
  | 1 => need (a = 0 ∧ b = 0 ∧ la = 0) (.barWait d)
  | 2 => need (a = 0 ∧ b = 0 ∧ la = 0) (.barArrw d)
  | 3 => need ((b.extractLsb' 3 2) = 0 ∧ la = 0) (.barInit d a (b.extractLsb' 0 3))
  | 4 => need (b = 0 ∧ la = 0) (.evwait d a)
  | 5 => need (d = 0 ∧ la = 0) (.evsig a b)
  | 6 => need (d = 0 ∧ la = 0) (.msg a b)
  | 7 => need ((d.extractLsb' 4 1) = 0 ∧ b = 0 ∧ la = 0) (.cntadd (d.extractLsb' 0 4) a)
  | 8 => need ((d.extractLsb' 4 1) = 0 ∧ b = 0 ∧ la = 0) (.cntwait (d.extractLsb' 0 4) a)
  | _ => .error .unassigned

/-- The members of group Task, major 0x23. -/
def decodeTask (d : BitVec 5) (a : BitVec 5) (b : BitVec 5) (fn : BitVec 7) (la : BitVec 4) : Except Reject Instr :=
  match fn.toNat with
  | 0 => need (la = 0) (.tkpost d a b)
  | 1 => need (b = 0 ∧ la = 0) (.tkcancel d a)
  | 2 => need (d = 0 ∧ a = 0 ∧ b = 0 ∧ la = 0) .tkexit
  | 3 => need (d = 0 ∧ la = 0) (.tkyield a b)
  | 4 => need (d = 0 ∧ la = 0) (.prehint a b)
  | 5 => need (d = 0 ∧ b = 0 ∧ la = 0) (.gang a)
  | 6 => need (d = 0 ∧ a = 0 ∧ b = 0 ∧ la = 0) .split
  | 7 => need (d = 0 ∧ b = 0 ∧ la = 0) (.cropen a)
  | 8 => need (d = 0 ∧ a = 0 ∧ b = 0 ∧ la = 0) .crclose
  | 9 => need (b = 0 ∧ la = 0) (.tkstat d a)
  | _ => .error .unassigned

/-- The members of group Qlk, major 0x24. -/
def decodeQlk (d : BitVec 5) (a : BitVec 5) (b : BitVec 5) (fn : BitVec 7) (la : BitVec 4) : Except Reject Instr :=
  match fn.toNat with
  | 0 => need ((d.extractLsb' 4 1) = 0 ∧ la = 0) (.qsend (d.extractLsb' 0 4) a b)
  | 1 => need ((d.extractLsb' 4 1) = 0 ∧ la = 0) (.qsendv (d.extractLsb' 0 4) a b)
  | 2 => need ((d.extractLsb' 4 1) = 0 ∧ b = 0 ∧ la = 0) (.qpush (d.extractLsb' 0 4) a)
  | 3 => need ((a.extractLsb' 4 1) = 0 ∧ b = 0) (.qpop d (a.extractLsb' 0 4) la)
  | 4 => need ((a.extractLsb' 4 1) = 0 ∧ b = 0) (.qpopv d (a.extractLsb' 0 4) la)
  | 5 => need ((a.extractLsb' 4 1) = 0 ∧ b = 0 ∧ la = 0) (.qstat d (a.extractLsb' 0 4))
  | 6 => need ((d.extractLsb' 4 1) = 0 ∧ a = 0 ∧ b = 0 ∧ la = 0) (.qflush (d.extractLsb' 0 4))
  | 7 => need ((a.extractLsb' 2 3) = 0 ∧ b = 0) (.lkrd d (a.extractLsb' 0 2) la)
  | 8 => need ((a.extractLsb' 2 3) = 0 ∧ b = 0) (.lkrdf d (a.extractLsb' 0 2) la)
  | 9 => need ((d.extractLsb' 2 3) = 0 ∧ b = 0 ∧ la = 0) (.lkwr (d.extractLsb' 0 2) a)
  | 10 => need (a = 0 ∧ b = 0 ∧ la = 0) (.lkstat d)
  | _ => .error .unassigned

/-- The members of group Meshx, major 0x25. -/
def decodeMeshx (d : BitVec 5) (a : BitVec 5) (b : BitVec 5) (fn : BitVec 7) (la : BitVec 4) : Except Reject Instr :=
  match fn.toNat with
  | 0 => need (b = 0) (.tloc d a la)
  | 1 => need (b = 0 ∧ la = 0) (.tfix d a)
  | 2 => need (b = 0 ∧ la = 0) (.tretry d a)
  | 3 => .ok (.trrd d a b la)
  | 4 => need (d = 0 ∧ b = 0 ∧ la = 0) (.wspsw a)
  | 5 => need (a = 0 ∧ b = 0 ∧ la = 0) (.mbatch d)
  | 6 => need (a = 0 ∧ b = 0 ∧ la = 0) (.mdrain d)
  | 7 => need (la = 0) (.skcomb d a b)
  | _ => .error .unassigned

/-- The members of group Ck, major 0x26. -/
def decodeCk (d : BitVec 5) (a : BitVec 5) (b : BitVec 5) (fn : BitVec 7) (la : BitVec 4) : Except Reject Instr :=
  match fn.toNat with
  | 0 => need ((d.extractLsb' 2 3) = 0 ∧ b = 0) (.ckacc (d.extractLsb' 0 2) a la)
  | 1 => need ((d.extractLsb' 2 3) = 0 ∧ b = 0) (.ckaccx (d.extractLsb' 0 2) a la)
  | 2 => need ((d.extractLsb' 2 3) = 0 ∧ b = 0) (.ckaccf (d.extractLsb' 0 2) a la)
  | 3 => need ((d.extractLsb' 2 3) = 0) (.ckaccv (d.extractLsb' 0 2) a b la)
  | 4 => need ((d.extractLsb' 2 3) = 0) (.ckchk (d.extractLsb' 0 2) a b la)
  | 5 => need ((d.extractLsb' 2 3) = 0) (.ckchkf (d.extractLsb' 0 2) a b la)
  | 6 => need ((d.extractLsb' 2 3) = 0 ∧ a = 0 ∧ b = 0 ∧ la = 0) (.ckclr (d.extractLsb' 0 2))
  | 7 => need ((a.extractLsb' 2 3) = 0 ∧ b = 0 ∧ la = 0) (.ckrd d (a.extractLsb' 0 2))
  | _ => .error .unassigned

/-- The members of group Fs, major 0x27. -/
def decodeFs (d : BitVec 5) (a : BitVec 5) (b : BitVec 5) (c : BitVec 5) (sub : BitVec 2) (z : BitVec 4) : Except Reject Instr :=
  match sub.toNat with
  | 0 => need (z = 0) (.fshl d a b c)
  | 1 => need (z = 0) (.fshr d a b c)
  | 2 => need (z = 0) (.bextv d a b c)
  | 3 => need (z = 0) (.binsv d a b c)
  | _ => .error .unassigned

/-- The members of group Vi32, major 0x28. -/
def decodeVi32 (d : BitVec 5) (a : BitVec 5) (b : BitVec 5) (fn : BitVec 4) (pm : BitVec 3) (la : BitVec 4) : Except Reject Instr :=
  match fn.toNat with
  | 0 => .ok (.vaddI32 d a b pm la)
  | 1 => .ok (.vsubI32 d a b pm la)
  | 2 => .ok (.vmulI32 d a b pm la)
  | 3 => .ok (.vmacI32 d a b pm la)
  | 4 => .ok (.vminI32 d a b pm la)
  | 5 => .ok (.vmaxI32 d a b pm la)
  | 6 => .ok (.vminuI32 d a b pm la)
  | 7 => .ok (.vmaxuI32 d a b pm la)
  | 8 => need (b = 0) (.vabsI32 d a pm la)
  | 9 => need (b = 0) (.vnegI32 d a pm la)
  | 10 => .ok (.vshlI32 d a b pm la)
  | 11 => .ok (.vshrI32 d a b pm la)
  | 12 => .ok (.vsraI32 d a b pm la)
  | 13 => need ((d.extractLsb' 3 2) = 0) (.vceqI32 (d.extractLsb' 0 3) a b pm la)
  | 14 => need ((d.extractLsb' 3 2) = 0) (.vcltI32 (d.extractLsb' 0 3) a b pm la)
  | 15 => need ((d.extractLsb' 3 2) = 0) (.vcltuI32 (d.extractLsb' 0 3) a b pm la)
  | _ => .error .unassigned

/-- The members of group Vi16, major 0x29. -/
def decodeVi16 (d : BitVec 5) (a : BitVec 5) (b : BitVec 5) (fn : BitVec 4) (pm : BitVec 3) (la : BitVec 4) : Except Reject Instr :=
  match fn.toNat with
  | 0 => .ok (.vaddI16 d a b pm la)
  | 1 => .ok (.vsubI16 d a b pm la)
  | 2 => .ok (.vmulI16 d a b pm la)
  | 3 => .ok (.vmacI16 d a b pm la)
  | 4 => .ok (.vminI16 d a b pm la)
  | 5 => .ok (.vmaxI16 d a b pm la)
  | 6 => .ok (.vminuI16 d a b pm la)
  | 7 => .ok (.vmaxuI16 d a b pm la)
  | 8 => need (b = 0) (.vabsI16 d a pm la)
  | 9 => need (b = 0) (.vnegI16 d a pm la)
  | 10 => .ok (.vshlI16 d a b pm la)
  | 11 => .ok (.vshrI16 d a b pm la)
  | 12 => .ok (.vsraI16 d a b pm la)
  | 13 => need ((d.extractLsb' 3 2) = 0) (.vceqI16 (d.extractLsb' 0 3) a b pm la)
  | 14 => need ((d.extractLsb' 3 2) = 0) (.vcltI16 (d.extractLsb' 0 3) a b pm la)
  | 15 => need ((d.extractLsb' 3 2) = 0) (.vcltuI16 (d.extractLsb' 0 3) a b pm la)
  | _ => .error .unassigned

/-- The members of group Vi8, major 0x2A. -/
def decodeVi8 (d : BitVec 5) (a : BitVec 5) (b : BitVec 5) (fn : BitVec 4) (pm : BitVec 3) (la : BitVec 4) : Except Reject Instr :=
  match fn.toNat with
  | 0 => .ok (.vaddI8 d a b pm la)
  | 1 => .ok (.vsubI8 d a b pm la)
  | 2 => .ok (.vmulI8 d a b pm la)
  | 3 => .ok (.vmacI8 d a b pm la)
  | 4 => .ok (.vminI8 d a b pm la)
  | 5 => .ok (.vmaxI8 d a b pm la)
  | 6 => .ok (.vminuI8 d a b pm la)
  | 7 => .ok (.vmaxuI8 d a b pm la)
  | 8 => need (b = 0) (.vabsI8 d a pm la)
  | 9 => need (b = 0) (.vnegI8 d a pm la)
  | 10 => .ok (.vshlI8 d a b pm la)
  | 11 => .ok (.vshrI8 d a b pm la)
  | 12 => .ok (.vsraI8 d a b pm la)
  | 13 => need ((d.extractLsb' 3 2) = 0) (.vceqI8 (d.extractLsb' 0 3) a b pm la)
  | 14 => need ((d.extractLsb' 3 2) = 0) (.vcltI8 (d.extractLsb' 0 3) a b pm la)
  | 15 => need ((d.extractLsb' 3 2) = 0) (.vcltuI8 (d.extractLsb' 0 3) a b pm la)
  | _ => .error .unassigned

/-- The members of group Vf32, major 0x2B. -/
def decodeVf32 (d : BitVec 5) (a : BitVec 5) (b : BitVec 5) (fn : BitVec 4) (pm : BitVec 3) (la : BitVec 4) : Except Reject Instr :=
  match fn.toNat with
  | 0 => .ok (.vaddF32 d a b pm la)
  | 1 => .ok (.vsubF32 d a b pm la)
  | 2 => .ok (.vmulF32 d a b pm la)
  | 3 => .ok (.vfmaF32 d a b pm la)
  | 4 => .ok (.vminF32 d a b pm la)
  | 5 => .ok (.vmaxF32 d a b pm la)
  | 6 => .ok (.vfmsF32 d a b pm la)
  | 7 => .ok (.vdivF32 d a b pm la)
  | 8 => need (b = 0) (.vabsF32 d a pm la)
  | 9 => need (b = 0) (.vnegF32 d a pm la)
  | 10 => need (b = 0) (.vsqrtF32 d a pm la)
  | 11 => need (b = 0) (.vrcpeF32 d a pm la)
  | 12 => need (b = 0) (.vrsqeF32 d a pm la)
  | 13 => need ((d.extractLsb' 3 2) = 0) (.vceqF32 (d.extractLsb' 0 3) a b pm la)
  | 14 => need ((d.extractLsb' 3 2) = 0) (.vcltF32 (d.extractLsb' 0 3) a b pm la)
  | 15 => need ((d.extractLsb' 3 2) = 0) (.vcleF32 (d.extractLsb' 0 3) a b pm la)
  | _ => .error .unassigned

/-- The members of group Vbf16, major 0x2C. -/
def decodeVbf16 (d : BitVec 5) (a : BitVec 5) (b : BitVec 5) (fn : BitVec 4) (pm : BitVec 3) (la : BitVec 4) : Except Reject Instr :=
  match fn.toNat with
  | 0 => .ok (.vaddBf16 d a b pm la)
  | 1 => .ok (.vsubBf16 d a b pm la)
  | 2 => .ok (.vmulBf16 d a b pm la)
  | 3 => .ok (.vfmaBf16 d a b pm la)
  | 4 => .ok (.vminBf16 d a b pm la)
  | 5 => .ok (.vmaxBf16 d a b pm la)
  | 6 => .ok (.vfmsBf16 d a b pm la)
  | 8 => need (b = 0) (.vabsBf16 d a pm la)
  | 9 => need (b = 0) (.vnegBf16 d a pm la)
  | 11 => need (b = 0) (.vrcpeBf16 d a pm la)
  | 12 => need (b = 0) (.vrsqeBf16 d a pm la)
  | 13 => need ((d.extractLsb' 3 2) = 0) (.vceqBf16 (d.extractLsb' 0 3) a b pm la)
  | 14 => need ((d.extractLsb' 3 2) = 0) (.vcltBf16 (d.extractLsb' 0 3) a b pm la)
  | 15 => need ((d.extractLsb' 3 2) = 0) (.vcleBf16 (d.extractLsb' 0 3) a b pm la)
  | _ => .error .unassigned

/-- The members of group Vf16, major 0x2D. -/
def decodeVf16 (d : BitVec 5) (a : BitVec 5) (b : BitVec 5) (fn : BitVec 4) (pm : BitVec 3) (la : BitVec 4) : Except Reject Instr :=
  match fn.toNat with
  | 0 => .ok (.vaddF16 d a b pm la)
  | 1 => .ok (.vsubF16 d a b pm la)
  | 2 => .ok (.vmulF16 d a b pm la)
  | 3 => .ok (.vfmaF16 d a b pm la)
  | 4 => .ok (.vminF16 d a b pm la)
  | 5 => .ok (.vmaxF16 d a b pm la)
  | 6 => .ok (.vfmsF16 d a b pm la)
  | 8 => need (b = 0) (.vabsF16 d a pm la)
  | 9 => need (b = 0) (.vnegF16 d a pm la)
  | 11 => need (b = 0) (.vrcpeF16 d a pm la)
  | 12 => need (b = 0) (.vrsqeF16 d a pm la)
  | 13 => need ((d.extractLsb' 3 2) = 0) (.vceqF16 (d.extractLsb' 0 3) a b pm la)
  | 14 => need ((d.extractLsb' 3 2) = 0) (.vcltF16 (d.extractLsb' 0 3) a b pm la)
  | 15 => need ((d.extractLsb' 3 2) = 0) (.vcleF16 (d.extractLsb' 0 3) a b pm la)
  | _ => .error .unassigned

/-- The members of group Vlog, major 0x2E. -/
def decodeVlog (d : BitVec 5) (a : BitVec 5) (b : BitVec 5) (fn : BitVec 4) (pm : BitVec 3) (la : BitVec 4) : Except Reject Instr :=
  match fn.toNat with
  | 0 => need (la = 0) (.vand d a b pm)
  | 1 => need (la = 0) (.vor d a b pm)
  | 2 => need (la = 0) (.vxor d a b pm)
  | 3 => need (la = 0) (.vandn d a b pm)
  | 4 => need (la = 0) (.vsel d a b pm)
  | 5 => need ((d.extractLsb' 3 2) = 0 ∧ (a.extractLsb' 3 2) = 0 ∧ (b.extractLsb' 3 2) = 0 ∧ pm = 0 ∧ la = 0) (.vpand (d.extractLsb' 0 3) (a.extractLsb' 0 3) (b.extractLsb' 0 3))
  | 6 => need ((d.extractLsb' 3 2) = 0 ∧ (a.extractLsb' 3 2) = 0 ∧ (b.extractLsb' 3 2) = 0 ∧ pm = 0 ∧ la = 0) (.vpor (d.extractLsb' 0 3) (a.extractLsb' 0 3) (b.extractLsb' 0 3))
  | 7 => need ((d.extractLsb' 3 2) = 0 ∧ (a.extractLsb' 3 2) = 0 ∧ (b.extractLsb' 3 2) = 0 ∧ pm = 0 ∧ la = 0) (.vpxor (d.extractLsb' 0 3) (a.extractLsb' 0 3) (b.extractLsb' 0 3))
  | 8 => need ((d.extractLsb' 3 2) = 0 ∧ (a.extractLsb' 3 2) = 0 ∧ b = 0 ∧ pm = 0 ∧ la = 0) (.vpnot (d.extractLsb' 0 3) (a.extractLsb' 0 3))
  | 9 => need ((a.extractLsb' 3 2) = 0) (.vpcnt d (a.extractLsb' 0 3) b pm la)
  | 10 => need ((a.extractLsb' 3 2) = 0) (.vpfirst d (a.extractLsb' 0 3) b pm la)
  | _ => .error .unassigned

/-- The members of group Vprm, major 0x2F. -/
def decodeVprm (d : BitVec 5) (a : BitVec 5) (b : BitVec 5) (fn : BitVec 4) (pm : BitVec 3) (la : BitVec 4) : Except Reject Instr :=
  match fn.toNat with
  | 0 => .ok (.vperm d a b pm la)
  | 1 => .ok (.vbcast d a b pm la)
  | 2 => .ok (.vext d a b pm la)
  | 3 => .ok (.vins d a b pm la)
  | 4 => .ok (.vslup d a b pm la)
  | 5 => .ok (.vsldn d a b pm la)
  | 6 => need (a = 0) (.viota d b pm la)
  | 7 => .ok (.vcompr d a b pm la)
  | 8 => .ok (.vredi d a b pm la)
  | 9 => .ok (.vredf d a b pm la)
  | 10 => .ok (.vredmx d a b pm la)
  | 11 => .ok (.vredmn d a b pm la)
  | _ => .error .unassigned

/-- The members of group Vcvt, major 0x30. -/
def decodeVcvt (d : BitVec 5) (a : BitVec 5) (b : BitVec 5) (fn : BitVec 4) (pm : BitVec 3) (la : BitVec 4) : Except Reject Instr :=
  if fn.extractLsb' 2 2 = 0 then .ok (.vcvt d a b (fn.extractLsb' 0 2) pm la) else .error .unassigned

/-- The members of group Vqnt, major 0x31. -/
def decodeVqnt (d : BitVec 5) (a : BitVec 5) (b : BitVec 5) (fn : BitVec 4) (pm : BitVec 3) (la : BitVec 4) : Except Reject Instr :=
  match fn.toNat with
  | 0 => need ((a.extractLsb' 0 1) = 0) (.vqgrp d (a.extractLsb' 1 4) b pm la)
  | 1 => need ((d.extractLsb' 0 1) = 0) (.vdqgrp (d.extractLsb' 1 4) a b pm la)
  | 2 => need ((a.extractLsb' 0 1) = 0) (.vqmx d (a.extractLsb' 1 4) b pm la)
  | 3 => need ((d.extractLsb' 0 1) = 0) (.vdqmx (d.extractLsb' 1 4) a b pm la)
  | 4 => .ok (.vscacc d a b pm la)
  | 5 => .ok (.vbfpn d a b pm la)
  | 6 => need (b = 0) (.vbfpx d a pm la)
  | 7 => .ok (.vzpc d a b pm la)
  | _ => .error .unassigned

/-- The members of group Vmem, major 0x34. -/
def decodeVmem (d : BitVec 5) (a : BitVec 5) (b : BitVec 5) (fn : BitVec 4) (pm : BitVec 3) (la : BitVec 4) : Except Reject Instr :=
  match fn.toNat with
  | 0 => .ok (.vlds d a b pm la)
  | 1 => .ok (.vsts d a b pm la)
  | 2 => .ok (.vgth d a b pm la)
  | 3 => .ok (.vsct d a b pm la)
  | 4 => need (b = 0) (.vldb d a pm la)
  | _ => .error .unassigned

/-- The members of group Vmov, major 0x35. -/
def decodeVmov (d : BitVec 5) (a : BitVec 5) (b : BitVec 5) (fn : BitVec 4) (pm : BitVec 3) (la : BitVec 4) : Except Reject Instr :=
  match fn.toNat with
  | 0 => need (b = 0) (.vmvsv d a pm la)
  | 1 => .ok (.vmvvs d a b pm la)
  | 2 => need ((d.extractLsb' 3 2) = 0 ∧ (b.extractLsb' 3 2) = 0 ∧ pm = 0) (.vpld (d.extractLsb' 0 3) a (b.extractLsb' 0 3) la)
  | 3 => need ((a.extractLsb' 3 2) = 0 ∧ (b.extractLsb' 3 2) = 0 ∧ pm = 0) (.vpst d (a.extractLsb' 0 3) (b.extractLsb' 0 3) la)
  | _ => .error .unassigned

/-- The instruction of a word by its encoding, its field values not yet looked at (R58). -/
def decodeRaw (w : IWord) : Except Reject Instr :=
  match (w.extractLsb' 26 6).toNat with
  | 0 => decodeSys (f5 w 21) (f5 w 16) (w.extractLsb' 12 4) (w.extractLsb' 0 12)
  | 1 => decodeAlu (f5 w 21) (f5 w 16) (f5 w 11) (w.extractLsb' 4 7) (w.extractLsb' 0 4)
  | 2 => .ok (.addi (f5 w 21) (f5 w 16) (w.extractLsb' 0 16))
  | 3 => .ok (.andi (f5 w 21) (f5 w 16) (w.extractLsb' 0 16))
  | 4 => .ok (.ori (f5 w 21) (f5 w 16) (w.extractLsb' 0 16))
  | 5 => .ok (.xori (f5 w 21) (f5 w 16) (w.extractLsb' 0 16))
  | 6 => .ok (.slti (f5 w 21) (f5 w 16) (w.extractLsb' 0 16))
  | 7 => .ok (.sltiu (f5 w 21) (f5 w 16) (w.extractLsb' 0 16))
  | 8 => need ((f5 w 16) = 0) (.lui (f5 w 21) (w.extractLsb' 0 16))
  | 9 => decodeShi (f5 w 21) (f5 w 16) (w.extractLsb' 0 16)
  | 10 => .ok (.beq (f5 w 21) (f5 w 16) (w.extractLsb' 0 16))
  | 11 => .ok (.bne (f5 w 21) (f5 w 16) (w.extractLsb' 0 16))
  | 12 => .ok (.blt (f5 w 21) (f5 w 16) (w.extractLsb' 0 16))
  | 13 => .ok (.bge (f5 w 21) (f5 w 16) (w.extractLsb' 0 16))
  | 14 => .ok (.bltu (f5 w 21) (f5 w 16) (w.extractLsb' 0 16))
  | 15 => .ok (.bgeu (f5 w 21) (f5 w 16) (w.extractLsb' 0 16))
  | 16 => .ok (.jal (w.extractLsb' 0 26))
  | 17 => .ok (.jalr (f5 w 21) (f5 w 16) (w.extractLsb' 0 16))
  | 18 => .ok (.lb (f5 w 21) (f5 w 16) (w.extractLsb' 4 12) (w.extractLsb' 0 4))
  | 19 => .ok (.lh (f5 w 21) (f5 w 16) (w.extractLsb' 4 12) (w.extractLsb' 0 4))
  | 20 => .ok (.lw (f5 w 21) (f5 w 16) (w.extractLsb' 4 12) (w.extractLsb' 0 4))
  | 21 => .ok (.ld (f5 w 21) (f5 w 16) (w.extractLsb' 4 12) (w.extractLsb' 0 4))
  | 22 => .ok (.lbu (f5 w 21) (f5 w 16) (w.extractLsb' 4 12) (w.extractLsb' 0 4))
  | 23 => .ok (.lhu (f5 w 21) (f5 w 16) (w.extractLsb' 4 12) (w.extractLsb' 0 4))
  | 24 => .ok (.lwu (f5 w 21) (f5 w 16) (w.extractLsb' 4 12) (w.extractLsb' 0 4))
  | 25 => .ok (.sb (f5 w 21) (f5 w 16) (w.extractLsb' 4 12) (w.extractLsb' 0 4))
  | 26 => .ok (.sh (f5 w 21) (f5 w 16) (w.extractLsb' 4 12) (w.extractLsb' 0 4))
  | 27 => .ok (.sw (f5 w 21) (f5 w 16) (w.extractLsb' 4 12) (w.extractLsb' 0 4))
  | 28 => .ok (.sd (f5 w 21) (f5 w 16) (w.extractLsb' 4 12) (w.extractLsb' 0 4))
  | 29 => .ok (.lds (f5 w 21) (f5 w 16) (w.extractLsb' 4 12) (w.extractLsb' 0 4))
  | 30 => decodeFe (f5 w 21) (f5 w 16) (f5 w 11) (w.extractLsb' 4 7) (w.extractLsb' 0 4)
  | 31 => decodeFpu (f5 w 21) (f5 w 16) (f5 w 11) (w.extractLsb' 4 7) (w.extractLsb' 0 4)
  | 32 => decodeBf (f5 w 21) (f5 w 16) (w.extractLsb' 10 6) (w.extractLsb' 4 6) (w.extractLsb' 2 2) (w.extractLsb' 0 2)
  | 33 => decodeAmo (f5 w 21) (f5 w 16) (f5 w 11) (w.extractLsb' 4 7) (w.extractLsb' 0 4)
  | 34 => decodeSync (f5 w 21) (f5 w 16) (f5 w 11) (w.extractLsb' 4 7) (w.extractLsb' 0 4)
  | 35 => decodeTask (f5 w 21) (f5 w 16) (f5 w 11) (w.extractLsb' 4 7) (w.extractLsb' 0 4)
  | 36 => decodeQlk (f5 w 21) (f5 w 16) (f5 w 11) (w.extractLsb' 4 7) (w.extractLsb' 0 4)
  | 37 => decodeMeshx (f5 w 21) (f5 w 16) (f5 w 11) (w.extractLsb' 4 7) (w.extractLsb' 0 4)
  | 38 => decodeCk (f5 w 21) (f5 w 16) (f5 w 11) (w.extractLsb' 4 7) (w.extractLsb' 0 4)
  | 39 => decodeFs (f5 w 21) (f5 w 16) (f5 w 11) (f5 w 6) (w.extractLsb' 4 2) (w.extractLsb' 0 4)
  | 40 => decodeVi32 (f5 w 21) (f5 w 16) (f5 w 11) (w.extractLsb' 7 4) (w.extractLsb' 4 3) (w.extractLsb' 0 4)
  | 41 => decodeVi16 (f5 w 21) (f5 w 16) (f5 w 11) (w.extractLsb' 7 4) (w.extractLsb' 4 3) (w.extractLsb' 0 4)
  | 42 => decodeVi8 (f5 w 21) (f5 w 16) (f5 w 11) (w.extractLsb' 7 4) (w.extractLsb' 4 3) (w.extractLsb' 0 4)
  | 43 => decodeVf32 (f5 w 21) (f5 w 16) (f5 w 11) (w.extractLsb' 7 4) (w.extractLsb' 4 3) (w.extractLsb' 0 4)
  | 44 => decodeVbf16 (f5 w 21) (f5 w 16) (f5 w 11) (w.extractLsb' 7 4) (w.extractLsb' 4 3) (w.extractLsb' 0 4)
  | 45 => decodeVf16 (f5 w 21) (f5 w 16) (f5 w 11) (w.extractLsb' 7 4) (w.extractLsb' 4 3) (w.extractLsb' 0 4)
  | 46 => decodeVlog (f5 w 21) (f5 w 16) (f5 w 11) (w.extractLsb' 7 4) (w.extractLsb' 4 3) (w.extractLsb' 0 4)
  | 47 => decodeVprm (f5 w 21) (f5 w 16) (f5 w 11) (w.extractLsb' 7 4) (w.extractLsb' 4 3) (w.extractLsb' 0 4)
  | 48 => decodeVcvt (f5 w 21) (f5 w 16) (f5 w 11) (w.extractLsb' 7 4) (w.extractLsb' 4 3) (w.extractLsb' 0 4)
  | 49 => decodeVqnt (f5 w 21) (f5 w 16) (f5 w 11) (w.extractLsb' 7 4) (w.extractLsb' 4 3) (w.extractLsb' 0 4)
  | 50 => .ok (.vld (f5 w 21) (f5 w 16) (w.extractLsb' 4 12) (w.extractLsb' 0 4))
  | 51 => .ok (.vst (f5 w 21) (f5 w 16) (w.extractLsb' 4 12) (w.extractLsb' 0 4))
  | 52 => decodeVmem (f5 w 21) (f5 w 16) (f5 w 11) (w.extractLsb' 7 4) (w.extractLsb' 4 3) (w.extractLsb' 0 4)
  | 53 => decodeVmov (f5 w 21) (f5 w 16) (f5 w 11) (w.extractLsb' 7 4) (w.extractLsb' 4 3) (w.extractLsb' 0 4)
  | 63 => .error .majorIllegal
  | m => if 54 ≤ m then .error .extension else .error .unassigned

/-- The instruction a word stands for, or why it stands for none. -/
def decode (w : IWord) : Except Reject Instr :=
  match decodeRaw w with
  | .ok i => if i.wf then .ok i else .error .fieldValue
  | .error r => .error r

/-- The word in four bytes of ascending address: little-endian (03_encoding, Encoding examples). -/
def wordOfBytes (b0 b1 b2 b3 : Byte) : IWord := b3 ++ b2 ++ b1 ++ b0

/-- Byte `k` of a word, byte 0 at the lowest address. -/
def byteOfWord (w : IWord) (k : Nat) : Byte := w.extractLsb' (8 * k) 8

/-- The decoder on an instruction given by number: its bytes laid out as the hardware stores them. -/
def decodeTableWord (_nbits w : Nat) : Option Instr :=
  let x : IWord := BitVec.ofNat 32 w
  match decode (wordOfBytes (byteOfWord x 0) (byteOfWord x 1) (byteOfWord x 2) (byteOfWord x 3)) with
  | .ok i => some i
  | .error _ => none

/-! ### The encoder -/

/-- R form (R53). -/
def packR (m : BitVec 6) (d a b : BitVec 5) (fn : BitVec 7) (la : BitVec 4) : IWord := m ++ d ++ a ++ b ++ fn ++ la
/-- I form. -/
def packI (m : BitVec 6) (d a : BitVec 5) (imm : BitVec 16) : IWord := m ++ d ++ a ++ imm
/-- M form. -/
def packM (m : BitVec 6) (d a : BitVec 5) (off : BitVec 12) (la : BitVec 4) : IWord := m ++ d ++ a ++ off ++ la
/-- B form. -/
def packB (m : BitVec 6) (a b : BitVec 5) (off : BitVec 16) : IWord := m ++ a ++ b ++ off
/-- J form. -/
def packJ (m : BitVec 6) (off : BitVec 26) : IWord := m ++ off
/-- SYS form. -/
def packS (m : BitVec 6) (d a : BitVec 5) (sub : BitVec 4) (imm : BitVec 12) : IWord := m ++ d ++ a ++ sub ++ imm
/-- BF form. -/
def packBF (m : BitVec 6) (d a : BitVec 5) (pos len : BitVec 6) (sub z : BitVec 2) : IWord :=
  m ++ d ++ a ++ pos ++ len ++ sub ++ z
/-- FS form. -/
def packFS (m : BitVec 6) (d a b c : BitVec 5) (sub : BitVec 2) (z : BitVec 4) : IWord :=
  m ++ d ++ a ++ b ++ c ++ sub ++ z
/-- V form. -/
def packV (m : BitVec 6) (d a b : BitVec 5) (fn : BitVec 4) (pm : BitVec 3) (la : BitVec 4) : IWord :=
  m ++ d ++ a ++ b ++ fn ++ pm ++ la

/-- The word of an instruction, from the same tables; `none` for what no word encodes. -/
def encode : Instr → Option IWord
  | .ill => some (packS 0 0#5 0#5 0#4 0#12)
  | .nop => some (packS 0 0#5 0#5 0#4 1#12)
  | .csrr d c => some (packS 0 d 0#5 1#4 c)
  | .csrw d a c => some (packS 0 d a 2#4 c)
  | .csrs d a c => some (packS 0 d a 3#4 c)
  | .csrc d a c => some (packS 0 d a 4#4 c)
  | .fence s => some (packS 0 0#5 0#5 5#4 (0#9 ++ s))
  | .rel s => some (packS 0 0#5 0#5 6#4 (0#9 ++ s))
  | .acq s => some (packS 0 0#5 0#5 7#4 (0#9 ++ s))
  | .chunke => some (packS 0 0#5 0#5 8#4 0#12)
  | .svc n => some (packS 0 0#5 0#5 9#4 n)
  | .halt => some (packS 0 0#5 0#5 10#4 0#12)
  | .resume d a => some (packS 0 d a 11#4 0#12)
  | .tlbi a m => some (packS 0 0#5 a 12#4 (0#10 ++ m))
  | .frply a => some (packS 0 0#5 a 13#4 0#12)
  | .l2flw a => some (packS 0 0#5 a 14#4 0#12)
  | .hflush d a m => some (packS 0 d a 15#4 (0#10 ++ m))
  | .add d a b => some (packR 1 d a b 0#7 0#4)
  | .sub d a b => some (packR 1 d a b 1#7 0#4)
  | .and d a b => some (packR 1 d a b 2#7 0#4)
  | .or d a b => some (packR 1 d a b 3#7 0#4)
  | .xor d a b => some (packR 1 d a b 4#7 0#4)
  | .andn d a b => some (packR 1 d a b 5#7 0#4)
  | .orn d a b => some (packR 1 d a b 6#7 0#4)
  | .xnor d a b => some (packR 1 d a b 7#7 0#4)
  | .sll d a b => some (packR 1 d a b 8#7 0#4)
  | .srl d a b => some (packR 1 d a b 9#7 0#4)
  | .sra d a b => some (packR 1 d a b 10#7 0#4)
  | .rol d a b => some (packR 1 d a b 11#7 0#4)
  | .ror d a b => some (packR 1 d a b 12#7 0#4)
  | .slt d a b => some (packR 1 d a b 13#7 0#4)
  | .sltu d a b => some (packR 1 d a b 14#7 0#4)
  | .seq d a b => some (packR 1 d a b 15#7 0#4)
  | .min d a b => some (packR 1 d a b 16#7 0#4)
  | .max d a b => some (packR 1 d a b 17#7 0#4)
  | .minu d a b => some (packR 1 d a b 18#7 0#4)
  | .maxu d a b => some (packR 1 d a b 19#7 0#4)
  | .mul d a b l => some (packR 1 d a b 20#7 l)
  | .mulh d a b l => some (packR 1 d a b 21#7 l)
  | .mulhu d a b l => some (packR 1 d a b 22#7 l)
  | .div d a b l => some (packR 1 d a b 23#7 l)
  | .divu d a b l => some (packR 1 d a b 24#7 l)
  | .rem d a b l => some (packR 1 d a b 25#7 l)
  | .remu d a b l => some (packR 1 d a b 26#7 l)
  | .clz d a => some (packR 1 d a 0#5 27#7 0#4)
  | .ctz d a => some (packR 1 d a 0#5 28#7 0#4)
  | .popc d a => some (packR 1 d a 0#5 29#7 0#4)
  | .brev d a => some (packR 1 d a 0#5 30#7 0#4)
  | .bswap d a => some (packR 1 d a 0#5 31#7 0#4)
  | .sextb d a => some (packR 1 d a 0#5 32#7 0#4)
  | .sexth d a => some (packR 1 d a 0#5 33#7 0#4)
  | .sextw d a => some (packR 1 d a 0#5 34#7 0#4)
  | .zextw d a => some (packR 1 d a 0#5 35#7 0#4)
  | .addw d a b => some (packR 1 d a b 36#7 0#4)
  | .subw d a b => some (packR 1 d a b 37#7 0#4)
  | .adds d a b => some (packR 1 d a b 38#7 0#4)
  | .hadd d a b => some (packR 1 d a b 39#7 0#4)
  | .addi d a i => some (packI 2 d a i)
  | .andi d a i => some (packI 3 d a i)
  | .ori d a i => some (packI 4 d a i)
  | .xori d a i => some (packI 5 d a i)
  | .slti d a i => some (packI 6 d a i)
  | .sltiu d a i => some (packI 7 d a i)
  | .lui d i => some (packI 8 d 0#5 i)
  | .slli d a n => some (packI 9 d a (0#10 ++ n))
  | .srli d a n => some (packI 9 d a (256#10 ++ n))
  | .srai d a n => some (packI 9 d a (512#10 ++ n))
  | .rori d a n => some (packI 9 d a (768#10 ++ n))
  | .beq a b o => some (packB 10 a b o)
  | .bne a b o => some (packB 11 a b o)
  | .blt a b o => some (packB 12 a b o)
  | .bge a b o => some (packB 13 a b o)
  | .bltu a b o => some (packB 14 a b o)
  | .bgeu a b o => some (packB 15 a b o)
  | .jal o => some (packJ 16 o)
  | .jalr d a i => some (packI 17 d a i)
  | .lb d a o l => some (packM 18 d a o l)
  | .lh d a o l => some (packM 19 d a o l)
  | .lw d a o l => some (packM 20 d a o l)
  | .ld d a o l => some (packM 21 d a o l)
  | .lbu d a o l => some (packM 22 d a o l)
  | .lhu d a o l => some (packM 23 d a o l)
  | .lwu d a o l => some (packM 24 d a o l)
  | .sb d a o l => some (packM 25 d a o l)
  | .sh d a o l => some (packM 26 d a o l)
  | .sw d a o l => some (packM 27 d a o l)
  | .sd d a o l => some (packM 28 d a o l)
  | .lds d a o l => some (packM 29 d a o l)
  | .ldse d a l => some (packR 30 d a 0#5 0#7 l)
  | .stf a b l => some (packR 30 0#5 a b 1#7 l)
  | .feclr a l => some (packR 30 0#5 a 0#5 2#7 l)
  | .feset a l => some (packR 30 0#5 a 0#5 3#7 l)
  | .feq d a l => some (packR 30 d a 0#5 4#7 l)
  | .fadd d a b l => some (packR 31 d a b 0#7 l)
  | .fsub d a b l => some (packR 31 d a b 1#7 l)
  | .fmul d a b l => some (packR 31 d a b 2#7 l)
  | .fdiv d a b l => some (packR 31 d a b 3#7 l)
  | .fsqrt d a l => some (packR 31 d a 0#5 4#7 l)
  | .fmin d a b l => some (packR 31 d a b 5#7 l)
  | .fmax d a b l => some (packR 31 d a b 6#7 l)
  | .fceq d a b l => some (packR 31 d a b 7#7 l)
  | .fclt d a b l => some (packR 31 d a b 8#7 l)
  | .fcle d a b l => some (packR 31 d a b 9#7 l)
  | .fmac d a b l => some (packR 31 d a b 10#7 l)
  | .fcvtdl d a l => some (packR 31 d a 0#5 11#7 l)
  | .fcvtld d a l => some (packR 31 d a 0#5 12#7 l)
  | .fcvtsd d a l => some (packR 31 d a 0#5 13#7 l)
  | .fcvtds d a l => some (packR 31 d a 0#5 14#7 l)
  | .fclass d a l => some (packR 31 d a 0#5 15#7 l)
  | .bext d a p n => some (packBF 32 d a p n 0#2 0#2)
  | .bexts d a p n => some (packBF 32 d a p n 1#2 0#2)
  | .bins d a p n => some (packBF 32 d a p n 2#2 0#2)
  | .amoswap d a b l => some (packR 33 d a b 0#7 l)
  | .amoadd d a b l => some (packR 33 d a b 1#7 l)
  | .amoand d a b l => some (packR 33 d a b 2#7 l)
  | .amoor d a b l => some (packR 33 d a b 3#7 l)
  | .amoxor d a b l => some (packR 33 d a b 4#7 l)
  | .amomin d a b l => some (packR 33 d a b 5#7 l)
  | .amomax d a b l => some (packR 33 d a b 6#7 l)
  | .amominu d a b l => some (packR 33 d a b 7#7 l)
  | .amomaxu d a b l => some (packR 33 d a b 8#7 l)
  | .amoswapI32 d a b l => some (packR 33 d a b 64#7 l)
  | .amoaddI32 d a b l => some (packR 33 d a b 65#7 l)
  | .amoandI32 d a b l => some (packR 33 d a b 66#7 l)
  | .amoorI32 d a b l => some (packR 33 d a b 67#7 l)
  | .amoxorI32 d a b l => some (packR 33 d a b 68#7 l)
  | .amominI32 d a b l => some (packR 33 d a b 69#7 l)
  | .amomaxI32 d a b l => some (packR 33 d a b 70#7 l)
  | .amominuI32 d a b l => some (packR 33 d a b 71#7 l)
  | .amomaxuI32 d a b l => some (packR 33 d a b 72#7 l)
  | .cas d a b l => some (packR 33 d a b 9#7 l)
  | .casgt d a b l => some (packR 33 d a b 10#7 l)
  | .casver d a b l => some (packR 33 d a b 11#7 l)
  | .castag d a b l => some (packR 33 d a b 12#7 l)
  | .amofadd d a b l => some (packR 33 d a b 13#7 l)
  | .redadd d a b l => some (packR 33 d a b 14#7 l)
  | .redmin d a b l => some (packR 33 d a b 15#7 l)
  | .redmax d a b l => some (packR 33 d a b 16#7 l)
  | .redfadd d a b l => some (packR 33 d a b 17#7 l)
  | .redor d a b l => some (packR 33 d a b 18#7 l)
  | .barArr n => some (packR 34 n 0#5 0#5 0#7 0#4)
  | .barWait n => some (packR 34 n 0#5 0#5 1#7 0#4)
  | .barArrw n => some (packR 34 n 0#5 0#5 2#7 0#4)
  | .barInit n a s => some (packR 34 n a (0#2 ++ s) 3#7 0#4)
  | .evwait d a => some (packR 34 d a 0#5 4#7 0#4)
  | .evsig a b => some (packR 34 0#5 a b 5#7 0#4)
  | .msg a b => some (packR 34 0#5 a b 6#7 0#4)
  | .cntadd n a => some (packR 34 (0#1 ++ n) a 0#5 7#7 0#4)
  | .cntwait n a => some (packR 34 (0#1 ++ n) a 0#5 8#7 0#4)
  | .tkpost d a b => some (packR 35 d a b 0#7 0#4)
  | .tkcancel d a => some (packR 35 d a 0#5 1#7 0#4)
  | .tkexit => some (packR 35 0#5 0#5 0#5 2#7 0#4)
  | .tkyield a b => some (packR 35 0#5 a b 3#7 0#4)
  | .prehint a b => some (packR 35 0#5 a b 4#7 0#4)
  | .gang a => some (packR 35 0#5 a 0#5 5#7 0#4)
  | .split => some (packR 35 0#5 0#5 0#5 6#7 0#4)
  | .cropen a => some (packR 35 0#5 a 0#5 7#7 0#4)
  | .crclose => some (packR 35 0#5 0#5 0#5 8#7 0#4)
  | .tkstat d a => some (packR 35 d a 0#5 9#7 0#4)
  | .qsend q a t => some (packR 36 (0#1 ++ q) a t 0#7 0#4)
  | .qsendv q a t => some (packR 36 (0#1 ++ q) a t 1#7 0#4)
  | .qpush q a => some (packR 36 (0#1 ++ q) a 0#5 2#7 0#4)
  | .qpop d q l => some (packR 36 d (0#1 ++ q) 0#5 3#7 l)
  | .qpopv d q l => some (packR 36 d (0#1 ++ q) 0#5 4#7 l)
  | .qstat d q => some (packR 36 d (0#1 ++ q) 0#5 5#7 0#4)
  | .qflush q => some (packR 36 (0#1 ++ q) 0#5 0#5 6#7 0#4)
  | .lkrd d k l => some (packR 36 d (0#3 ++ k) 0#5 7#7 l)
  | .lkrdf d k l => some (packR 36 d (0#3 ++ k) 0#5 8#7 l)
  | .lkwr k a => some (packR 36 (0#3 ++ k) a 0#5 9#7 0#4)
  | .lkstat d => some (packR 36 d 0#5 0#5 10#7 0#4)
  | .tloc d a l => some (packR 37 d a 0#5 0#7 l)
  | .tfix d a => some (packR 37 d a 0#5 1#7 0#4)
  | .tretry d a => some (packR 37 d a 0#5 2#7 0#4)
  | .trrd d a b l => some (packR 37 d a b 3#7 l)
  | .wspsw a => some (packR 37 0#5 a 0#5 4#7 0#4)
  | .mbatch d => some (packR 37 d 0#5 0#5 5#7 0#4)
  | .mdrain d => some (packR 37 d 0#5 0#5 6#7 0#4)
  | .skcomb d a b => some (packR 37 d a b 7#7 0#4)
  | .ckacc k a l => some (packR 38 (0#3 ++ k) a 0#5 0#7 l)
  | .ckaccx k a l => some (packR 38 (0#3 ++ k) a 0#5 1#7 l)
  | .ckaccf k a l => some (packR 38 (0#3 ++ k) a 0#5 2#7 l)
  | .ckaccv k a e l => some (packR 38 (0#3 ++ k) a e 3#7 l)
  | .ckchk k a b l => some (packR 38 (0#3 ++ k) a b 4#7 l)
  | .ckchkf k a b l => some (packR 38 (0#3 ++ k) a b 5#7 l)
  | .ckclr k => some (packR 38 (0#3 ++ k) 0#5 0#5 6#7 0#4)
  | .ckrd d k => some (packR 38 d (0#3 ++ k) 0#5 7#7 0#4)
  | .fshl d a b c => some (packFS 39 d a b c 0#2 0#4)
  | .fshr d a b c => some (packFS 39 d a b c 1#2 0#4)
  | .bextv d a b c => some (packFS 39 d a b c 2#2 0#4)
  | .binsv d a b c => some (packFS 39 d a b c 3#2 0#4)
  | .vaddI32 d a b p l => some (packV 40 d a b 0#4 p l)
  | .vsubI32 d a b p l => some (packV 40 d a b 1#4 p l)
  | .vmulI32 d a b p l => some (packV 40 d a b 2#4 p l)
  | .vmacI32 d a b p l => some (packV 40 d a b 3#4 p l)
  | .vminI32 d a b p l => some (packV 40 d a b 4#4 p l)
  | .vmaxI32 d a b p l => some (packV 40 d a b 5#4 p l)
  | .vminuI32 d a b p l => some (packV 40 d a b 6#4 p l)
  | .vmaxuI32 d a b p l => some (packV 40 d a b 7#4 p l)
  | .vabsI32 d a p l => some (packV 40 d a 0#5 8#4 p l)
  | .vnegI32 d a p l => some (packV 40 d a 0#5 9#4 p l)
  | .vshlI32 d a b p l => some (packV 40 d a b 10#4 p l)
  | .vshrI32 d a b p l => some (packV 40 d a b 11#4 p l)
  | .vsraI32 d a b p l => some (packV 40 d a b 12#4 p l)
  | .vceqI32 d a b p l => some (packV 40 (0#2 ++ d) a b 13#4 p l)
  | .vcltI32 d a b p l => some (packV 40 (0#2 ++ d) a b 14#4 p l)
  | .vcltuI32 d a b p l => some (packV 40 (0#2 ++ d) a b 15#4 p l)
  | .vaddI16 d a b p l => some (packV 41 d a b 0#4 p l)
  | .vsubI16 d a b p l => some (packV 41 d a b 1#4 p l)
  | .vmulI16 d a b p l => some (packV 41 d a b 2#4 p l)
  | .vmacI16 d a b p l => some (packV 41 d a b 3#4 p l)
  | .vminI16 d a b p l => some (packV 41 d a b 4#4 p l)
  | .vmaxI16 d a b p l => some (packV 41 d a b 5#4 p l)
  | .vminuI16 d a b p l => some (packV 41 d a b 6#4 p l)
  | .vmaxuI16 d a b p l => some (packV 41 d a b 7#4 p l)
  | .vabsI16 d a p l => some (packV 41 d a 0#5 8#4 p l)
  | .vnegI16 d a p l => some (packV 41 d a 0#5 9#4 p l)
  | .vshlI16 d a b p l => some (packV 41 d a b 10#4 p l)
  | .vshrI16 d a b p l => some (packV 41 d a b 11#4 p l)
  | .vsraI16 d a b p l => some (packV 41 d a b 12#4 p l)
  | .vceqI16 d a b p l => some (packV 41 (0#2 ++ d) a b 13#4 p l)
  | .vcltI16 d a b p l => some (packV 41 (0#2 ++ d) a b 14#4 p l)
  | .vcltuI16 d a b p l => some (packV 41 (0#2 ++ d) a b 15#4 p l)
  | .vaddI8 d a b p l => some (packV 42 d a b 0#4 p l)
  | .vsubI8 d a b p l => some (packV 42 d a b 1#4 p l)
  | .vmulI8 d a b p l => some (packV 42 d a b 2#4 p l)
  | .vmacI8 d a b p l => some (packV 42 d a b 3#4 p l)
  | .vminI8 d a b p l => some (packV 42 d a b 4#4 p l)
  | .vmaxI8 d a b p l => some (packV 42 d a b 5#4 p l)
  | .vminuI8 d a b p l => some (packV 42 d a b 6#4 p l)
  | .vmaxuI8 d a b p l => some (packV 42 d a b 7#4 p l)
  | .vabsI8 d a p l => some (packV 42 d a 0#5 8#4 p l)
  | .vnegI8 d a p l => some (packV 42 d a 0#5 9#4 p l)
  | .vshlI8 d a b p l => some (packV 42 d a b 10#4 p l)
  | .vshrI8 d a b p l => some (packV 42 d a b 11#4 p l)
  | .vsraI8 d a b p l => some (packV 42 d a b 12#4 p l)
  | .vceqI8 d a b p l => some (packV 42 (0#2 ++ d) a b 13#4 p l)
  | .vcltI8 d a b p l => some (packV 42 (0#2 ++ d) a b 14#4 p l)
  | .vcltuI8 d a b p l => some (packV 42 (0#2 ++ d) a b 15#4 p l)
  | .vaddF32 d a b p l => some (packV 43 d a b 0#4 p l)
  | .vsubF32 d a b p l => some (packV 43 d a b 1#4 p l)
  | .vmulF32 d a b p l => some (packV 43 d a b 2#4 p l)
  | .vfmaF32 d a b p l => some (packV 43 d a b 3#4 p l)
  | .vminF32 d a b p l => some (packV 43 d a b 4#4 p l)
  | .vmaxF32 d a b p l => some (packV 43 d a b 5#4 p l)
  | .vfmsF32 d a b p l => some (packV 43 d a b 6#4 p l)
  | .vdivF32 d a b p l => some (packV 43 d a b 7#4 p l)
  | .vabsF32 d a p l => some (packV 43 d a 0#5 8#4 p l)
  | .vnegF32 d a p l => some (packV 43 d a 0#5 9#4 p l)
  | .vsqrtF32 d a p l => some (packV 43 d a 0#5 10#4 p l)
  | .vrcpeF32 d a p l => some (packV 43 d a 0#5 11#4 p l)
  | .vrsqeF32 d a p l => some (packV 43 d a 0#5 12#4 p l)
  | .vceqF32 d a b p l => some (packV 43 (0#2 ++ d) a b 13#4 p l)
  | .vcltF32 d a b p l => some (packV 43 (0#2 ++ d) a b 14#4 p l)
  | .vcleF32 d a b p l => some (packV 43 (0#2 ++ d) a b 15#4 p l)
  | .vaddBf16 d a b p l => some (packV 44 d a b 0#4 p l)
  | .vsubBf16 d a b p l => some (packV 44 d a b 1#4 p l)
  | .vmulBf16 d a b p l => some (packV 44 d a b 2#4 p l)
  | .vfmaBf16 d a b p l => some (packV 44 d a b 3#4 p l)
  | .vminBf16 d a b p l => some (packV 44 d a b 4#4 p l)
  | .vmaxBf16 d a b p l => some (packV 44 d a b 5#4 p l)
  | .vfmsBf16 d a b p l => some (packV 44 d a b 6#4 p l)
  | .vabsBf16 d a p l => some (packV 44 d a 0#5 8#4 p l)
  | .vnegBf16 d a p l => some (packV 44 d a 0#5 9#4 p l)
  | .vrcpeBf16 d a p l => some (packV 44 d a 0#5 11#4 p l)
  | .vrsqeBf16 d a p l => some (packV 44 d a 0#5 12#4 p l)
  | .vceqBf16 d a b p l => some (packV 44 (0#2 ++ d) a b 13#4 p l)
  | .vcltBf16 d a b p l => some (packV 44 (0#2 ++ d) a b 14#4 p l)
  | .vcleBf16 d a b p l => some (packV 44 (0#2 ++ d) a b 15#4 p l)
  | .vaddF16 d a b p l => some (packV 45 d a b 0#4 p l)
  | .vsubF16 d a b p l => some (packV 45 d a b 1#4 p l)
  | .vmulF16 d a b p l => some (packV 45 d a b 2#4 p l)
  | .vfmaF16 d a b p l => some (packV 45 d a b 3#4 p l)
  | .vminF16 d a b p l => some (packV 45 d a b 4#4 p l)
  | .vmaxF16 d a b p l => some (packV 45 d a b 5#4 p l)
  | .vfmsF16 d a b p l => some (packV 45 d a b 6#4 p l)
  | .vabsF16 d a p l => some (packV 45 d a 0#5 8#4 p l)
  | .vnegF16 d a p l => some (packV 45 d a 0#5 9#4 p l)
  | .vrcpeF16 d a p l => some (packV 45 d a 0#5 11#4 p l)
  | .vrsqeF16 d a p l => some (packV 45 d a 0#5 12#4 p l)
  | .vceqF16 d a b p l => some (packV 45 (0#2 ++ d) a b 13#4 p l)
  | .vcltF16 d a b p l => some (packV 45 (0#2 ++ d) a b 14#4 p l)
  | .vcleF16 d a b p l => some (packV 45 (0#2 ++ d) a b 15#4 p l)
  | .vand d a b p => some (packV 46 d a b 0#4 p 0#4)
  | .vor d a b p => some (packV 46 d a b 1#4 p 0#4)
  | .vxor d a b p => some (packV 46 d a b 2#4 p 0#4)
  | .vandn d a b p => some (packV 46 d a b 3#4 p 0#4)
  | .vsel d a b p => some (packV 46 d a b 4#4 p 0#4)
  | .vpand d a b => some (packV 46 (0#2 ++ d) (0#2 ++ a) (0#2 ++ b) 5#4 0#3 0#4)
  | .vpor d a b => some (packV 46 (0#2 ++ d) (0#2 ++ a) (0#2 ++ b) 6#4 0#3 0#4)
  | .vpxor d a b => some (packV 46 (0#2 ++ d) (0#2 ++ a) (0#2 ++ b) 7#4 0#3 0#4)
  | .vpnot d a => some (packV 46 (0#2 ++ d) (0#2 ++ a) 0#5 8#4 0#3 0#4)
  | .vpcnt d a e p l => some (packV 46 d (0#2 ++ a) e 9#4 p l)
  | .vpfirst d a e p l => some (packV 46 d (0#2 ++ a) e 10#4 p l)
  | .vperm d a b p l => some (packV 47 d a b 0#4 p l)
  | .vbcast d a b w l => some (packV 47 d a b 1#4 w l)
  | .vext d a b p l => some (packV 47 d a b 2#4 p l)
  | .vins d a b w l => some (packV 47 d a b 3#4 w l)
  | .vslup d a b p l => some (packV 47 d a b 4#4 p l)
  | .vsldn d a b p l => some (packV 47 d a b 5#4 p l)
  | .viota d e p l => some (packV 47 d 0#5 e 6#4 p l)
  | .vcompr d a e p l => some (packV 47 d a e 7#4 p l)
  | .vredi d a e p l => some (packV 47 d a e 8#4 p l)
  | .vredf d a e p l => some (packV 47 d a e 9#4 p l)
  | .vredmx d a e p l => some (packV 47 d a e 10#4 p l)
  | .vredmn d a e p l => some (packV 47 d a e 11#4 p l)
  | .vcvt d a c x p l => some (packV 48 d a c (0#2 ++ x) p l)
  | .vqgrp d a b t l => some (packV 49 d (a ++ 0#1) b 0#4 t l)
  | .vdqgrp d a b t l => some (packV 49 (d ++ 0#1) a b 1#4 t l)
  | .vqmx d a b t l => some (packV 49 d (a ++ 0#1) b 2#4 t l)
  | .vdqmx d a b t l => some (packV 49 (d ++ 0#1) a b 3#4 t l)
  | .vscacc d a b p l => some (packV 49 d a b 4#4 p l)
  | .vbfpn d a b f l => some (packV 49 d a b 5#4 f l)
  | .vbfpx d a f l => some (packV 49 d a 0#5 6#4 f l)
  | .vzpc d a b p l => some (packV 49 d a b 7#4 p l)
  | .vld d a o l => some (packM 50 d a o l)
  | .vst d a o l => some (packM 51 d a o l)
  | .vlds d a b p l => some (packV 52 d a b 0#4 p l)
  | .vsts d a b p l => some (packV 52 d a b 1#4 p l)
  | .vgth d a b p l => some (packV 52 d a b 2#4 p l)
  | .vsct d a b p l => some (packV 52 d a b 3#4 p l)
  | .vldb d a w l => some (packV 52 d a 0#5 4#4 w l)
  | .vmvsv d a w l => some (packV 53 d a 0#5 0#4 w l)
  | .vmvvs d a b w l => some (packV 53 d a b 1#4 w l)
  | .vpld d a n l => some (packV 53 (0#2 ++ d) a (0#2 ++ n) 2#4 0#3 l)
  | .vpst d a n l => some (packV 53 d (0#2 ++ a) (0#2 ++ n) 3#4 0#3 l)
  | .illegalInstruction _ => none
  | .emul _ => none
  | .mapply _ => none
  | .mcolsum _ => none
  | .mloadb _ => none
  | .mswapb _ => none
  | .mrotb _ => none
  | .mprobe _ => none
  | .sfact _ _ => none
  | .sfactq _ _ => none
  | .tcopy _ _ => none
  | .tcopy2 _ _ => none
  | .tgath _ _ => none
  | .tscat _ _ => none
  | .tfill _ _ => none
  | .tpref _ _ => none
  | .creds _ => none
  | .cgath _ => none
  | .cbcast _ => none
  | .callred _ => none
  | .migr _ => none
  | .migra _ => none
  | .mevac _ => none
  | .svctxRequest _ => none
  | .svctxForced _ => none
  | .svctxFrozen _ => none
  | .rsctx _ => none
  | .engineStart _ _ => none
  | .collectiveStart _ => none
  | .commandEnd _ _ _ => none
  | .anvilArbiterRound _ => none
  | .anvilPass _ => none
  | .passDrain _ => none
  | .holdingBufferDrain _ => none
  | .shadowTransferEnd _ => none
  | .batchBoundary _ => none
  | .probeSet _ => none
  | .probeReferenceEnd _ => none
  | .probeUpdate _ => none
  | .probeStaleTimeout _ => none
  | .chunkCommit _ => none
  | .writeNotice => none
  | .scoreboardComplete _ _ => none
  | .lateFault _ _ => none
  | .runAhead _ => none
  | .atomicPerform => none
  | .reductionDelivery => none
  | .feWaitRelease _ => none
  | .linkSlotArrival _ _ => none
  | .barrierArrival => none
  | .eventRelease _ => none
  | .taskAgingTick _ _ => none
  | .dispatch _ => none
  | .restore _ _ => none
  | .gangReservation _ => none
  | .gangDispatch _ => none
  | .launchUnitPost _ => none
  | .costartDispatch _ => none
  | .prebudgetExpiry _ => none
  | .save _ => none
  | .packetRingWrite _ => none
  | .migrationLineCopy _ _ => none
  | .migrationSwitch _ _ => none
  | .migrationAbort _ _ => none
  | .hotnessSample _ => none
  | .hotnessHalving _ => none
  | .notificationRepost _ => none
  | .scrubStep _ _ _ _ => none
  | .scrubRateReview _ => none
  | .refreshDue _ _ _ => none
  | .activationAlert _ _ => none
  | .vbusCrcError _ _ _ => none
  | .vbusLaneSteer _ _ => none
  | .inFieldTest _ => none
  | .iftInterval _ => none
  | .iftStart _ => none
  | .islandRelock _ _ => none
  | .islctlWrite _ _ _ => none
  | .droopStretch _ _ => none
  | .droopRecover _ _ => none
  | .brownoutHold => none
  | .brownoutResume => none
  | .powerCapStep _ => none
  | .powerCapRestore _ => none
  | .converterRowHot _ _ => none
  | .quenchExit _ _ => none
  | .junctionHot _ _ _ => none
  | .throttleStep _ _ _ => none
  | .photonicHot _ => none
  | .thermalTrip => none
  | .coldBoot _ => none
  | .pcieReset _ _ => none
  | .hostLinkDown => none
  | .hostLinkUp => none
  | .hostMemRead _ _ _ => none
  | .hostMemWrite _ _ _ _ => none
  | .cxlSurpriseRemoval _ _ => none
  | .atfinLockLost _ => none
  | .atfinReplayRequest _ => none
  | .atfinFlitAck _ => none
  | .atfinReplayLimit _ => none
  | .atfinRetrainEnd _ _ _ => none
  | .hostcmdWarmReset _ => none
  | .hostcmdPostTransport _ => none
  | .hostcmdQuote => none
  | .hostcmdFwCommit _ => none
  | .readStatus => none
  | .warmReset _ => none
  | .postTransport _ => none
  | .setCap _ => none
  | .readFeat => none
  | .flashWindow _ => none
  | .wttPost _ _ => none
  | .wttCancel _ _ => none
  | .wttKill _ _ => none
  | .teamLaunch _ => none
  | .migPortSubmit _ _ _ => none
  | .migPortPop _ => none
  | .savePortSubmit _ _ _ => none
  | .savePortPop _ => none
  | .nqPop _ => none
  | .hdoor _ => none
  | .hrelease _ => none
  | .smsgDoorbell _ => none
  | .histClear _ _ => none
  | .evWindowLoad _ _ _ => none
  | .evWindowStore _ _ => none
  | .lsplitWrite _ _ => none
  | .l2scrWrite _ _ => none
  | .hsampleWrite _ _ => none
  | .registerWrite _ _ => none
  | .voltageLoopAdjust _ _ => none
  | .refreshComplete _ _ => none
  | .powerRemoval => none
  | .inFieldTestEnd _ _ => none
  | .dieToDiePathFailure _ => none
  | .atfinFlitArrival _ _ => none
  | .homeAcknowledge => none
  | .msgDelivery => none
  | .skxDelivery => none

end Sys2Proof

end
end

