-- ==== Sys2Proof/Machine/Table.lean ====
section
/-! DEFINITION. Finite tables keyed by number: a list of pairs in rising key order. A key that the list does not
hold has the table's default value. -/

namespace Sys2Proof.Machine

/-- Sparse data by number: pairs of a key and a value, keys strictly rising. -/
abbrev Table (α : Type) := List (Nat × α)

/-- The value at key `k`, or `d` where the table holds none. -/
def tget {α : Type} (d : α) : Table α → Nat → α
  | [], _ => d
  | (j, x) :: t, k => if j = k then x else tget d t k

/-- The value at key `k`, if the table holds one. -/
def tfind {α : Type} : Table α → Nat → Option α
  | [], _ => none
  | (j, x) :: t, k => if j = k then some x else tfind t k

/-- The table with `x` at key `k`. -/
def tset {α : Type} : Table α → Nat → α → Table α
  | [], k, x => [(k, x)]
  | (j, y) :: t, k, x =>
    if k < j then (k, x) :: (j, y) :: t
    else if k = j then (k, x) :: t
    else (j, y) :: tset t k x

/-- The table without key `k`. -/
def tdel {α : Type} : Table α → Nat → Table α
  | [], _ => []
  | (j, y) :: t, k => if k = j then t else (j, y) :: tdel t k

/-- Whether the table holds key `k`. -/
def thas {α : Type} : Table α → Nat → Bool
  | [], _ => false
  | (j, _) :: t, k => j == k || thas t k

/-- The keys are strictly rising and all at or above `lo`. -/
def tsorted {α : Type} : Nat → Table α → Bool
  | _, [] => true
  | lo, (j, _) :: t => decide (lo ≤ j) && tsorted (j + 1) t

/-- A set of numbers held as a strictly rising list. -/
abbrev NatSet := List Nat

/-- The set with `k`. -/
def ninsert : NatSet → Nat → NatSet
  | [], k => [k]
  | j :: t, k => if k < j then k :: j :: t else if k = j then j :: t else j :: ninsert t k

/-- The set without `k`. -/
def nerase : NatSet → Nat → NatSet
  | [], _ => []
  | j :: t, k => if k = j then t else j :: nerase t k

/-- The set is strictly rising from `lo`. -/
def nsorted : Nat → NatSet → Bool
  | _, [] => true
  | lo, j :: t => decide (lo ≤ j) && nsorted (j + 1) t

/-- `[f lo, …, f (lo + n - 1)]`. -/
def tab {α : Type} (f : Nat → α) : Nat → Nat → List α
  | _, 0 => []
  | lo, n + 1 => f lo :: tab f (lo + 1) n

/-- Element `i` of a list, or `d`. -/
def nth {α : Type} (d : α) : List α → Nat → α
  | [], _ => d
  | x :: _, 0 => x
  | _ :: t, i + 1 => nth d t i

/-- The list with element `i` replaced, unchanged when it has no such element. -/
def setNth {α : Type} : List α → Nat → α → List α
  | [], _, _ => []
  | _ :: t, 0, y => y :: t
  | x :: t, i + 1, y => x :: setNth t i y

/-- The first element with its index that `p` accepts. -/
def findIdx {α : Type} (p : α → Bool) : List α → Nat → Option (Nat × α)
  | [], _ => none
  | x :: t, i => if p x then some (i, x) else findIdx p t (i + 1)

end Sys2Proof.Machine
end

