-- ==== Sys2Proof/Machine/Bits.lean ====
section
/-! DEFINITION. Bit fields, extensions, byte order and vector elements: the helpers every meaning is written with. -/

namespace Sys2Proof.Machine

/-- Bits `lo + n - 1 : lo` of a number. -/
def bits (x lo n : Nat) : Nat := x / 2 ^ lo % 2 ^ n

/-- Bit `k` of a number. -/
def bit (x k : Nat) : Bool := x / 2 ^ k % 2 == 1

/-- The number with bits `lo + n - 1 : lo` replaced by the low bits of `v`. -/
def setBits (x lo n v : Nat) : Nat := x - bits x lo n * 2 ^ lo + v % 2 ^ n * 2 ^ lo

/-- Field `lo + n - 1 : lo` of a bit vector, as a number. -/
def fld {w : Nat} (x : BitVec w) (lo n : Nat) : Nat := bits x.toNat lo n

/-- Bit `k` of a bit vector, as a number. -/
def b2n (b : Bool) : Nat := if b then 1 else 0

/-- A truth value as a doubleword. -/
def boolW (b : Bool) : Word := if b then 1 else 0

/-- The doubleword with value `n` modulo 2^64. -/
def wn (n : Nat) : Word := BitVec.ofNat 64 n

/-- The doubleword with value `n` modulo 2^64, for a signed `n`. -/
def wi (n : Int) : Word := BitVec.ofInt 64 n

/-- The two's-complement reading of the low `w` bits of a number. -/
def sxt (w x : Nat) : Int := if x % 2 ^ w < 2 ^ (w - 1) then Int.ofNat (x % 2 ^ w) else Int.ofNat (x % 2 ^ w) - 2 ^ w

/-- `x` confined to `[lo, hi]`. -/
def clampI (lo hi x : Int) : Int := if x < lo then lo else if hi < x then hi else x

/-- The low `w` bits of a signed number. -/
def lowBits (w : Nat) (x : Int) : Nat := (x % (2 : Int) ^ w).toNat

/-- The number whose little-endian bytes are given (03 Encoding examples). -/
def ofBytes : List Byte → Nat
  | [] => 0
  | b :: t => b.toNat + 256 * ofBytes t

/-- The `n` little-endian bytes of a number. -/
def toBytes : Nat → Nat → List Byte
  | 0, _ => []
  | n + 1, v => BitVec.ofNat 8 v :: toBytes n (v / 256)

/-- How many one bits the low `n` bits of a number hold. -/
def popcount : Nat → Nat → Nat
  | 0, _ => 0
  | n + 1, v => v % 2 + popcount n (v / 2)

/-- The number of trailing zero bits, at most `n`. -/
def trailing : Nat → Nat → Nat
  | 0, _ => 0
  | n + 1, v => if v % 2 = 1 then 0 else 1 + trailing n (v / 2)

/-- The low `n` bits of a number in the opposite order. -/
def reverseBits : Nat → Nat → Nat
  | 0, _ => 0
  | n + 1, v => v % 2 * 2 ^ n + reverseBits n (v / 2)

/-- The floor of the square root of `n`, which is below `2 ^ (2 * k)`; `r` is what is known of it. -/
def isqrt (n : Nat) : Nat → Nat → Nat
  | 0, r => r
  | k + 1, r => if (r + 2 ^ k) * (r + 2 ^ k) ≤ n then isqrt n k (r + 2 ^ k) else isqrt n k r

/-! ### Vector registers (05 R98) -/

/-- Element `k` of `w` bits. -/
def elem (w : Nat) (v : VWord) (k : Nat) : Nat := bits v.toNat (w * k) w

/-- The number whose `w`-bit digits are given, the first lowest. -/
def ofDigits (w : Nat) : List Nat → Nat
  | [] => 0
  | x :: t => x % 2 ^ w + 2 ^ w * ofDigits w t

/-- The vector whose `w`-bit elements are given, element 0 first. -/
def ofElems (w : Nat) (l : List Nat) : VWord := BitVec.ofNat 2048 (ofDigits w l)

/-- How many elements of `w` bits a vector register holds. -/
def lanes (w : Nat) : Nat := 2048 / w

/-- The vector whose element `k` of `w` bits is `f k`. -/
def vtab (w : Nat) (f : Nat → Nat) : VWord := ofElems w (tab f 0 (lanes w))

/-- The vector with element `k` of `w` bits replaced. -/
def setElem (w : Nat) (v : VWord) (k x : Nat) : VWord := BitVec.ofNat 2048 (setBits v.toNat (w * k) w x)

/-- Whether the predicate activates element `k` of `w` bits (R98): the bit of the element's first byte. -/
def active (p : PWord) (w k : Nat) : Bool := p.getLsbD (k * w / 8)

/-- The width of an element code E (R101). -/
def widthE (e : Nat) : Nat := match e with | 0 | 3 => 32 | 1 | 4 | 5 => 16 | _ => 8

/-- The width of a width code W (R101). -/
def widthW (w : Nat) : Nat := match w with | 0 => 8 | 1 => 16 | 2 => 32 | _ => 64

/-- The predicate whose bits are those of `f` for each `w`-bit element, spread over the element's bytes (R106). -/
def ofActive (w : Nat) (f : Nat → Bool) : PWord :=
  BitVec.ofNat 256 (ofDigits (w / 8) (tab (fun k => if f k then 2 ^ (w / 8) - 1 else 0) 0 (lanes w)))

end Sys2Proof.Machine
end

