-- ==== Sys2Proof/Config.lean ====
section
/-! DEFINITION. What an implementation of the Linura K9 fixes and the manual leaves open: the free values of the
model. Each is an opaque constant, so nothing in Lean can evaluate it or prove a value of it; a statement about a
free value holds for every value. Most are applied to the model's own counter `State.fresh` (log entry 2). -/

namespace Sys2Proof.Config

/-- The code that an ADC digitises for one output, within the promise of 02_formats R43 (12_anvil_queue R258): analog, not
reproducible. -/
opaque adcCode : Nat → BitVec 10
/-- RIDX, RMAX and RRES of a pass with a row residual that is no number (02_formats R41, R44). -/
opaque nanSummary : Nat → BitVec 54
/-- Effective bits that a probe set measures, in 1/16 bit (12_anvil_queue R263). -/
opaque probeEnob : Nat → BitVec 8
/-- RMS phase error that a probe set measures, in θ codes (12_anvil_queue R263). -/
opaque probePherr : Nat → BitVec 16
/-- Trim codes after boot calibration, per forge and MZI (06_special_registers R127). -/
opaque bootTrim : Nat → Nat → BitVec 16
/-- ADC gain and offset entries after boot calibration, per forge and ADC (06_special_registers R127). -/
opaque bootAdc : Nat → Nat → BitVec 32
/-- Trim code that the temper loop leaves in an MZI (12_anvil_queue R264). -/
opaque temperTrim : Nat → Nat → BitVec 16
/-- Table entry that the ADC threshold loop leaves for an ADC (12_anvil_queue R264). -/
opaque thresholdAdc : Nat → Nat → BitVec 32
/-- Billet exponent that the swage procedure takes for a tile of FP32 elements in row order, where 02_formats R413 leaves it
two values. -/
opaque swageExponent : List (BitVec 32) → Int
/-- Attenuator code `k` of a tile's billet, where 02_formats R413 leaves its rounding to the procedure. -/
opaque swageAttenuator : List (BitVec 32) → Nat → BitVec 16
/-- θ code of an MZI of a tile's billet: stage (0 V, 1 U) and MZI index (02_formats R50, R51, R413). -/
opaque swageTheta : List (BitVec 32) → Nat → Nat → BitVec 16
/-- Whether an MZI of a tile's billet holds φ = π (02_formats R50, R413). -/
opaque swagePhi : List (BitVec 32) → Nat → Nat → Bool
/-- The signature bits, below 1,024, that a canonical line address sets (08_consistency R172). -/
opaque signatureBits : Nat → List (Fin 1024)
/-- The L2 way, below 16, that a filled line takes (07_memories R149, R150). -/
opaque l2Way : Nat → Nat → Fin 16
/-- The set of an L2 that a line lies in, and of a hearth part (07_memories R142). -/
opaque l2Set : Nat → Fin 512
opaque hearthSet : Nat → Fin 2048
/-- The bank of its pseudo-channel that an HBM line lies in (10_memory_integrity R207, R208). -/
opaque bankOf : Nat → Fin 16
/-- Whether a frame without an error came between two errors of a vertical-bus group (10_memory_integrity R210). -/
opaque goodFrame : Nat → Bool
/-- Which line a full cache, or a full set of one, gives up (07_memories R142). -/
opaque cacheVictim : Nat → Nat
/-- Reference-clock cycles that pass with one step of the model, less one (16_counters R347). -/
opaque elapsed : Nat → Nat
/-- Supply voltage that the voltage loop applies to an island: the number of 5 mV units above 0.55 V, up to 1.05 V
(17_outside R378). -/
opaque supplyVoltage : Nat → Fin 101
/-- A byte held by another package's memory when this one reads it (13_translation_tables R281). -/
opaque peerByte : Nat → Byte
/-- The hash that picks the Atfin port of an address among the ports that are up (17_outside R372). -/
opaque atfinHash : Nat → Nat
/-- Byte `i` of the signature of a quote (17_outside R375). -/
opaque quoteByte : Nat → Nat → Byte
/-- The SHA3-256 digests of the part's boot ROM and of its certificate in board flash (17_outside R375). -/
opaque romDigest : BitVec 256
opaque certDigest : BitVec 256
/-- The digest of the public key that a part is fused to, and its fused security version (17_outside R374). -/
opaque fusedKey : BitVec 256
opaque fusedSvn : BitVec 8
/-- What the staging area's doublewords hold as an image, by the format of 17_outside R374, which gives its fields no offsets (17_outside
R376). -/
opaque stagedImage : List (Nat × BitVec 64) → ImageHeader
/-- Degrees above 110 °C of the junction that trips (17_outside R381). -/
opaque tripTemp : Nat → Fin 146
/-- Byte of the board flash that the sideband serves (17_outside R383). -/
opaque flashByte : Nat → Byte
/-- A byte that the host or a peer package gets from a poisoned line (17_outside R364). -/
opaque poisonedByte : Nat → Byte
/-- How much a monitoring counter of cycles, misses, waits or link requests moves with a step (16_counters R360). -/
opaque pmcCount : Nat → Nat

end Sys2Proof.Config
end

