-- ==== Sys2Proof/Machine/State.lean ====
section
/-! DEFINITION. The state of one Linura K9 package as plain data: the cores, forges, dies and homes, the package's own
registers, what is in flight between them, and the model's own schedule, which says whose turn is next. -/

namespace Sys2Proof.Machine

/-- Why the machine stops with a fault. The manual turns every error into a next state (a freeze, a kill, a
completion status), so no fault of the manual stops the machine as a whole: the one reason below stands for an
agent that does not exist. -/
inductive Fault where
  /-- Raised by `step` when the schedule names an agent number above 519, which R14 gives to no agent. Safe. -/
  | noSuchAgent
  deriving DecidableEq, Repr

/-- Why a step has no meaning. -/
inductive Refusal where
  /-- Raised by an arm of `exec` whose instruction has no meaning yet. Safe: nothing is claimed of it. -/
  | notModelled (mnemonic : String)
  deriving DecidableEq, Repr

/-! ### A core -/

/-- The registers that a chunk checkpoint holds (04 R76, 05 R97, 08 R170; FRM and FFLAGS by 06 R139 class C). -/
structure Regs where
  /-- program counter (R76) -/
  pc : Word
  /-- s0–s31; s0 reads 0 through `Core.readS` (R76) -/
  s : Vector Word 32
  /-- poison bits of s0–s31; bit 0 never set (R76) -/
  sPoison : BitVec 32
  /-- v0–v31 (R97) -/
  v : Vector VWord 32
  vPoison : BitVec 32
  /-- p0–p7; p0 reads all ones through `Core.readP` (R97) -/
  p : Vector PWord 8
  pPoison : BitVec 8
  /-- k0–k3 (R97) -/
  k : Vector Word 4
  kPoison : BitVec 4
  /-- FRM[1:0] (R27) -/
  frm : BitVec 2
  /-- FFLAGS[4:0]: NX UF OF DZ NV (R27) -/
  fflags : BitVec 5
  deriving DecidableEq, Repr

/-- Every register 0, which is also what a fresh dispatch sets (04 R77, 05 R99). -/
def Regs.zero : Regs :=
  { pc := 0, s := Vector.replicate 32 0, sPoison := 0, v := Vector.replicate 32 0, vPoison := 0,
    p := Vector.replicate 8 0, pPoison := 0, k := Vector.replicate 4 0, kPoison := 0, frm := 0, fflags := 0 }

/-- A context: ASID, translation root, view-table base and heap triple (13 R271). -/
structure Ctx where
  asid   : BitVec 9
  troot  : Word
  vtbase : Word
  heapb  : Word
  heapl  : Word
  heapo  : Word
  deriving DecidableEq, Repr

/-- No context loaded. -/
def Ctx.zero : Ctx := { asid := 0, troot := 0, vtbase := 0, heapb := 0, heapl := 0, heapo := 0 }

/-- The cacheability of a translated access (13 R274); `sram` is scratchpad or an L2 scratch way, `peer` another
package's memory. -/
inductive Cacheability where
  | wb | wt | uc | mmio | sram | peer
  deriving DecidableEq, Repr

/-- What is known of a written line: its cacheability, whether a leaf with HOT mapped it (13 R295), and whether it came by the heap
or by a translation without the in-motion flag, which the rules for pages in motion do not cover (13 R272, R290). -/
structure LineAttr where
  cache : Cacheability
  hot   : Bool
  heap  : Bool
  deriving DecidableEq, Repr

/-- What takes effect at the commit of the chunk that holds it (11 R224, R226, 16 R350). -/
inductive Deferred where
  | qpush (q : BitVec 4) (w : Word)
  | qflush (q : BitVec 4)
  | cntadd (n : BitVec 4) (v : Word)
  deriving DecidableEq, Repr

/-- What a core waits for, with what its instruction has already done. -/
inductive Wait where
  /-- a pending token register (04 R79) -/
  | token
  /-- a pending scoreboard entry (04 R79, 03 R57) -/
  | scoreboard
  /-- LDS: the word at this storage address to be full (07 R160) -/
  | ldsFull (word : Nat)
  /-- LDSE: in the queue of waiters of the word (07 R161) -/
  | feFull (word : Nat)
  /-- STF: in the queue of waiters of the word, with its value (07 R161) -/
  | feEmpty (word : Nat) (v : Word)
  /-- a queue with room (11 R219, R224, 15 R342) -/
  | queueRoom
  /-- a completion word (11 R223) -/
  | queueWord
  /-- a link transfer (06 R125) -/
  | link
  /-- a barrier phase other than this one; `arrived` tells an ARRW whose arrival has left (16 R355) -/
  | barrier (phase : BitVec 8) (arrived : Bool)
  /-- an event count or a mutex (16 R357) -/
  | event
  /-- a message counter (16 R350) -/
  | counter
  /-- room for this TCW, which has been read, and then a token register that is not pending (11 R219) -/
  | sending (t : Tcw)
  /-- a free WTT entry for the image of these words, which has been read (14 R306) -/
  | entry (words : List Word)
  /-- the other cores of a GANG mask (14 R314) -/
  | gang (mask : BitVec 8)
  /-- the core's commands to end (MDRAIN 12 R265, TKEXIT 14 R311, CRCLOSE 15 R337) -/
  | commands
  /-- an atomic request, or the switches' answers (09 R197, 08 R177) -/
  | switch
  /-- the delivery of a redirected reduction (09 R195, R197) -/
  | delivery
  /-- room in a supervisor command port (11 R235) -/
  | port
  /-- restored from an image with WAIT: the instruction at the PC has sent its arrival, if it is one that does (14 R324) -/
  | resumed
  /-- released with this value, by a signal from another die or not; the instruction ends at its core's next turn (16 R357,
  07 R161) -/
  | granted (v : Word) (remote : Bool)
  deriving DecidableEq, Repr

/-- What a core is doing (15 R333). -/
inductive Status where
  /-- no task bound -/
  | idle
  | running
  /-- frozen by a packet of this class (15 R331) -/
  | frozen (cls : BitVec 8)
  /-- halted by HALT -/
  | halted
  /-- a supervisor parked by SVC or HALT (15 R336) -/
  | parked
  /-- a data translation fault met, its page not yet posted (13 R284): VA, TYPE -/
  | faulted (va : Word) (type : BitVec 4)
  deriving DecidableEq, Repr

/-- A wait in which the instruction has done what must not be done twice: a freeze leaves it. -/
def Wait.kept : Wait → Bool
  | .granted _ _ | .barrier _ true => true
  | _ => false

/-- A retry record (15 R339): its eight words, V and BUSY included. -/
abbrev RetryRecord := Vector Word 8

/-- One inbound link slot (06 R124). -/
structure LinkSlot where
  value  : Word
  full   : Bool
  poison : Bool
  deriving DecidableEq, Repr

/-- An empty slot. -/
def LinkSlot.empty : LinkSlot := { value := 0, full := false, poison := false }

/-- The register a scoreboard entry writes (15 R334). -/
inductive RegFile where
  | s | v | p | k
  deriving DecidableEq, Repr

/-- A register by file and number. -/
structure RegName where
  file : RegFile
  num  : BitVec 5
  deriving DecidableEq, Repr

/-- A core's run-ahead (13 R284): the checkpoint, the registers whose value is unknown, and what ends it. -/
structure Ahead where
  start   : Regs
  tok     : BitVec 32
  unknown : List RegName
  /-- instructions executed -/
  count   : Nat
  /-- distinct faulting pages: ASID · 2^36 + VPN, the first fault's included -/
  pages   : NatSet
  va      : Word
  type    : BitVec 4
  ended   : Bool
  deriving DecidableEq, Repr

/-- A scoreboard entry (04 R79, 15 R334). `captured` holds every register as it stood at issue, from which the
captured operands of R334 are read. -/
structure SbEntry where
  word     : IWord
  pc       : Word
  dests    : List RegName
  captured : Regs
  /-- registers the instruction reads, for SRCCLOB (03 R55) -/
  sources  : List RegName
  /-- how many younger instructions may still issue before it completes (03 R55) -/
  left     : Nat
  /-- it accesses memory (08 R174) -/
  mem      : Bool
  /-- what it will write: scalar, checksum or predicate result, and up to two vector results -/
  result   : BitVec 256
  vresult0 : VWord
  vresult1 : VWord
  /-- the flags it raises, and the poison it gives its destinations -/
  flags    : BitVec 5
  poisons  : Bool
  srcClob  : Bool
  faulted  : Bool
  settle   : BitVec 2
  faddr    : Word
  /-- issue order -/
  order    : Nat
  /-- its access is still to be performed: it completes by being executed from its captured registers (08 R175) -/
  redo     : Bool
  /-- completing: it is executed at its core's next turn (04 R79); also how RESUME leaves an entry that it settles COMPLETE
  with its access to perform, or REISSUE (15 R335) -/
  completing : Bool
  /-- what the instruction waits for, with what it has already done (07 R412) -/
  waits    : Option Wait
  deriving DecidableEq, Repr

/-- An entry of the lookahead store buffer (08 R174, 15 R333): a store by its place in the issue order. -/
structure BufStore where
  order : Nat
  va    : Word
  size  : Nat
  cells : List (Nat × Byte)
  lines : Table LineAttr
  whole : NatSet
  /-- view blocks written, as `Chunk.blocks` -/
  blocks : Table (BitVec 2)
  /-- the lines of the scaled group that it is part of, if any (R184) -/
  group : NatSet
  deriving DecidableEq, Repr

/-- A chunk of a core (08 R169, R170). Lines are storage addresses divided by 128. -/
structure Chunk where
  /-- the checkpoint -/
  start     : Regs
  /-- TOKPEND at the chunk's start (04 R80) -/
  tokStart  : BitVec 32
  /-- the lookahead store buffer and the entries still pending at the chunk's start, which is not so but behind a RESUME
  (R170, R175, 15 R335) -/
  startBuf  : List BufStore
  startSb   : List SbEntry
  /-- instructions its core had issued in its gang (14 R313) -/
  issuedAt  : Nat
  /-- instructions issued (R169) -/
  instrs    : Nat
  /-- canonical lines read -/
  reads     : NatSet
  /-- uncommitted bytes by storage address: L1 dirty bytes, and the scratch write buffer (R155) -/
  bytes     : Table Byte
  /-- each written line -/
  lines     : Table LineAttr
  /-- storage units written whole in one access, which clears their poison (07 R156) -/
  whole     : NatSet
  /-- view blocks written, with the layout they were written through: 0 ROW, 1 COL, 2 TILE, 3 canonical (R169) -/
  blocks    : Table (BitVec 2)
  /-- translations the chunk used, each as the TLB entry that gave it, by `useKey` (13 R278) -/
  pages     : NatSet
  /-- effects waiting for the commit -/
  deferred  : List Deferred
  /-- words popped from q1, q3, q5, q7 and held aside (11 R223) -/
  held      : Vector Nat 4
  /-- the chunk follows a REL at pkg scope or wider (R178) -/
  release   : Bool
  /-- scaled groups written: each a list of storage lines sent as one transaction (R184) -/
  groups    : List NatSet
  /-- TKCANCELs executed behind the chunk and before the next: PC, handle and status (14 R307) -/
  cancels   : List (Word × Nat × Nat)
  deriving DecidableEq, Repr

/-- A line held by an L1 or an L2 (07 R142): which of its bytes it holds, which of them are dirty, poison; whether the
access that filled it counts for hotness (13 R295). Address views are served from the canonical lines (07 R165, R166). -/
structure CacheLine where
  line   : Nat
  data   : BitVec 1024
  valid  : BitVec 128
  dirty  : BitVec 128
  poison : Bool
  /-- dirty bytes of it have failed beyond correction: its home is poisoned at write-back (10 R201) -/
  bad    : Bool
  hot    : Bool
  heap   : Bool
  /-- the L2 way that holds it; 0 in L1 -/
  way    : BitVec 4
  deriving DecidableEq, Repr

/-- A TLB entry (13 R276, R277): one leaf translation, or that of a group of sixteen. `size` is 0 for 4 KiB, 1 for a 64 KiB group,
2 for 2 MiB, 3 for a 32 MiB group, 4 for 1 GiB. -/
structure TlbEntry where
  asid     : BitVec 9
  /-- VA[47:12] of the first page -/
  vpn      : Nat
  size     : Nat
  /-- the leaf that maps `vpn` -/
  leaf     : Word
  inMotion : Bool
  deriving DecidableEq, Repr

/-- A command in a queue or a slot, with what was captured at its sending (11 R218). -/
structure Cmd where
  tcw    : Tcw
  core   : Nat
  ctx    : Ctx
  /-- token register, 0 for none -/
  token  : BitVec 5
  /-- the model's own number of the command, for "every command that was sent before" -/
  id     : Nat
  /-- the retry record that its start allocated, or that a TRETRY gave it (12 R261, 15 R342) -/
  record : Option (BitVec 4)
  /-- a containment unwind has overtaken it: its results are poisoned (11 R240, 12 R267) -/
  unwound : Bool
  /-- the view table as its first view decoding read it (13 R282) -/
  views  : Option (List (Vector Word 4)) := none
  deriving DecidableEq, Repr

/-- A completion queue (11 R215, R223, R224). -/
structure CplQueue where
  words    : List Word
  /-- words at the head popped by chunks not yet committed -/
  held     : Nat
  /-- entries reserved by QPUSH -/
  reserved : Nat
  deriving DecidableEq, Repr

/-- An empty completion queue. -/
def CplQueue.empty : CplQueue := { words := [], held := 0, reserved := 0 }

/-- The states of a WTT entry (14 R300). -/
inductive WttState where
  | free | waiting | eligible | running | preempted | cancelled
  deriving DecidableEq, Repr

/-- An instruction that a gang leader has issued (14 R313): its PC, whether it jumped, and whether it is an atomic (09 R197). -/
structure TrailStep where
  pc     : Word
  jumped : Bool
  atomic : Bool
  deriving DecidableEq, Repr

/-- A core's part in a gang (14 R313, R315). -/
structure GangInfo where
  mask   : BitVec 8
  /-- forge slot of the leader -/
  lslot  : BitVec 3
  pos    : BitVec 3
  /-- instructions of the gang that this member has issued -/
  issued : Nat
  /-- fused by GANG while running, not dispatched as a gang (14 R324) -/
  runtime : Bool
  /-- the leader is still a member; without it each member issues on from its own PC -/
  led : Bool
  deriving DecidableEq, Repr

/-- What a save keeps with its entry beside the image (14 R322, R324): the unstarted commands with the contexts they captured,
what the core waited for, and the place of a member of a gang that was still fused, with what its leader had issued. -/
structure Kept where
  saved : Bool
  cmds  : List Cmd
  wait  : Option Wait
  gang  : Option GangInfo
  trail : List TrailStep
  deriving DecidableEq, Repr

/-- Nothing kept. -/
def Kept.none : Kept := { saved := false, cmds := [], wait := Option.none, gang := Option.none, trail := [] }

/-- A save under way (14 R322). -/
structure SaveJob where
  /-- 0 PREHINT or TKYIELD, 1 forced, 2 frozen -/
  kind  : BitVec 2
  /-- the instruction that an access fault of the save names -/
  pc    : Word
  /-- begun by a TKYIELD -/
  yield : Bool
  /-- the save commands that end with it -/
  cmds  : List Cmd
  deriving DecidableEq, Repr

/-- A WTT entry (14 R298, R300). -/
structure WttEntry where
  /-- words 0–6 -/
  image : Vector Word 7
  state : WttState
  eprio : BitVec 3
  rsv   : Bool
  gen   : BitVec 8
  age   : BitVec 8
  /-- when the entry entered ELIGIBLE or PREEMPTED, in the model's own order -/
  since : Nat
  /-- when the entry asked for its forge's gang reservation (14 R318) -/
  asked : Option Nat
  kept  : List Kept
  deriving DecidableEq, Repr

/-- A free entry. -/
def WttEntry.empty : WttEntry :=
  { image := Vector.replicate 7 0, state := .free, eprio := 0, rsv := false, gen := 0, age := 0, since := 0, asked := none,
    kept := [] }

/-- A barrier word (16 R353). -/
structure Barrier where
  wph     : BitVec 8
  phase   : BitVec 8
  arrived : Bool
  scope   : BitVec 3
  arr     : BitVec 20
  target  : BitVec 20
  deriving DecidableEq, Repr

/-- A barrier at reset. -/
def Barrier.zero : Barrier := { wph := 0, phase := 0, arrived := false, scope := 0, arr := 0, target := 0 }

/-- A fault or notice packet: eight words (15 R330). -/
abbrev Packet := Vector Word 8

/-- What reserves a core (14 R305, R318). -/
inductive Reservation where
  /-- the gang task of this leader core and entry -/
  | gang (leader entry : Nat)
  /-- a co-start team -/
  | team (team : Nat)
  /-- the forge's in-field test (15 R344) -/
  | test
  deriving DecidableEq, Repr

/-- The state of a compute core, or of a supervisor core, which leaves much of it unused. -/
structure Core where
  regs     : Regs
  /-- TOKPEND (04 R76) -/
  tokpend  : BitVec 32
  status   : Status
  wait     : Option Wait
  /-- the open chunk, if its first instruction has issued (08 R169) -/
  chunk    : Option Chunk
  /-- chunks closed and not yet granted, oldest first (08 R171) -/
  closed   : List Chunk
  /-- single-access mode (08 R173), with the instructions and lines of the chunk it replaces -/
  sam      : Bool
  samCount : Nat
  samLines : NatSet
  /-- view blocks written in single-access mode, as `Chunk.blocks` (R169) -/
  samBlocks : Table (BitVec 2)
  /-- run-ahead in progress (13 R284) -/
  ahead    : Option Ahead
  /-- checkpoint PC of the latest squash and how often in a row (08 R173) -/
  squashPc : Word
  squashes : BitVec 2
  /-- the next chunk follows a REL at pkg or wider (08 R178) -/
  nextRelease : Bool
  scoreboard  : List SbEntry
  storeBuf    : List BufStore
  /-- TKCANCELs that a squash is to execute again, in order, with their first statuses (14 R307) -/
  replays  : List (Word × Nat × Nat)
  l1       : List CacheLine
  l2       : List CacheLine
  tlb      : List TlbEntry
  /-- the view table the core holds: 64 entries of four words (13 R282) -/
  views    : Option (List (Vector Word 4))
  ctx      : Ctx
  /-- LSPLIT.L1SZ (07 R146) -/
  l1sz     : BitVec 4
  /-- L2SCR.HELD and SCR (07 R151) -/
  l2held   : BitVec 16
  l2scr    : BitVec 16
  /-- inbound link slots W, E, N, S (06 R124) -/
  links    : Vector LinkSlot 4
  /-- ANVCVSEL[6:0] (06 R130) -/
  cvsel    : BitVec 7
  /-- ANVINJ (06 R134) -/
  anvinj   : Word
  /-- SKX (06 R137) -/
  skx      : BitVec 10
  /-- command queues q0, q2, q4, q6 (11 R215) -/
  q0       : List Cmd
  q2       : List Cmd
  q4       : List Cmd
  q6       : List Cmd
  /-- completion queues q1, q3, q5, q7 -/
  cpl      : Vector CplQueue 4
  /-- commands removed before their start whose words wait for room: command, completion code (11 R222, R226) -/
  ending   : List (Cmd × Word)
  /-- retry records 0–15 (15 R339) -/
  records  : Vector RetryRecord 16
  wtt      : Vector WttEntry 32
  /-- the bound entry: the core that holds it, and its index (14 R297) -/
  bound    : Option (Nat × Nat)
  runPrio  : BitVec 3
  /-- liveness map and ranges latched by PREHINT (14 R319) -/
  liveMap  : Word
  ranges   : Vector (BitVec 32) 4
  reserved : Option Reservation
  /-- PREREQ.SUPV and OVERDUE (14 R315) -/
  supv     : Bool
  overdue  : Bool
  /-- SVCTX commands of mode 1 that wait for a chunk boundary (14 R321); a gang member forced with another has none of its
  own -/
  force    : List Cmd
  forced   : Bool
  /-- a save under way (14 R322) -/
  save     : Option SaveJob
  preBudget : BitVec 32
  gang     : Option GangInfo
  /-- the translation that the fetch of the present instruction used, as `Chunk.pages` (13 R278) -/
  fetched  : NatSet
  /-- what a gang leader has issued, oldest first (14 R313) -/
  trail    : List TrailStep
  /-- MC0–MC15 (16 R348) -/
  mc       : Vector (BitVec 32) 16
  /-- b0–b31 (16 R353) -/
  bars     : Vector Barrier 32
  instret  : Word
  chkcmt   : Word
  chksq    : Word
  pmc      : Vector Word 32
  /-- PMSEL0–31, bits [8:0] (16 R360) -/
  pmsel    : Vector (BitVec 9) 32
  crdepth  : BitVec 3
  crh      : Vector Word 4
  crsyn    : Word
  /-- a containment unwind that waits for started commands, with its syndrome (15 R338) -/
  unwinding : Option Word
  /-- a freezing packet that found no room, with its place in the order of raises (15 R332) -/
  heldPacket : Option (Nat × Packet)
  deriving DecidableEq, Repr

/-- A core at reset (04 R76, 05 R97, 06, 07, 11, 14, 15, 16: the inventories). -/
def Core.reset : Core :=
  { regs := Regs.zero, tokpend := 0, status := .idle, wait := none, chunk := none, closed := [], sam := false,
    samCount := 0, samLines := [], samBlocks := [], ahead := none, squashPc := 0, squashes := 0, nextRelease := false, scoreboard := [], storeBuf := [], replays := [], l1 := [], l2 := [], tlb := [],
    views := none, ctx := Ctx.zero, l1sz := 4, l2held := 0, l2scr := 0, links := Vector.replicate 4 LinkSlot.empty,
    cvsel := 0, anvinj := 0, skx := 512, q0 := [], q2 := [], q4 := [], q6 := [],
    cpl := Vector.replicate 4 CplQueue.empty, ending := [], records := Vector.replicate 16 (Vector.replicate 8 0),
    wtt := Vector.replicate 32 WttEntry.empty, bound := none, runPrio := 0, liveMap := 0,
    ranges := Vector.replicate 4 0, reserved := none, supv := false, overdue := false, force := [], forced := false, save := none,
    preBudget := 0x10000, gang := none, fetched := [], trail := [], mc := Vector.replicate 16 0,
    bars := Vector.replicate 32 Barrier.zero, instret := 0, chkcmt := 0, chksq := 0,
    pmc := Vector.replicate 32 0, pmsel := Vector.replicate 32 0, crdepth := 0, crh := Vector.replicate 4 0, crsyn := 0,
    unwinding := none, heldPacket := none }

/-! ### A forge and its anvil -/

/-- A phase bank (06 R127): the billet image and what is read out of it. -/
structure Bank where
  valid : Bool
  id    : BitVec 16
  ew    : BitVec 8
  /-- check vector c_0–c_63, FP32 -/
  c     : Vector (BitVec 32) 64
  /-- the 18,432 bytes of the image -/
  image : BitVec 147456
  /-- where it was loaded from, which a hand-off records in the next forge's directory (12 R249, R253) -/
  va    : BitVec 48
  ctx   : Ctx
  deriving DecidableEq, Repr

/-- An invalid bank: id and E_w read 0 (06 R129). -/
def Bank.invalid : Bank := { valid := false, id := 0, ew := 0, c := Vector.replicate 64 0, image := 0, va := 0, ctx := Ctx.zero }

/-- A billet directory entry (12 R253). -/
structure DirEntry where
  valid : Bool
  ctx   : Ctx
  va    : BitVec 48
  age   : BitVec 8
  id    : BitVec 16
  deriving DecidableEq, Repr

/-- An unused directory entry. -/
def DirEntry.empty : DirEntry := { valid := false, ctx := Ctx.zero, va := 0, age := 0, id := 0 }

/-- How far a started anvil command has come. -/
inductive AnvilStage where
  /-- started by the arbiter, not begun -/
  | started
  /-- its block is staged and it waits for symbol 0 (12 R243) -/
  | staged
  deriving DecidableEq, Repr

/-- An entry of the anvil's execution list (12 R242). -/
structure AnvilCmd where
  cmd      : Cmd
  stage    : AnvilStage
  /-- started by the arbiter itself: an implicit reload of this directory entry (12 R253) -/
  reload   : Option Nat
  /-- the staged A block: 64·B bytes in order, and the vectors whose words were poisoned (12 R243, R260) -/
  block    : List Byte
  poisoned : NatSet
  deriving DecidableEq, Repr

/-- A billet on its way into a shadow bank (12 R247, R249). -/
structure Transfer where
  bank : Bank
  /-- the MLOADB that ends with the transfer -/
  cmd  : Option Cmd
  /-- completion code: 0, or the failure it ends with (12 R247) -/
  code : Word
  /-- the directory entry of an implicit reload -/
  reload : Option Nat
  deriving DecidableEq, Repr

/-- A pass whose symbols have been driven and digitised, waiting for its drain (12 R257–R260). -/
structure PassResult where
  cmd      : Cmd
  /-- MCOLSUM rather than MAPPLY -/
  colsum   : Bool
  nvec     : Nat
  /-- the int8 mantissas given to the anvil, 64·B in vector order, −128 still as read -/
  block    : List Byte
  poisoned : NatSet
  /-- digitised codes: output i of vector j at 64·j + i, the check symbol as vector B -/
  codes    : List (BitVec 10)
  /-- ADC tables and latches of symbol 0 (R257) -/
  adc      : List (BitVec 32)
  tol      : Word
  gain     : BitVec 4
  /-- latched E_a + E_w, or SKX; `none` for an invalid block -/
  esum     : Option Int
  ew       : BitVec 8
  c        : Vector (BitVec 32) 64
  inj      : Word
  deb      : BitVec 8
  stale    : Bool
  fast     : Bool
  quench   : Bool
  billet   : BitVec 16
  seq      : BitVec 32
  /-- rows of the result block that the drain has written (12 R259) -/
  written  : Nat
  deriving DecidableEq, Repr

/-- A word of a holding buffer (12 R244, R266), with the command that ends when it enters q1 and its code; a word that a
restore put there has none. -/
structure HeldWord where
  word : Word
  ends : Option (Cmd × Word)
  /-- the retry record of the command is released at its end (12 R261) -/
  drop : Bool
  /-- ABFT_MISMATCH with this DETAIL freezes the issuing core once the command has ended (12 R261) -/
  freeze : Option Nat
  deriving DecidableEq, Repr

/-- The stages of a probe set (12 R263). -/
inductive ProbeStage where
  | none
  /-- probe symbols driven, reference work running; the rate in which it ran, and the MPROBE that asked -/
  | reference (fast : Bool) (asked : Option Cmd)
  /-- reference work done, the update waits for a pass boundary: ENOB and PHERR -/
  | update (fast : Bool) (asked : Option Cmd) (enob : BitVec 8) (pherr : BitVec 16)
  deriving DecidableEq, Repr

/-- A batch boundary not yet completed (06 R136): its number and the commands of its before set. -/
structure Boundary where
  seq    : BitVec 32
  before : NatSet
  deriving DecidableEq, Repr

/-- The state of a forge (06, 12, 14, 15, 16). -/
structure Forge where
  active   : Bank
  shadow   : Bank
  transfer : Option Transfer
  /-- trim codes that differ from the boot calibration, and the pending copy (06 R127) -/
  trim     : Table (BitVec 16)
  trimPend : Table (BitVec 16)
  adc      : Table (BitVec 32)
  adcPend  : Table (BitVec 32)
  /-- ANVMODE (06 R128) -/
  fast     : Bool
  qmode    : BitVec 2
  qact     : Bool
  fastact  : Bool
  /-- quench entered by the converter-row temperature (17 R381) -/
  hotQuench : Bool
  /-- temperature of the converter row in °C as last reported (17 R382) -/
  rowTemp  : BitVec 8
  /-- TOL0–TOL7 [24:0] (06 R131) -/
  tol      : Vector (BitVec 25) 8
  /-- ANVWRR[31:0] (06 R132) -/
  wrr      : BitVec 32
  /-- ANVTST (06 R133) -/
  probeSeq : BitVec 16
  enob     : BitVec 8
  debcur   : BitVec 8
  pherr    : BitVec 16
  lowdeb   : Bool
  drift    : Bool
  stale    : Bool
  /-- a pass under the present staleness has raised PROBE_STALE (12 R264) -/
  staleRaised : Bool
  /-- ANVTC (06 R133) -/
  probeIvl : BitVec 16
  driftLim : BitVec 16
  afrz     : Bool
  tfrz     : Bool
  probe    : ProbeStage
  /-- WSPTR (06 R135) -/
  batchSeq : BitVec 32
  tgt      : Bool
  pend     : Bool
  cur      : Bool
  /-- WSBASE0, WSBASE1 bits [47:8] -/
  wsbase   : Vector (BitVec 40) 2
  /-- open batch boundaries, oldest first (06 R136) -/
  bounds   : List Boundary
  /-- execution list, oldest first (12 R242) -/
  execs    : List AnvilCmd
  /-- passes between their last symbol and the end of their drain, oldest first -/
  drains   : List PassResult
  /-- holding buffers of the eight slots (12 R244), oldest first -/
  holding  : Vector (List HeldWord) 8
  /-- arbiter AGE of the slots and the round's start slot (12 R255) -/
  ages     : Vector (BitVec 4) 8
  startSlot : BitVec 3
  dir      : Vector DirEntry 16
  /-- pass sequence number (02 R41) -/
  seq      : BitVec 32
  /-- HIST0–HIST31, QNCHCNT, DRIFTCNT, PROBECNT (16 R359) -/
  hist     : Vector (BitVec 32) 32
  qnch     : BitVec 32
  driftCnt : BitVec 32
  probeCnt : BitVec 32
  /-- event unit (16 R357): EV0–EV15; mutex owners -/
  ev       : Vector (BitVec 16) 16
  mx       : Vector (Option (BitVec 3)) 8
  /-- the units of the event counts, oldest first, by event, and whether a signal from another die brought them (16 R357) -/
  evFrom   : List (Nat × Bool)
  /-- waiters of the event unit, oldest first: agent and selector -/
  evWait   : List (Nat × BitVec 8)
  /-- gang reservation in force: leader core and entry (14 R318) -/
  gangRes  : Option (Nat × Nat)
  /-- IFTSTAT, IFTCTL.IVL and the suspect window (15 R345) -/
  iftLast  : BitVec 2
  iftRun   : Bool
  iftWant  : Bool
  iftRuns  : BitVec 16
  iftIvl   : BitVec 32
  chunks   : BitVec 32
  homes    : BitVec 512
  pkgs     : BitVec 1024
  deriving DecidableEq, Repr

/-- A forge at reset. -/
def Forge.reset : Forge :=
  { active := Bank.invalid, shadow := Bank.invalid, transfer := none, trim := [], trimPend := [], adc := [],
    adcPend := [], fast := false, qmode := 0, qact := false, fastact := false, hotQuench := false, rowTemp := 0,
    tol := Vector.replicate 8 0x1000000, wrr := 0x11111111, probeSeq := 0, enob := 0, debcur := 0, pherr := 0,
    lowdeb := false, drift := false, stale := true, staleRaised := false, probeIvl := 100, driftLim := 0x40,
    afrz := false, tfrz := false, probe := .none, batchSeq := 0, tgt := false, pend := false, cur := false,
    wsbase := Vector.replicate 2 0, bounds := [], execs := [], drains := [], holding := Vector.replicate 8 [],
    ages := Vector.replicate 8 0, startSlot := 0, dir := Vector.replicate 16 DirEntry.empty, seq := 0,
    hist := Vector.replicate 32 0, qnch := 0, driftCnt := 0, probeCnt := 0, ev := Vector.replicate 16 0,
    mx := Vector.replicate 8 none, evFrom := [], evWait := [], gangRes := none, iftLast := 0, iftRun := false, iftWant := false,
    iftRuns := 0, iftIvl := 0, chunks := 0, homes := 0, pkgs := 0 }

/-! ### A die -/

/-- One write of an engine on its way into the commit order of its die (08 R181): the bytes of one line, the poison units it covers
whole, its line, and the words of FE memory set full behind it. -/
structure Landing where
  bytes : Table Byte
  units : NatSet
  attrs : Table LineAttr
  tags  : NatSet
  deriving DecidableEq, Repr

/-- A command in an engine slot (11 R217): its writes still to land, whether its data effect has come about, how it ends, and the
poison units it wrote. -/
structure Slot where
  cmd    : Cmd
  todo   : List Landing
  done   : Bool
  code   : Word
  aux    : BitVec 16
  dest   : NatSet
  deriving DecidableEq, Repr

/-- An L2 TLB fault buffer entry (11 R238). -/
structure FaultEntry where
  valid : Bool
  asid  : BitVec 9
  vpn   : BitVec 36
  type  : BitVec 4
  req   : BitVec 128
  count : BitVec 16
  deriving DecidableEq, Repr

/-- A free fault buffer entry. -/
def FaultEntry.empty : FaultEntry := { valid := false, asid := 0, vpn := 0, type := 0, req := 0, count := 0 }

/-- A migration table entry (13 R288). -/
structure MigEntry where
  /-- 0 copying, 1 switching, 2 aborting -/
  phase : BitVec 2
  /-- 0 4 KiB, 1 64 KiB, 2 2 MiB -/
  size  : BitVec 2
  asid  : BitVec 9
  va    : BitVec 48
  src   : Nat
  dst   : Nat
  next  : Nat
  pois  : Nat
  /-- home address of the first leaf, and that leaf as it stood before the move -/
  leafPa : Nat
  leaf   : Word
  /-- the command that ends with the move: the MIGR itself, or the MEVAC and the list index -/
  cmd    : Cmd
  evac   : Option Nat
  /-- the move has ended; the entry is kept until this completion word finds room (11 R235) -/
  ended  : Option Word
  deriving DecidableEq, Repr

/-- A MEVAC under way (11 R236): its command, next list index, first failing status so far, poisoned lines so far. -/
structure Evac where
  cmd    : Cmd
  next   : Nat
  /-- first failing status in list order: index and status -/
  failed : Option (Nat × BitVec 8)
  pois   : Nat
  deriving DecidableEq, Repr

/-- One voltage/frequency island (17 R378). -/
structure Island where
  vcur    : BitVec 8
  /-- clock applied before any stretch, in 50 MHz units -/
  applied : BitVec 8
  stretch : Bool
  vset    : BitVec 8
  vfix    : Bool
  droop   : Bool
  freq    : BitVec 6
  /-- the setpoint that the island has locked; FREQ once it has relocked (01 R20) -/
  locked  : BitVec 6
  /-- a new clock is being locked (01 R20) -/
  relock  : Bool
  /-- temperature of the junction in °C as last reported (17 R382) -/
  junction : BitVec 8
  /-- the junction is above its limit: throttling, THERMAL raised (17 R381) -/
  hot     : Bool
  /-- clocks taken off by power capping and by throttling, in steps -/
  capSteps : BitVec 8
  hotSteps : BitVec 8
  deriving DecidableEq, Repr

/-- A voltage of the loop's operating range in 5 mV units, a free value (17 R378, log entry 5). -/
def loopVoltage (n : Nat) : BitVec 8 := BitVec.ofNat 8 (110 + (Config.supplyVoltage n).val)
/-- An island at reset: 2.0 GHz; VCUR is the loop's (log entry 5). -/
def Island.reset : Island :=
  { vcur := loopVoltage 0, applied := 40, stretch := false, vset := 0, vfix := false, droop := false,
    freq := 40, locked := 40, relock := false, junction := 0, hot := false, capSteps := 0, hotSteps := 0 }

/-- A vertical-bus group (10 R210). -/
structure VbusGroup where
  /-- the lane that failed the latest frame and how many frames in a row -/
  lane     : Option Nat
  fails    : BitVec 2
  /-- lane steered to the spare -/
  steered  : Option Nat
  disabled : Bool
  /-- frames replayed, none of whose data is lost -/
  replays  : Nat
  deriving DecidableEq, Repr

/-- A group with every lane good. -/
def VbusGroup.good : VbusGroup := { lane := none, fails := 0, steered := none, disabled := false, replays := 0 }

/-- The ring registers of one supervisor (15 R332). -/
structure RingRegs where
  base : Word
  head : BitVec 6
  tail : BitVec 6
  deriving DecidableEq, Repr

/-- The ring registers at reset. -/
def RingRegs.zero : RingRegs := { base := 0, head := 0, tail := 0 }

/-- A supervisor command port (11 R235). -/
structure Port where
  /-- words 0–2 staged by supervisors 512–519, and by the host -/
  stage : Vector (Vector Word 3) 9
  queue : List Cmd
  cpl   : List Word
  deriving DecidableEq, Repr

/-- An empty port. -/
def Port.empty : Port := { stage := Vector.replicate 9 (Vector.replicate 3 0), queue := [], cpl := [] }

/-- The state of a die. -/
structure Die where
  /-- CYCLE (16 R347) -/
  cycle    : Word
  /-- context table, words 0–7 of each ASID (13 R269) -/
  ctxs     : Table (Vector Word 8)
  /-- stripe table (13 R280) -/
  stripes  : Table (Vector Word 8)
  /-- L2 TLB (13 R277) -/
  l2tlb    : List TlbEntry
  faults   : Vector FaultEntry 8
  dropped  : Bool
  dropcnt  : BitVec 16
  /-- notification queue and NQDROP (11 R239, 13 R296) -/
  nq       : List Word
  nqdrop   : BitVec 16
  /-- engine slots by index (11 R217) and the round-robin positions -/
  tongs    : Table Slot
  swage    : Table Slot
  rrTongs  : Nat
  rrColl   : Nat
  rrSwage  : Nat
  /-- migration table, port and evacuations (13 R288, 11 R235) -/
  migs     : Table MigEntry
  migPort  : Port
  evacs    : List Evac
  /-- completion words of ended migration commands that wait for room -/
  migEnded : List Word
  savePort : Port
  /-- completion words of ended save commands that wait for room -/
  saveEnded : List Word
  /-- SEV0–SEV15 [23:0] (15 R326) -/
  sev      : Vector (BitVec 24) 16
  partmap  : Word
  /-- error log ring, ERRLOG and the sequence numbers (15 R329, R330) -/
  log      : Table (Vector Word 4)
  logTotal : BitVec 32
  logLost  : BitVec 16
  logNext  : BitVec 7
  logSeq   : BitVec 16
  pktSeq   : BitVec 16
  rings    : Vector RingRegs 2
  /-- packets waiting in the die buffer, with the supervisor they go to (15 R332) -/
  packets  : List (BitVec 1 × Packet)
  /-- HSAMPLE, HTHRESH, RETTHRESH, VBUSOK (13 R294, 10 R206, R213) -/
  hsample  : BitVec 24
  hthresh  : BitVec 16
  retthresh : BitVec 28
  vbusok   : BitVec 24
  vbus     : Table VbusGroup
  islands  : Table Island
  deriving DecidableEq, Repr

/-- The reset actions of R325: 1 log, 2 interrupt, the same for the eight sources. -/
def sevReset : Vector (BitVec 24) 16 :=
  ⟨#[0x249249, 0x249249, 0x492492, 0x249249, 0x249249, 0x249249, 0x249249, 0x492492,
     0x249249, 0x492492, 0x492492, 0x249249, 0x249249, 0x249249, 0x249249, 0x492492], rfl⟩

/-- A die at reset. -/
def Die.reset : Die :=
  { cycle := 0, ctxs := [], stripes := [], l2tlb := [], faults := Vector.replicate 8 FaultEntry.empty, dropped := false,
    dropcnt := 0, nq := [], nqdrop := 0, tongs := [], swage := [], rrTongs := 0, rrColl := 0, rrSwage := 0, migs := [],
    migPort := Port.empty, evacs := [], migEnded := [], savePort := Port.empty, saveEnded := [],
    sev := sevReset, partmap := 0, log := [], logTotal := 0, logLost := 0, logNext := 0, logSeq := 0, pktSeq := 0,
    rings := Vector.replicate 2 RingRegs.zero, packets := [], hsample := 0x180400, hthresh := 256,
    retthresh := 0x2430040, vbusok := 0, vbus := [], islands := [] }

/-! ### A home port -/

/-- A hot-list entry (10 R205, R206). -/
structure HotRow where
  row   : BitVec 19
  score : BitVec 16
  retq  : Bool
  /-- its RETIRE post was dropped and waits to be made again -/
  pend  : Bool
  /-- hot scrub steps since its last base step (10 R205) -/
  hots  : Nat
  deriving DecidableEq, Repr

/-- A hot-table entry (13 R293). -/
structure HotRegion where
  queued  : Bool
  pending : Bool
  count   : BitVec 16
  region  : BitVec 36
  deriving DecidableEq, Repr

/-- A home port with its counters (10, 13 R293–R295, 16 R361). -/
structure Home where
  fixed    : Bool
  /-- the mode that scrub runs in since its latest step (10 R203, 01 R20) -/
  fixedOn  : Bool
  curivl   : BitVec 16
  hotRows  : Table HotRow
  /-- base scrub steps and corrected errors of the running review (10 R203) -/
  revSteps : Nat
  revErrs  : Nat
  /-- postpone counts of banks 0–15 (10 R207) -/
  postpone : Vector (BitVec 4) 16
  /-- banks whose refresh-management command is owed, and whether the pseudo-channel waits for an all-bank refresh -/
  alerts   : NatSet
  /-- banks refreshed in a sequence that ends with an all-bank refresh -/
  rfmDone  : NatSet
  allBank  : Bool
  /-- the all-bank refresh is under way -/
  abActive : Bool
  /-- an alert forced it (10 R208) -/
  abAlert  : Bool
  /-- banks whose due per-bank refresh is under way (10 R209) -/
  due      : NatSet
  /-- lost a lane beyond its spares (10 R211) -/
  degraded : Bool
  hot      : Table HotRegion
  /-- qualifying requests since the last sample, samples since the last halving, samples waiting (13 R295) -/
  reqs     : Nat
  samples  : Nat
  waiting  : List (Nat × Bool)
  /-- a halving is due -/
  halve    : Bool
  latstall : Word
  scrSteps : Word
  scrCe    : Word
  scrUe    : Word
  demCe    : Word
  rfmCnt   : Word
  fabCnt   : Word
  hrHit    : Word
  hrMiss   : Word
  deriving DecidableEq, Repr

/-- A home port at reset. -/
def Home.reset : Home :=
  { fixed := false, fixedOn := false, curivl := 219, hotRows := [], revSteps := 0, revErrs := 0, postpone := Vector.replicate 16 0,
    alerts := [], rfmDone := [], allBank := false, abActive := false, abAlert := false, due := [], degraded := false, hot := [], reqs := 0, samples := 0, waiting := [], halve := false,
    latstall := 0, scrSteps := 0, scrCe := 0, scrUe := 0, demCe := 0, rfmCnt := 0, fabCnt := 0, hrHit := 0,
    hrMiss := 0 }

/-! ### The package -/

/-- A line held by a hearth part (07 R152). -/
structure HearthLine where
  line   : Nat
  data   : BitVec 1024
  dirty  : Bool
  poison : Bool
  deriving DecidableEq, Repr

/-- Bytes on their way to their home (08 R171, R177): storage line, bytes with their mask, the agent that waits for
the acknowledgement. -/
structure Push where
  agent : Nat
  /-- the commit it belongs to, all of whose bytes land together -/
  group : Nat
  line  : Nat
  data  : BitVec 1024
  mask  : BitVec 128
  /-- the unit was written whole in one access, which clears its poison -/
  whole : Bool
  hot   : Bool
  heap  : Bool
  /-- the line is part of a scaled group, whose lines land together (R184) -/
  tied  : Bool
  /-- a core's own request, which its monitoring counters see (16 R360) -/
  core  : Bool
  deriving DecidableEq, Repr

/-- A granted commit some of whose bytes, or some of an older one's of the same core, are still on their way to their
homes: its agent, its number and every line it wrote (08 R171). -/
structure Commit where
  agent : Nat
  group : Nat
  lines : List Nat
  deriving DecidableEq, Repr

/-- A message on its way (16 R350). -/
structure Msg where
  sender : Nat
  target : Nat
  cnt    : BitVec 4
  /-- word offset in the target's region and value -/
  word   : Option (Nat × Word)
  deriving DecidableEq, Repr

/-- The delivery of a redirected reduction (09 R195): offset of the word and its value, barrier. -/
structure Delivery where
  issuer : Nat
  target : Nat
  word   : Option (Nat × Word)
  bar    : Option (BitVec 5)
  deriving DecidableEq, Repr

/-- Barrier arrivals on their way (16 R354): issuer, barrier, scope; `direct` is a delivery's arrival at one core. -/
structure Arrival where
  issuer : Nat
  bar    : BitVec 5
  scope  : BitVec 3
  direct : Bool
  deriving DecidableEq, Repr

/-- A signal to a forge's event unit (16 R357): forge, event, sender, from another die. -/
structure Signal where
  forge  : Nat
  ev     : BitVec 4
  sender : Nat
  remote : Bool
  deriving DecidableEq, Repr

/-- What performing an atomic gave (09 R190, R195, R198). -/
structure AtomicDone where
  old   : Word
  flags : BitVec 5
  /-- how it ends: normally, on a poisoned word, or with an access error -/
  bad   : Bool
  gone  : Bool
  deriving DecidableEq, Repr

/-- An atomic request on its way, or performed and not yet taken by its core (09 R196 to R199). -/
structure AtomicReq where
  agent  : Nat
  pc     : Word
  iword  : IWord
  /-- storage address -/
  addr   : Nat
  attr   : LineAttr
  /-- the VA of the access -/
  va     : Word
  /-- it leaves the package: performed by a switch or by another package's home -/
  remote : Bool
  /-- it lies in the reduction window: performed by a switch (R199) -/
  window : Bool
  /-- fn[6:0] of the word: member and size -/
  fn     : BitVec 7
  b      : Word
  /-- s[d]: expected value, threshold or redirection descriptor -/
  d      : Word
  done   : Option AtomicDone
  /-- its core no longer waits for it -/
  dropped : Bool
  deriving DecidableEq, Repr

/-- A member of a collective operation: its core and command, how it ends, and the poison units it wrote (11 R231, R232). -/
structure CollMember where
  cmd  : Cmd
  todo : List Landing
  done : Bool
  code : Word
  dest : NatSet
  deriving DecidableEq, Repr

/-- An Atfin port (17 R371, R372). -/
structure AtfPort where
  up       : Bool
  degraded : Bool
  retrain  : Bool
  waves    : BitVec 8
  retrains : BitVec 16
  replays  : BitVec 16
  /-- sent and not acknowledged, oldest first: target address -/
  buffer   : List Nat
  /-- requests hashed to the port while it retrains -/
  held     : List Nat
  /-- failed retrainings in a row -/
  failed   : BitVec 2
  /-- replay requests sent to the far end (17 R372) -/
  asked    : Nat
  deriving DecidableEq, Repr

/-- A port at reset. -/
def AtfPort.reset : AtfPort :=
  { up := false, degraded := false, retrain := false, waves := 0, retrains := 0, replays := 0, buffer := [], held := [],
    failed := 0, asked := 0 }

/-- A co-start team (14 R305). -/
structure Team where
  id    : BitVec 16
  /-- member cores, in launch order of the table, and the entry index -/
  cores : List Nat
  idx   : Nat
  deriving DecidableEq, Repr

/-- A team launch in progress (14 R305): cores still to be posted. -/
structure Launch where
  image   : Vector Word 8
  cores   : List Nat
  all     : List Nat
  idx     : Nat
  team    : BitVec 16
  costart : Bool
  deriving DecidableEq, Repr

/-- A write or message toward the host that waits for the link (17 R369). -/
inductive HostOut where
  | msix (v : Nat)
  | packet (p : Packet) (slot : BitVec 6)
  deriving DecidableEq, Repr

/-- A posted host write that waits to enter (17 R364). -/
structure HostWrite where
  bar  : HostBar
  off  : Nat
  data : List Byte
  deriving DecidableEq, Repr

/-- A sideband or host answer the device has given, kept as the outside world's record (17 R364, R383). -/
inductive Answer where
  | read (v : Word)
  | completerAbort
  | unsupported
  | block (ws : List Word)
  | nack
  deriving DecidableEq, Repr

/-- What the checks of a firmware image find (17 R373, R374). -/
inductive ImageVerdict where
  | good (h : ImageHeader)
  | badSignature | rollback | flashRead
  deriving DecidableEq, Repr

/-- A command to the package, in the order of arrival (17 R368, R383): a host command with NONCE as it stood when it was written, or one
of the sideband's. -/
inductive PkgCmd where
  | host (n : BitVec 4) (nonce : Vector Word 4)
  | readStatus
  | warmReset (x : BootInputs)
  | postTransport (x : BootInputs)
  | setCap (v : Word)
  | readFeat
  | flashWindow (off : Nat)
  | unknown
  deriving DecidableEq, Repr

/-- A quote (17 R375): NONCE, the digest of the running image, FEAT0 and BOOTSTAT as they stood, and the number of its signature. -/
structure Quote where
  nonce  : Vector Word 4
  digest : BitVec 256
  feat   : Word
  boot   : Word
  n      : Nat
  deriving DecidableEq, Repr

/-- The package's own registers and ports (17). -/
structure Package where
  bootStage : BitVec 4
  bootSlot  : BitVec 1
  bootSvn   : BitVec 8
  bootCode  : BitVec 8
  /-- digest of the running image (R375) -/
  bootDigest : BitVec 256
  fwMin     : BitVec 8
  fwMaj     : BitVec 8
  atfin     : Bool
  cxl1      : Bool
  lpddr     : Bool
  hbm4e     : Bool
  lpddrGiB  : Nat
  /-- HDM decoders, port × 4 + decoder (R370); expanders that are gone, port × 4 + expander -/
  hdm       : Table HdmRange
  cxlGone   : NatSet
  pwrcap    : BitVec 16
  pwrHold   : Bool
  capping   : Bool
  pwrPeak   : BitVec 16
  pwrAvg    : BitVec 16
  trip      : Bool
  /-- temperature of the junction that tripped, 0 before (R381, R382) -/
  tripTemp  : BitVec 8
  /-- the sideband's alert line is asserted (R381) -/
  alert     : Bool
  /-- a brown-out hold is in force (R379) -/
  hold      : Bool
  powered   : Bool
  hmsg      : Vector Word 8
  smsg      : Vector Word 8
  hnqBase   : Word
  hnqHead   : BitVec 6
  hnqTail   : BitVec 6
  nonce     : Vector Word 4
  /-- the quote formed last (R375) -/
  quote     : Option Quote
  fwctl     : Bool
  fwstat    : BitVec 16
  staging   : Table Word
  /-- flash slot to boot next (R376) -/
  bootNext  : BitVec 1
  /-- what the device knows of an image that it wrote into a flash slot itself -/
  slotImage : Vector (Option ImageHeader) 2
  /-- commands that have arrived and not yet run, oldest first (R368, R383) -/
  cmds      : List PkgCmd
  /-- a reset by PCIe asked for in a brown-out hold (R369, R379) -/
  resetAsked : Option BootInputs
  hostUp    : Bool
  hostOut   : List HostOut
  /-- what has been sent to the host, newest first (R367) -/
  sent      : List HostOut
  hostWrites : List HostWrite
  /-- answers given to host and sideband reads, newest first -/
  answers   : List Answer
  atf       : Table AtfPort
  pkgId     : BitVec 10
  /-- requests sent on the fabric, newest first: address -/
  flits     : List Nat
  /-- answers sent to peer packages' reads, newest first; `none` where there is no storage -/
  replies   : List (Option (List Byte))
  /-- postpone counts of the LPDDR 6 controllers, by channel and bank (10 R207) -/
  lpPost    : Table (BitVec 4)
  /-- pod barrier arrivals sent to the other packages, newest first (16 R354) -/
  podSent   : List (BitVec 5)
  /-- LIMG, LMASK, LSTAT and the launch unit (14 R305) -/
  limg      : Vector Word 8
  lmask     : Word
  lteam     : BitVec 16
  lstatus   : BitVec 8
  launches  : List Launch
  teams     : List Team
  deriving DecidableEq, Repr

/-- The package's registers at reset. -/
def Package.reset : Package :=
  { bootStage := 0, bootSlot := 0, bootSvn := 0, bootCode := 0, bootDigest := 0, fwMin := 0, fwMaj := 0, atfin := false, cxl1 := false,
    lpddr := false, hbm4e := false, lpddrGiB := 0, hdm := [], cxlGone := [], pwrcap := 1500,
    pwrHold := false, capping := false, pwrPeak := 0, pwrAvg := 0, trip := false, tripTemp := 0, alert := false,
    hold := false, powered := true, hmsg := Vector.replicate 8 0, smsg := Vector.replicate 8 0, hnqBase := 0,
    hnqHead := 0, hnqTail := 0, nonce := Vector.replicate 4 0, quote := none, fwctl := false, fwstat := 0, staging := [],
    bootNext := 0, slotImage := Vector.replicate 2 none, cmds := [], resetAsked := none, hostUp := true, hostOut := [], sent := [],
    hostWrites := [], answers := [], atf := [], pkgId := 0, flits := [], replies := [], lpPost := [], podSent := [], limg := Vector.replicate 8 0, lmask := 0,
    lteam := 0, lstatus := 0, launches := [], teams := [] }

/-! ### The memory -/

/-- Committed bytes by storage address: physical addresses below 2^52 as the homes' DRAM holds them, and from 2^56 the
SRAM regions of the compute cores, 4 MiB each. The canonical form is `Memory.wf`. -/
abbrev Memory := List Host.Cell

/-- What an unlisted address reads as: 0 (07 R142: zero-filled by boot firmware; CXL by log entry 3). -/
def Memory.blank (_a : Nat) : Byte := 0

/-- Addresses strictly rising from `lo`, and no cell equal to the blank. -/
def Memory.wfFrom : Nat → Memory → Bool
  | _, [] => true
  | lo, (a, b) :: t => decide (lo ≤ a) && decide (b ≠ Memory.blank a) && Memory.wfFrom (a + 1) t

/-- The canonical form of a memory. -/
def Memory.wf (m : Memory) : Bool := Memory.wfFrom 0 m

/-! ### The whole -/

/-- A storage error that a code finds or that no code guards against (10 R201, R202): `ue` says that it is beyond
correction. -/
inductive Upset where
  /-- a demand read of a line from its tier finds an error; `va`: the core and the address of the access that reads -/
  | tier (va : Option (Nat × Word)) (line : Nat) (ue : Bool)
  /-- in a hearth part's copy of a line -/
  | hearth (va : Option (Nat × Word)) (line : Nat) (ue : Bool)
  /-- in a core's L1 (false) or L2 (true) copy of a line, found by an access to `va` or by a write-back -/
  | cache (agent line : Nat) (l2 ue : Bool) (va : Option Word)
  /-- in a word of a core's scratchpad or converted L2 ways, by its offset; `flag`: in its full/empty or poison bit -/
  | sram (core off : Nat) (ue flag : Bool) (va : Option Word)
  /-- in an entry of a core's L1 TLB -/
  | coreTlb (agent k : Nat)
  /-- in an entry of a die's L2 TLB, found by an access of a core -/
  | dieTlb (agent k : Nat)
  /-- in what a swage command holds of its tile or its image at a physical address (15 R325) -/
  | swage (die slot pa : Nat) (ue : Bool)
  /-- a byte of a phase bank's image changes: active (false) or shadow (true) -/
  | phase (forge : Nat) (shadow : Bool) (i : Nat) (value : Byte)
  /-- a trim code changes -/
  | trim (forge i : Nat) (value : BitVec 16)
  /-- an ADC table entry changes -/
  | adc (forge i : Nat) (value : BitVec 32)
  deriving DecidableEq, Repr

/-- Anvil state of a forge that 06 R127 puts into the forge window and no rule gives an offset there, by doublewords: a
bank's image (active or shadow), trim codes by fours, ADC tables by twos (log entry 34). -/
inductive ForgeItem where
  | image (shadow : Bool) (i : Nat)
  | trims (i : Nat)
  | adcs (i : Nat)
  deriving DecidableEq, Repr

/-- Whose turn it is: a core, one of the device's own steps or an outside input, a cache eviction or a storage error. -/
inductive Turn where
  /-- the core issues and completes its next instruction -/
  | core (agent : Nat)
  /-- the core issues its next instruction, which stays pending in the scoreboard if it is multi-cycle -/
  | issue (agent : Nat)
  /-- a step of the opcode table -/
  | event (i : Instr)
  /-- the core's L1 (false) or L2 (true) gives up a line, written back if dirty (07 R142, R149) -/
  | evict (agent line : Nat) (l2 : Bool)
  /-- the home's hearth part gives up a line, written back if dirty (07 R152) -/
  | evictHearth (line : Nat)
  /-- the core's L1 TLB (false) or its die's L2 TLB (true) gives up an entry (13 R277) -/
  | dropTlb (agent k : Nat) (l2 : Bool)
  /-- an error in storage (10 R201) -/
  | upset (u : Upset)
  /-- a supervisor or the host reads or writes anvil state of a forge through its window (06 R127) -/
  | forgeItem (forge : Nat) (item : ForgeItem) (write : Option Word)
  /-- a supervisor or the host reads or writes a word of a core's SRAM region through its debug window, the write with the
  word's full/empty bit (07 R142, R159; log entry 34) -/
  | debugWord (core off : Nat) (write : Option (Word × Bool))
  /-- a supervisor or the host reads or writes a barrier word of a core through its debug window (16 R353; log entry 34) -/
  | barrierWord (core : Nat) (n : BitVec 5) (write : Option Word)
  /-- a sideband command with a code that 17 R383's table does not have -/
  | sideband (code : BitVec 8)
  deriving DecidableEq, Repr

/-- The state of the package and of the model's own schedule. -/
structure State where
  /-- cores 0–519 (01 R14); a core not listed is at reset -/
  cores    : Table Core
  /-- forges 0–63: die × 16 + forge -/
  forges   : Table Forge
  dies     : Table Die
  homes    : Table Home
  pkg      : Package
  mem      : Memory
  /-- FE words that are full, by storage address of the word (07 R159) -/
  full     : NatSet
  /-- poisoned units: storage address of the 128-byte line in DRAM, of the 8-byte word in SRAM (07 R156) -/
  poison   : NatSet
  /-- hearth lines by line number (07 R152) -/
  hearth   : Table HearthLine
  /-- in flight -/
  pushes   : List Push
  /-- granted commits that are not complete (08 R171) -/
  commits  : List Commit
  msgs     : List Msg
  linkMsgs : List (Nat × BitVec 2 × Word)
  skxMsgs  : List (Nat × BitVec 10)
  deliveries : List Delivery
  arrivals : List Arrival
  signals  : List Signal
  atomics  : List AtomicReq
  /-- write notices on their way to a die's arbiter: die, line (08 R183) -/
  notices  : List (Nat × Nat)
  /-- waiters of FE words, oldest first: word, agent (07 R161) -/
  feWaiters : List (Nat × Nat)
  /-- collective operations that have started: OP and members in rank order (11 R232) -/
  colls    : List (BitVec 8 × List CollMember)
  /-- the model's own: numbers handed to commands and to arrivals in an order, and the counter of free values -/
  serial   : Nat
  fresh    : Nat
  /-- the word the acting core executes, and whether a multi-cycle instruction is to stay pending -/
  ir       : IWord
  leave    : Bool
  /-- the scoreboard entry being executed from its captured registers, with the registers and the wait that its core has
  meanwhile (04 R79, 15 R335) -/
  reissuing : Option (SbEntry × Regs × Option Wait)
  /-- the agent whose turn it is when the schedule is empty -/
  cur      : Nat
  /-- whose turns come next -/
  schedule : List Turn
  deriving DecidableEq, Repr

/-- An image that the part accepts, whatever it is fused to. -/
def ImageHeader.plain : ImageHeader := { svn := Config.fusedSvn, fwMin := 4, digest := 0, key := Config.fusedKey, signed := true }
/-- What a boot meets when nothing is fitted and the images are good: used by `State.reset`'s schedule alone. -/
def BootInputs.plain : BootInputs :=
  { slotA := some ImageHeader.plain, slotB := some ImageHeader.plain, trained := 0xFF, lostHomes := [], vbus := [], failForges := [],
    hbm4e := false, lpddrGiB := 0, hdm := [], cxl1 := false, atfin := false, waves := [], pkgId := 0 }

/-- The machine right after reset is released: every register at its reset value, memory with nothing listed, and the
boot still to come (17 R374). -/
def State.reset : State :=
  { cores := [], forges := [], dies := [], homes := [], pkg := Package.reset, mem := [], full := [], poison := [],
    hearth := [], pushes := [], commits := [], msgs := [], linkMsgs := [], skxMsgs := [], deliveries := [], arrivals := [],
    signals := [], atomics := [], notices := [], feWaiters := [], colls := [], serial := 0, fresh := 0, ir := 0, leave := false,
    reissuing := none,
    cur := 512,
    schedule := [.event (.coldBoot BootInputs.plain)] }

end Sys2Proof.Machine
end

