-- ==== Sys2Proof/Machine/Access.lean ====
section
/-! DEFINITION. Reading and writing the parts of the state: cores, forges, dies, homes, and the registers of a core,
where the hard-wired ones get their behaviour (04_scalar_registers R76, 05_vector_registers R97). -/

namespace Sys2Proof.Machine

/-! ### Agents (01_machine R14) -/

/-- Whether an agent is a supervisor core. -/
def isSup (a : Nat) : Bool := 512 ≤ a
/-- The die of an agent. -/
def dieOf (a : Nat) : Nat := if a < 512 then a / 128 else (a - 512) / 2
/-- The package number of a compute core's forge. -/
def forgeOf (a : Nat) : Nat := a / 8
/-- The forge slot of a compute core. -/
def slotOf (a : Nat) : Nat := a % 8
/-- The number of a compute core on its die. -/
def localOf (a : Nat) : Nat := a % 128

/-! ### The parts of the package -/

def State.coreAt (s : State) (a : Nat) : Core := tget Core.reset s.cores a
def State.setCore (s : State) (a : Nat) (c : Core) : State := { s with cores := tset s.cores a c }
def State.mapCore (s : State) (a : Nat) (f : Core → Core) : State := s.setCore a (f (s.coreAt a))
/-- The core whose turn it is. -/
def State.core (s : State) : Core := s.coreAt s.cur
/-- A change of the core whose turn it is. -/
def State.me (s : State) (f : Core → Core) : State := s.mapCore s.cur f
def State.forgeAt (s : State) (g : Nat) : Forge := tget Forge.reset s.forges g
def State.mapForge (s : State) (g : Nat) (f : Forge → Forge) : State :=
  { s with forges := tset s.forges g (f (s.forgeAt g)) }
def State.dieAt (s : State) (d : Nat) : Die := tget Die.reset s.dies d
def State.mapDie (s : State) (d : Nat) (f : Die → Die) : State := { s with dies := tset s.dies d (f (s.dieAt d)) }
def State.homeAt (s : State) (h : Nat) : Home := tget Home.reset s.homes h
def State.mapHome (s : State) (h : Nat) (f : Home → Home) : State :=
  { s with homes := tset s.homes h (f (s.homeAt h)) }
def State.mapPkg (s : State) (f : Package → Package) : State := { s with pkg := f s.pkg }
/-- A number not handed out before, for an order among commands and arrivals. -/
def State.tick (s : State) : State := { s with serial := s.serial + 1 }
/-- The counter of free values moved on by `n` (log entry 2). -/
def State.used (s : State) (n : Nat) : State := { s with fresh := s.fresh + n }

/-- The change applied for each number of a list in turn. -/
def State.each {α : Type} (s : State) (l : List α) (f : State → α → State) : State := l.foldl f s

/-- The agents of a die: 128 compute cores and two supervisors. -/
def agentsOf (d : Nat) : List Nat := tab id (128 * d) 128 ++ tab id (512 + 2 * d) 2
/-- The agents of a die whose state differs from reset. -/
def State.liveAgents (s : State) (d : Nat) : List Nat := (agentsOf d).filter (thas s.cores)

/-! ### Registers of a core -/

def Core.mapRegs (c : Core) (f : Regs → Regs) : Core := { c with regs := f c.regs }

/-- s[n]; s0 reads 0. -/
def Core.readS (c : Core) (n : BitVec 5) : Word := if n = 0 then 0 else c.regs.s[n.toNat]'n.isLt
/-- v[n]. -/
def Core.readV (c : Core) (n : BitVec 5) : VWord := c.regs.v[n.toNat]'n.isLt
/-- p[n]; p0 reads all ones. -/
def Core.readP (c : Core) (n : BitVec 3) : PWord := if n = 0 then BitVec.allOnes 256 else c.regs.p[n.toNat]'n.isLt
/-- k[n]. -/
def Core.readK (c : Core) (n : BitVec 2) : Word := c.regs.k[n.toNat]'n.isLt

/-- A bit vector with bit `i` set to `b`. -/
def putBit {w : Nat} (x : BitVec w) (i : Nat) (b : Bool) : BitVec w :=
  if b then x ||| BitVec.ofNat w (2 ^ i) else x &&& ~~~(BitVec.ofNat w (2 ^ i))

/-- A write of s[n], which clears its poison bit; of s0, nothing (R76, R77). -/
def Core.writeS (c : Core) (n : BitVec 5) (x : Word) : Core :=
  if n = 0 then c
  else { c with regs := { c.regs with s := c.regs.s.set n.toNat x n.isLt, sPoison := putBit c.regs.sPoison n.toNat false } }
/-- A write of all of v[n], which clears its poison bit (R97). -/
def Core.writeV (c : Core) (n : BitVec 5) (x : VWord) : Core :=
  { c with regs := { c.regs with v := c.regs.v.set n.toNat x n.isLt, vPoison := putBit c.regs.vPoison n.toNat false } }
/-- A write of part of v[n], which leaves its poison bit (R100). -/
def Core.mergeV (c : Core) (n : BitVec 5) (x : VWord) : Core :=
  { c with regs := { c.regs with v := c.regs.v.set n.toNat x n.isLt } }
/-- A write of p[n]; of p0, nothing (R97). -/
def Core.writeP (c : Core) (n : BitVec 3) (x : PWord) : Core :=
  if n = 0 then c
  else { c with regs := { c.regs with p := c.regs.p.set n.toNat x n.isLt, pPoison := putBit c.regs.pPoison n.toNat false } }
/-- A write of k[n]. -/
def Core.writeK (c : Core) (n : BitVec 2) (x : Word) : Core :=
  { c with regs := { c.regs with k := c.regs.k.set n.toNat x n.isLt, kPoison := putBit c.regs.kPoison n.toNat false } }
/-- A value with poison into s[n]: 0 and the poison bit (07 R156). -/
def Core.poisonS (c : Core) (n : BitVec 5) (x : Word) : Core :=
  if n = 0 then c
  else { c with regs := { c.regs with s := c.regs.s.set n.toNat x n.isLt, sPoison := putBit c.regs.sPoison n.toNat true } }
/-- A value with poison into v[n]. -/
def Core.poisonV (c : Core) (n : BitVec 5) (x : VWord) : Core :=
  { c with regs := { c.regs with v := c.regs.v.set n.toNat x n.isLt, vPoison := putBit c.regs.vPoison n.toNat true } }
def Core.setPc (c : Core) (x : Word) : Core := { c with regs := { c.regs with pc := x } }
/-- Flags ORed into FFLAGS (02 R27). -/
def Core.raiseFl (c : Core) (f : BitVec 5) : Core := { c with regs := { c.regs with fflags := c.regs.fflags ||| f } }

/-! ### Registers by name, for the scoreboard and the poison rules -/

abbrev sR (n : BitVec 5) : RegName := ⟨.s, n⟩
abbrev vR (n : BitVec 5) : RegName := ⟨.v, n⟩
abbrev pR (n : BitVec 3) : RegName := ⟨.p, n.zeroExtend 5⟩
abbrev kR (n : BitVec 2) : RegName := ⟨.k, n.zeroExtend 5⟩

/-- The poison bit of a named register; s0 and p0 have none. -/
def Core.poisoned (c : Core) (r : RegName) : Bool :=
  match r.file with
  | .s => r.num != 0 && c.regs.sPoison.getLsbD r.num.toNat
  | .v => c.regs.vPoison.getLsbD r.num.toNat
  | .p => r.num != 0 && c.regs.pPoison.getLsbD r.num.toNat
  | .k => c.regs.kPoison.getLsbD r.num.toNat

/-- The contents of a named register, as a number. -/
def Core.regValue (c : Core) (r : RegName) : Nat :=
  match r.file with
  | .s => (c.readS r.num).toNat
  | .v => (c.readV r.num).toNat
  | .p => (c.readP (r.num.truncate 3)).toNat
  | .k => (c.readK (r.num.truncate 2)).toNat

/-- A named register written with a number, its poison bit set to `poison`. -/
def Core.putReg (c : Core) (r : RegName) (x : Nat) (poison : Bool) : Core :=
  match r.file with
  | .s => if poison then c.poisonS r.num (wn x) else c.writeS r.num (wn x)
  | .v => if poison then c.poisonV r.num (BitVec.ofNat 2048 x) else c.writeV r.num (BitVec.ofNat 2048 x)
  | .p =>
    let d := c.writeP (r.num.truncate 3) (BitVec.ofNat 256 x)
    if poison && r.num != 0 then d.mapRegs (fun g => { g with pPoison := putBit g.pPoison r.num.toNat true }) else d
  | .k =>
    let d := c.writeK (r.num.truncate 2) (wn x)
    if poison then d.mapRegs (fun g => { g with kPoison := putBit g.kPoison r.num.toNat true }) else d

/-- A named register's poison bit set, its contents kept (15 R335 POISON). -/
def Core.markPoison (c : Core) (r : RegName) : Core := c.putReg r (c.regValue r) true

/-- Canonical virtual addresses: bits 63:48 equal bit 47 (04 R77). -/
def canonical (x : Word) : Bool := fld x 47 17 == 0 || fld x 47 17 == 2 ^ 17 - 1

/-- The VA with bits 63:48 set from bit 47. -/
def canon (x : Word) : Word := (x.truncate 48).signExtend 64
/-- The PC behind an instruction's (04 R77: the PC is always canonical). -/
def nextPc (pc : Word) : Word := canon (pc + 4)

/-! ### Address views (07 R165, R166) -/

/-- Canonical offset of view offset `o` in a block with elements of `e` bytes (R165). -/
def viewOffset (layout e o : Nat) : Nat :=
  match layout with
  | 1 => 128 * (o % (32 * e) / e) + e * (o / (32 * e)) + o % e
  | 2 => 128 * (o % (1024 * e) / (32 * e)) + e * (32 * (o / (1024 * e)) + o % (32 * e) / e) + o % e
  | _ => o
/-- The number under which the caches hold view line `i` of a block of 4 KiB, in a layout and with an element size: line
numbers from 2^57 name no storage of their own. -/
def viewLine (block layout esz i : Nat) : Nat := 2 ^ 57 + ((block * 4 + layout) * 4 + esz) * 32 + i
/-- Whether a line number names a view line, and the block it shows. -/
def isView (line : Nat) : Bool := 2 ^ 57 ≤ line
def viewBlock (line : Nat) : Nat := (line - 2 ^ 57) / 512
/-- The storage address behind an address that may lie in a view line. -/
def canonAddr (a : Nat) : Nat :=
  if 2 ^ 64 ≤ a then
    let k := a / 128 - 2 ^ 57
    k / 512 * 4096 + viewOffset (k / 128 % 4) (2 ^ (k / 32 % 4)) (k % 32 * 128 + a % 128)
  else a
/-- Where a line lies: a view line, where its block does. -/
def lineBase (line : Nat) : Nat := if isView line then viewBlock line * 4096 else line * 128

/-- Whether a number lies in `[lo, lo + n)`. -/
def within (x lo n : Nat) : Bool := lo ≤ x && x < lo + n

end Sys2Proof.Machine
end

