-- ==== Sys2Proof/Machine/Float.lean ====
section
/-! DEFINITION. Floating-point arithmetic of 02_formats R25 to R31: values taken exactly as a sign, a whole number and
a power of two, computed exactly, and rounded once. -/

namespace Sys2Proof.Machine

/-- A floating-point format (R25): exponent and mantissa bits; `noInf` marks E4M3; `flush` marks BF16's rule for tiny
results (R29). -/
structure Fmt where
  ebits : Nat
  mbits : Nat
  noInf : Bool
  flush : Bool
  deriving DecidableEq, Repr

def fmtF64 : Fmt := { ebits := 11, mbits := 52, noInf := false, flush := false }
def fmtF32 : Fmt := { ebits := 8, mbits := 23, noInf := false, flush := false }
def fmtF16 : Fmt := { ebits := 5, mbits := 10, noInf := false, flush := false }
def fmtBF16 : Fmt := { ebits := 8, mbits := 7, noInf := false, flush := true }
def fmtE4M3 : Fmt := { ebits := 4, mbits := 3, noInf := true, flush := false }
def fmtE5M2 : Fmt := { ebits := 5, mbits := 2, noInf := false, flush := false }

/-- Width in bits. -/
def fmtWidth (f : Fmt) : Nat := 1 + f.ebits + f.mbits
/-- Exponent bias. -/
def fmtBias (f : Fmt) : Int := 2 ^ (f.ebits - 1) - 1
/-- The power of two of a subnormal's last place. -/
def fmtQmin (f : Fmt) : Int := 1 - fmtBias f - f.mbits
/-- Code of infinity, or where there is none of the NaN. -/
def fmtInf (f : Fmt) : Nat := if f.noInf then 2 ^ (f.ebits + f.mbits) - 1 else (2 ^ f.ebits - 1) * 2 ^ f.mbits
/-- Code of the largest finite value. -/
def fmtMax (f : Fmt) : Nat := fmtInf f - 1
/-- The canonical NaN. -/
def fmtNan (f : Fmt) : Nat := if f.noInf then fmtInf f else fmtInf f + 2 ^ (f.mbits - 1)
/-- The sign bit set or clear. -/
def fmtSign (f : Fmt) (neg : Bool) : Nat := if neg then 2 ^ (f.ebits + f.mbits) else 0
/-- Infinity of a sign; the NaN where the format has none. -/
def fmtInfS (f : Fmt) (neg : Bool) : Nat := if f.noInf then fmtInf f else fmtSign f neg + fmtInf f

/-- A floating-point datum: a NaN, an infinity, or `± m · 2^e`. -/
inductive FVal where
  | nan (signalling : Bool)
  | inf (neg : Bool)
  | fin (neg : Bool) (m : Nat) (e : Int)
  deriving DecidableEq, Repr

/-- FFLAGS of one operation (R27): NX 16, UF 8, OF 4, DZ 2, NV 1. -/
abbrev FFl := BitVec 5
def flNone : FFl := 0
def flNV : FFl := 1
def flDZ : FFl := 2
def flOF : FFl := 4
def flUF : FFl := 8
def flNX : FFl := 16

/-- A result code with the flags it raises. -/
abbrev FRes := Nat × FFl

/-- The datum of a code (R25, R26). -/
def funpack (f : Fmt) (x : Nat) : FVal :=
  let neg := bit x (f.ebits + f.mbits)
  let ex := bits x f.mbits f.ebits
  let mn := bits x 0 f.mbits
  if f.noInf then
    if bits x 0 (f.ebits + f.mbits) = fmtInf f then .nan false
    else if ex = 0 then .fin neg mn (fmtQmin f)
    else .fin neg (2 ^ f.mbits + mn) (fmtQmin f + (ex - 1 : Nat))
  else if ex = 2 ^ f.ebits - 1 then
    if mn = 0 then .inf neg else .nan (! bit x (f.mbits - 1))
  else if ex = 0 then .fin neg mn (fmtQmin f)
  else .fin neg (2 ^ f.mbits + mn) (fmtQmin f + (ex - 1 : Nat))

/-- Whether a datum is a NaN, and whether it is a signalling one. -/
def FVal.isNan : FVal → Bool
  | .nan _ => true
  | _ => false
def FVal.isSnan : FVal → Bool
  | .nan s => s
  | _ => false
/-- The flags of reading data: NV for a signalling NaN (R26). -/
def flSnan (l : List FVal) : FFl := if l.any FVal.isSnan then flNV else flNone

/-- Whether mode `rm` (R27) rounds `q + r / 2^k` away from zero, `r` nonzero below `2^k`. -/
def roundsUp (rm : BitVec 2) (neg : Bool) (q r k : Nat) : Bool :=
  match rm.toNat with
  | 0 => 2 * r > 2 ^ k || (2 * r == 2 ^ k && q % 2 == 1)
  | 1 => false
  | 2 => neg && r != 0
  | _ => !neg && r != 0

/-- `m / 2^k` rounded, and whether that was inexact. -/
def shiftRound (rm : BitVec 2) (neg : Bool) (m k : Nat) : Nat × Bool :=
  let q := m / 2 ^ k
  let r := m % 2 ^ k
  (if r ≠ 0 && roundsUp rm neg q r k then q + 1 else q, r != 0)

/-- `m · 2^e` as a multiple of `2^q`, rounded. -/
def atQuantum (rm : BitVec 2) (neg : Bool) (m : Nat) (e q : Int) : Nat × Bool :=
  if q ≤ e then (m * 2 ^ (e - q).toNat, false) else shiftRound rm neg m (q - e).toNat

/-- `m · 2^e`, `m` nonzero, rounded into a format as if its exponents went on upwards: the code without its sign,
whether it is inexact, and whether the result is tiny (R29). -/
def froundCode (f : Fmt) (rm : BitVec 2) (neg : Bool) (m : Nat) (e : Int) : Nat × Bool × Bool :=
  let qu := Int.ofNat (Nat.log2 m) + e - f.mbits
  let q := if qu < fmtQmin f then fmtQmin f else qu
  let (r, inexact) := atQuantum rm neg m e q
  let (ru, _) := atQuantum rm neg m e qu
  ((q - fmtQmin f).toNat * 2 ^ f.mbits + r, inexact,
    qu < fmtQmin f && !(ru == 2 ^ (f.mbits + 1) && qu + 1 == fmtQmin f))

/-- `± m · 2^e` rounded into a format, with overflow by R28 and tininess by R29. -/
def fround (f : Fmt) (rm : BitVec 2) (neg : Bool) (m : Nat) (e : Int) : FRes :=
  if m = 0 then (fmtSign f neg, flNone)
  else
    let (code, inexact, tiny) := froundCode f rm neg m e
    if code > fmtMax f then
      let large := match rm.toNat with | 0 => false | 1 => true | 2 => !neg | _ => neg
      (if large then fmtSign f neg + fmtMax f else fmtInfS f neg, flOF ||| flNX)
    else if tiny && f.flush then (fmtSign f neg, flUF ||| flNX)
    else (fmtSign f neg + code,
      (if inexact then flNX else flNone) ||| (if tiny && inexact then flUF else flNone))

/-- A datum that is no NaN and needs no rounding decision but its own, in a format. -/
def fpack (f : Fmt) (rm : BitVec 2) : FVal → FRes
  | .nan _ => (fmtNan f, flNone)
  | .inf neg => (fmtInfS f neg, flNone)
  | .fin neg m e => fround f rm neg m e

/-- The sum of two finite data, exact, with the sign of a zero result by R94. -/
def finAdd (rm : BitVec 2) (n1 : Bool) (m1 : Nat) (e1 : Int) (n2 : Bool) (m2 : Nat) (e2 : Int) : FVal :=
  let e := if e1 ≤ e2 then e1 else e2
  let a : Int := Int.ofNat (m1 * 2 ^ (e1 - e).toNat)
  let b : Int := Int.ofNat (m2 * 2 ^ (e2 - e).toNat)
  let x : Int := (if n1 then -a else a) + (if n2 then -b else b)
  if x = 0 then .fin (if m1 = 0 ∧ m2 = 0 ∧ n1 = n2 then n1 else rm == 2) 0 0
  else .fin (decide (x < 0)) x.natAbs e

/-- The sum of two data with its invalid flag. -/
def valAdd (rm : BitVec 2) (a b : FVal) : FVal × FFl :=
  match a, b with
  | .nan s, .nan t => (.nan false, if s || t then flNV else flNone)
  | .nan s, _ | _, .nan s => (.nan false, if s then flNV else flNone)
  | .inf n, .inf m => if n = m then (.inf n, flNone) else (.nan false, flNV)
  | .inf n, _ | _, .inf n => (.inf n, flNone)
  | .fin n1 m1 e1, .fin n2 m2 e2 => (finAdd rm n1 m1 e1 n2 m2 e2, flNone)

/-- The product of two data, exact, with its invalid flag. -/
def valMul (a b : FVal) : FVal × FFl :=
  match a, b with
  | .nan s, .nan t => (.nan false, if s || t then flNV else flNone)
  | .nan s, _ | _, .nan s => (.nan false, if s then flNV else flNone)
  | .inf n, .inf m => (.inf (n != m), flNone)
  | .inf n, .fin n2 m _ | .fin n2 m _, .inf n => if m = 0 then (.nan false, flNV) else (.inf (n != n2), flNone)
  | .fin n1 m1 e1, .fin n2 m2 e2 => (.fin (n1 != n2) (m1 * m2) (e1 + e2), flNone)

/-- The datum with its sign inverted. -/
def FVal.negate : FVal → FVal
  | .nan s => .nan s
  | .inf n => .inf !n
  | .fin n m e => .fin (!n) m e

/-- A result with flags joined. -/
def withFl (r : FRes) (fl : FFl) : FRes := (r.1, r.2 ||| fl)

/-- `round(a + b)` (R93, R104). -/
def fadd (f : Fmt) (rm : BitVec 2) (a b : Nat) : FRes :=
  let (v, fl) := valAdd rm (funpack f a) (funpack f b)
  withFl (fpack f rm v) fl

/-- `round(a − b)`. -/
def fsub (f : Fmt) (rm : BitVec 2) (a b : Nat) : FRes :=
  let (v, fl) := valAdd rm (funpack f a) (funpack f b).negate
  withFl (fpack f rm v) fl

/-- `round(a · b)`. -/
def fmul (f : Fmt) (rm : BitVec 2) (a b : Nat) : FRes :=
  let (v, fl) := valMul (funpack f a) (funpack f b)
  withFl (fpack f rm v) fl

/-- `round(a · b + c)` on data, one rounding; 0 · ∞ raises NV whatever `c` holds (R93). -/
def valFma (f : Fmt) (rm : BitVec 2) (a b c : FVal) : FRes :=
  let (p, fl) := valMul a b
  let (v, fl2) := valAdd rm p c
  withFl (fpack f rm v) (fl ||| fl2 ||| flSnan [c])

/-- `round(a · b + c)`. -/
def ffma (f : Fmt) (rm : BitVec 2) (a b c : Nat) : FRes := valFma f rm (funpack f a) (funpack f b) (funpack f c)

/-- `round(a · b − c)`. -/
def ffms (f : Fmt) (rm : BitVec 2) (a b c : Nat) : FRes :=
  valFma f rm (funpack f a) (funpack f b) (funpack f c).negate

/-- `round(a / b)` (R93). The quotient is taken to more bits than the format holds, its last bit set when a remainder
is left, so that the rounding sees the exact value. -/
def fdiv (f : Fmt) (rm : BitVec 2) (a b : Nat) : FRes :=
  match funpack f a, funpack f b with
  | .nan s, .nan t => (fmtNan f, if s || t then flNV else flNone)
  | .nan s, _ | _, .nan s => (fmtNan f, if s then flNV else flNone)
  | .inf _, .inf _ => (fmtNan f, flNV)
  | .inf n, .fin n2 _ _ => (fmtInfS f (n != n2), flNone)
  | .fin n _ _, .inf n2 => (fmtSign f (n != n2), flNone)
  | .fin n1 m1 e1, .fin n2 m2 e2 =>
    if m2 = 0 then if m1 = 0 then (fmtNan f, flNV) else (fmtInfS f (n1 != n2), flDZ)
    else if m1 = 0 then (fmtSign f (n1 != n2), flNone)
    else
      let k := f.mbits + 4 + Nat.log2 m2
      let q := m1 * 2 ^ k / m2
      let r := m1 * 2 ^ k % m2
      fround f rm (n1 != n2) (2 * q + b2n (r != 0)) (e1 - e2 - k - 1)

/-- `round(√a)` (R93). -/
def fsqrt (f : Fmt) (rm : BitVec 2) (a : Nat) : FRes :=
  match funpack f a with
  | .nan s => (fmtNan f, if s then flNV else flNone)
  | .inf n => if n then (fmtNan f, flNV) else (fmtInfS f false, flNone)
  | .fin n m e =>
    if m = 0 then (fmtSign f n, flNone)
    else if n then (fmtNan f, flNV)
    else
      let odd := e % 2 != 0
      let m' := if odd then 2 * m else m
      let e' := if odd then e - 1 else e
      let x := m' * 4 ^ (f.mbits + 3)
      let r := isqrt x (Nat.log2 x / 2 + 1) 0
      fround f rm false (2 * r + b2n (r * r != x)) (e' / 2 - (f.mbits + 3) - 1)

/-- −1, 0 or 1 as `a` is less than, equal to or greater than `b`, zeros being equal; NaNs are not asked. -/
def valCmp (a b : FVal) : Int :=
  match a, b with
  | .inf n, .inf m => if n = m then 0 else if n then -1 else 1
  | .inf n, _ => if n then -1 else 1
  | _, .inf n => if n then 1 else -1
  | .fin n1 m1 e1, .fin n2 m2 e2 =>
    let e := if e1 ≤ e2 then e1 else e2
    let x : Int := Int.ofNat (m1 * 2 ^ (e1 - e).toNat)
    let y : Int := Int.ofNat (m2 * 2 ^ (e2 - e).toNat)
    let d := (if n1 then -x else x) - (if n2 then -y else y)
    if d < 0 then -1 else if d = 0 then 0 else 1
  | _, _ => 0

/-- The sign of a datum. -/
def FVal.neg : FVal → Bool
  | .nan _ => false
  | .inf n => n
  | .fin n _ _ => n

/-- A code delivered by an operation that rounds nothing: where the format flushes, a subnormal gives zero of its sign (R29). -/
def deliver (f : Fmt) (a : Nat) : FRes :=
  if f.flush && bits a f.mbits f.ebits == 0 && bits a 0 f.mbits != 0 then (fmtSign f (bit a (f.ebits + f.mbits)), flUF ||| flNX)
  else (a, flNone)

/-- Minimum or maximum by R30; −0 is less than +0. -/
def fminmax (max : Bool) (f : Fmt) (a b : Nat) : FRes :=
  let x := funpack f a
  let y := funpack f b
  let fl := flSnan [x, y]
  if x.isNan && y.isNan then (fmtNan f, fl)
  else if x.isNan then withFl (deliver f b) fl
  else if y.isNan then withFl (deliver f a) fl
  else
    let c := valCmp x y
    let less := c < 0 || (c == 0 && x.neg && !y.neg)
    withFl (deliver f (if less != max then a else b)) fl

/-- The three comparisons of R30: equal (quiet), less, less or equal (both signalling). -/
inductive FCmp where
  | eq | lt | le
  deriving DecidableEq, Repr

/-- A comparison with its flags. -/
def fcompare (c : FCmp) (f : Fmt) (a b : Nat) : Bool × FFl :=
  let x := funpack f a
  let y := funpack f b
  if x.isNan || y.isNan then (false, if c = .eq then flSnan [x, y] else flNV)
  else (match c with | .eq => valCmp x y == 0 | .lt => valCmp x y < 0 | .le => valCmp x y ≤ 0, flNone)

/-- VABS and VNEG on a floating-point element (R104). -/
def fabs (f : Fmt) (a : Nat) : FRes :=
  match funpack f a with
  | .nan s => (fmtNan f, if s then flNV else flNone)
  | _ => deliver f (bits a 0 (f.ebits + f.mbits))
def fneg (f : Fmt) (a : Nat) : FRes :=
  match funpack f a with
  | .nan s => (fmtNan f, if s then flNV else flNone)
  | v => deliver f (fmtSign f (!v.neg) + bits a 0 (f.ebits + f.mbits))

/-- A number cut down to its 12 leading bits: the number and how many bits went (R105). -/
def cut12 (q : Nat) : Nat × Nat :=
  let n := Nat.log2 q + 1
  if n ≤ 12 then (q, 0) else (q / 2 ^ (n - 12), n - 12)

/-- VRCPE (R105): no NX, OF or UF. -/
def frcpe (f : Fmt) (a : Nat) : FRes :=
  match funpack f a with
  | .nan s => (fmtNan f, if s then flNV else flNone)
  | .inf n => (fmtSign f n, flNone)
  | .fin n m e =>
    if m = 0 then (fmtInfS f n, flDZ)
    else
      let k := Nat.log2 m + 16
      let (q, c) := cut12 (2 ^ k / m)
      ((fround f 0 n q (c - k - e)).1, flNone)

/-- VRSQE (R105). -/
def frsqe (f : Fmt) (a : Nat) : FRes :=
  match funpack f a with
  | .nan s => (fmtNan f, if s then flNV else flNone)
  | .inf n => if n then (fmtNan f, flNV) else (fmtSign f false, flNone)
  | .fin n m e =>
    if m = 0 then (fmtInfS f n, flDZ)
    else if n then (fmtNan f, flNV)
    else
      let odd := e % 2 != 0
      let m' := if odd then 2 * m else m
      let e' := if odd then e - 1 else e
      let k := Nat.log2 m' + 16
      let x := 2 ^ (2 * k) / m'
      let (q, c) := cut12 (isqrt x (Nat.log2 x / 2 + 1) 0)
      ((fround f 0 false q (c - k - e' / 2)).1, flNone)

/-- FCLASS (R95). -/
def fclass (f : Fmt) (a : Nat) : Nat :=
  let sign := if bit a (f.ebits + f.mbits) then 8 else 0
  let ex := bits a f.mbits f.ebits
  match funpack f a with
  | .nan s => sign + (if s then 5 else 4)
  | .inf _ => sign + 3
  | .fin _ m _ => sign + (if m = 0 then 0 else if ex = 0 then 1 else 2)

/-! ### Conversions (R32, R46, R48) -/

/-- From one floating-point format to another. -/
def fcvt (src dst : Fmt) (rm : BitVec 2) (a : Nat) : FRes :=
  match funpack src a with
  | .nan s => (fmtNan dst, if s then flNV else flNone)
  | .inf n => (fmtInfS dst n, if dst.noInf then flNV else flNone)
  | .fin n m e => fround dst rm n m e

/-- From a floating-point format into an 8-bit one with saturation (codes 5 and 7 of R48). -/
def fcvtSat (src dst : Fmt) (rm : BitVec 2) (a : Nat) : FRes :=
  match funpack src a with
  | .nan s => (fmtNan dst, if s then flNV else flNone)
  | .inf n => (fmtSign dst n + fmtMax dst, flOF)
  | .fin n m e =>
    let r := fround dst rm n m e
    if r.2 &&& flOF = 0 then r else (fmtSign dst n + fmtMax dst, flOF ||| flNX)

/-- A datum rounded to a whole number, with whether that was inexact. -/
def roundInt (rm : BitVec 2) (neg : Bool) (m : Nat) (e : Int) : Int × Bool :=
  let (r, x) := atQuantum rm neg m e 0
  (if neg then -Int.ofNat r else Int.ofNat r, x)

/-- To an integer in `[lo, hi]` (R32). -/
def fToInt (f : Fmt) (rm : BitVec 2) (lo hi : Int) (a : Nat) : Int × FFl :=
  match funpack f a with
  | .nan _ => (0, flNV)
  | .inf n => (if n then lo else hi, flNV)
  | .fin n m e =>
    let (x, inexact) := roundInt rm n m e
    if x < lo then (lo, flNV) else if hi < x then (hi, flNV) else (x, if inexact then flNX else flNone)

/-- From a signed integer. -/
def intToF (f : Fmt) (rm : BitVec 2) (x : Int) : FRes := fround f rm (decide (x < 0)) x.natAbs 0

end Sys2Proof.Machine
end

