-- ==== Sys2Proof/Machine/Convert.lean ====
section
/-! DEFINITION. The conversion codes of VCVT (02_formats R46 to R48), the MX blocks (R33 to R35), the asymmetric groups
(R36 to R38) and the anvil's block floating point (R40). -/

namespace Sys2Proof.Machine

/-- Source and destination element widths of a conversion code (R46). -/
def cvtWidths (c : Nat) : Nat × Nat :=
  match c with
  | 0 | 1 | 16 | 18 => (32, 16)
  | 2 | 3 | 15 => (16, 32)
  | 4 | 5 | 6 | 7 | 17 | 19 | 24 => (32, 8)
  | 8 | 9 | 13 | 14 | 25 => (8, 32)
  | 20 | 21 => (16, 16)
  | 22 => (8, 16)
  | 23 => (16, 8)
  | 26 | 27 => (4, 8)
  | 28 => (8, 4)
  | _ => (32, 32)

/-- An integer conversion that saturates to `w` signed bits. -/
def satI (w : Nat) (x : Int) : Nat := lowBits w (clampI (-(2 ^ (w - 1))) (2 ^ (w - 1) - 1) x)

/-- One element of a conversion (R46, R48). -/
def cvtElem (c : Nat) (rm : BitVec 2) (x : Nat) : FRes :=
  match c with
  | 0 => fcvt fmtF32 fmtBF16 rm x
  | 1 => fcvt fmtF32 fmtF16 rm x
  | 2 => fcvt fmtBF16 fmtF32 rm x
  | 3 => fcvt fmtF16 fmtF32 rm x
  | 4 => fcvt fmtF32 fmtE4M3 rm x
  | 5 => fcvtSat fmtF32 fmtE4M3 rm x
  | 6 => fcvt fmtF32 fmtE5M2 rm x
  | 7 => fcvtSat fmtF32 fmtE5M2 rm x
  | 8 => fcvt fmtE4M3 fmtF32 rm x
  | 9 => fcvt fmtE5M2 fmtF32 rm x
  | 10 => let r := fToInt fmtF32 rm (-(2 ^ 31)) (2 ^ 31 - 1) x; (lowBits 32 r.1, r.2)
  | 11 => intToF fmtF32 rm (sxt 32 x)
  | 12 => let r := fToInt fmtF32 1 (-(2 ^ 31)) (2 ^ 31 - 1) x; (lowBits 32 r.1, r.2)
  | 13 => (lowBits 32 (sxt 8 x), flNone)
  | 14 => (x, flNone)
  | 15 => (lowBits 32 (sxt 16 x), flNone)
  | 16 => (satI 16 (sxt 32 x), flNone)
  | 17 => (satI 8 (sxt 32 x), flNone)
  | 18 => (bits x 0 16, flNone)
  | 19 => (bits x 0 8, flNone)
  | 20 => fcvt fmtF16 fmtBF16 rm x
  | 21 => fcvt fmtBF16 fmtF16 rm x
  | 22 => (lowBits 16 (sxt 8 x), flNone)
  | 23 => (satI 8 (sxt 16 x), flNone)
  | 24 => let r := fToInt fmtF32 rm 0 255 x; (lowBits 8 r.1, r.2)
  | 25 => intToF fmtF32 rm x
  | 26 => (lowBits 8 (sxt 4 x), flNone)
  | 27 => (x, flNone)
  | _ => (satI 4 (sxt 8 x), flNone)

/-! ### MX blocks -/

/-- E2M1 (R33): every code is finite. -/
def fmtE2M1 : Fmt := { ebits := 2, mbits := 1, noInf := true, flush := false }

/-- The four MX types: 0 E4M3, 1 E5M2, 2 E2M1, 3 int8 (R116). -/
def mxEmax (t : Nat) : Int := match t with | 0 => 8 | 1 => 15 | 2 => 2 | _ => 0
/-- Bits of an element. -/
def mxBits (t : Nat) : Nat := if t = 2 then 4 else 8
/-- The format of an element that is no int8. -/
def mxFmt (t : Nat) : Fmt := match t with | 0 => fmtE4M3 | 1 => fmtE5M2 | _ => fmtE2M1
/-- The largest code of an element's magnitude. -/
def mxMax (t : Nat) : Nat := match t with | 0 => 0x7E | 1 => 0x7B | _ => 7

/-- floor(log2) of the largest magnitude among finite data, or `none` when all are zero. -/
def maxLog2 : List FVal → Option Int
  | [] => none
  | .fin _ m e :: t =>
    if m = 0 then maxLog2 t
    else
      let x : Int := Int.ofNat (Nat.log2 m) + e
      some (match maxLog2 t with | none => x | some y => if x < y then y else x)
  | _ :: t => maxLog2 t

/-- Whether a list of data holds a NaN or an infinity. -/
def anyNonFinite (l : List FVal) : Bool := l.any (fun v => match v with | .fin _ _ _ => false | _ => true)

/-- One element quantised with the scale 2^x (R34). -/
def mxElem (t : Nat) (x : Int) (v : FVal) : Nat × FFl :=
  match v with
  | .fin n m e =>
    if m = 0 then (if t = 3 then 0 else fmtSign (mxFmt t) n, flNone)
    else if t = 3 then
      let (r, inexact) := atQuantum 0 n m (e + 6 - x) 0
      let c := if r > 127 then 127 else r
      (lowBits 8 (if n then -Int.ofNat c else Int.ofNat c),
        if r > 127 then flOF ||| flNX else if inexact then flNX else flNone)
    else
      let (c, inexact, _) := froundCode (mxFmt t) 0 n m (e - x)
      if c > mxMax t then (fmtSign (mxFmt t) n + mxMax t, flOF ||| flNX)
      else (fmtSign (mxFmt t) n + c, if inexact then flNX else flNone)
  | _ => (0, flNone)

/-- A block quantised: scale code, element codes, flags (R34). -/
def mxQuant (t : Nat) (vs : List FVal) : Nat × List Nat × FFl :=
  if anyNonFinite vs then (255, vs.map (fun _ => 0), flNV)
  else
    let x := match maxLog2 vs with | none => -127 | some l => clampI (-127) 127 (l - mxEmax t)
    let es := vs.map (mxElem t x)
    ((x + 127).toNat, es.map Prod.fst, es.foldl (fun f e => f ||| e.2) flNone)

/-- The datum of an element code before its scale (R33, R35). -/
def mxUnpack (t : Nat) (c : Nat) : FVal :=
  match t with
  | 0 => funpack fmtE4M3 c
  | 1 => funpack fmtE5M2 c
  | 2 =>
    let n := bit c 3
    let ex := bits c 1 2
    let mn := bits c 0 1
    if ex = 0 then .fin n mn (-1) else .fin n (2 + mn) (ex - 2 : Int)
  | _ => let x := sxt 8 c; .fin (decide (x < 0)) x.natAbs (-6)

/-- An element read back into a format (R35). -/
def mxDequant (t : Nat) (dst : Fmt) (rm : BitVec 2) (scale c : Nat) : FRes :=
  if scale = 255 then (fmtNan dst, flNone)
  else
    match mxUnpack t c with
    | .nan s => (fmtNan dst, if s then flNV else flNone)
    | .inf n => (fmtInfS dst n, flNone)
    | .fin n m e => fround dst rm n m (e + scale - 127)

/-! ### Asymmetric groups -/

/-- The smallest (or largest) of 0 and the FP32 data. -/
def minZero (max : Bool) (xs : List Nat) : Nat := xs.foldl (fun a x => (fminmax max fmtF32 a x).1) 0

/-- A group of FP32 codes quantised by R37: FP16 scale, zero point, codes, flags. -/
def asymQuant (qmax : Nat) (xs : List Nat) : Nat × Nat × List Nat × FFl :=
  if anyNonFinite (xs.map (funpack fmtF32)) then (0x7E00, 0, xs.map (fun _ => 0), flNV)
  else
    let lo := minZero false xs
    let hi := minZero true xs
    if valCmp (funpack fmtF32 lo) (funpack fmtF32 hi) == 0 then (0, 0, xs.map (fun _ => 0), flNone)
    else
      let span := (fsub fmtF32 0 hi lo).1
      let s0 := (fcvt fmtF32 fmtF16 0 (fdiv fmtF32 0 span (intToF fmtF32 0 qmax).1).1).1
      let (s, fs) := if s0 = 0x7C00 then (0x7BFF, flOF) else if s0 = 0 then (1, flUF) else (s0, flNone)
      let s32 := (fcvt fmtF16 fmtF32 0 s).1
      let z := (fToInt fmtF32 0 0 qmax (fdiv fmtF32 0 (fneg fmtF32 lo).1 s32).1).1
      let one := fun x =>
        let d := fdiv fmtF32 0 x s32
        let r := fToInt fmtF32 0 (-(2 ^ 200)) (2 ^ 200) d.1
        let q := r.1 + z
        let c := clampI 0 qmax q
        (c.toNat, if c ≠ q || (d.2 ||| r.2) &&& flNX ≠ 0 then flNX else flNone)
      let es := xs.map one
      (s, z.toNat, es.map Prod.fst, es.foldl (fun f e => f ||| e.2) fs)

/-- A code read back by R38. -/
def asymDequant (dst : Fmt) (rm : BitVec 2) (s z q : Nat) : FRes :=
  match funpack fmtF16 s with
  | .nan _ => (fmtNan dst, flNone)
  | v =>
    let d : Int := Int.ofNat q - Int.ofNat z
    let (p, fl) := valMul v (.fin (decide (d < 0)) d.natAbs 0)
    withFl (fpack dst rm p) fl

/-! ### Anvil input blocks -/

/-- The block exponent of R40 from data without NaN or infinity. -/
def bfpExponent (vs : List FVal) : Int :=
  match maxLog2 vs with | none => -127 | some l => clampI (-127) 127 (l - 6)

/-- One mantissa with exponent `e` (R40, R117): an int8 and its flags. The top is the upper bound 127 (log entry 6). -/
def bfpMantissa (e : Int) (v : FVal) : Int × FFl :=
  match v with
  | .fin n m x =>
    let (r, inexact) := atQuantum 0 n m (x - e) 0
    let c := if r > 127 then 127 else r
    (if n then -Int.ofNat c else Int.ofNat c,
      if r > 127 then (if n then flNX else flNX ||| flOF) else if inexact then flNX else flNone)
  | _ => (0, if e = -128 then flNone else flNV)

end Sys2Proof.Machine
end

