-- ==== Sys2Proof/Machine/Flags.lean ====
section
/-! DEFINITION. The flags of FFLAGS as instructions raise them (02_formats R27, R31, 05_vector_registers R104): a result
code with the flags beside it, written to its destination together. -/

namespace Sys2Proof.Machine

/-- The flags of several results, ORed together. -/
def flagsOf (l : List FRes) : FFl := l.foldl (fun f r => f ||| r.2) flNone

/-- A result that raises nothing. -/
def quiet (x : Nat) : FRes := (x, flNone)

/-- A truth value as an integer result, with the flags of the comparison (R30). -/
def boolRes (r : Bool × FFl) : FRes := (b2n r.1, r.2)

/-- A result written to s[d] and its flags ORed into FFLAGS, also when d is s0 (R31, 04 R77). -/
def Core.putF (c : Core) (d : BitVec 5) (r : FRes) : Core := (c.writeS d (wn r.1)).raiseFl r.2

/-- Results for the elements of `w` bits of v[d] that the predicate activates: the others keep their value and raise
nothing (05 R101, R104). A write of every element clears the poison bit; a write of part leaves it (05 R100). -/
def Core.putV (c : Core) (d : BitVec 5) (p : BitVec 3) (w : Nat) (f : Nat → FRes) : Core :=
  let q := c.readP p
  let old := c.readV d
  let rs := tab (fun k => if active q w k then f k else quiet (elem w old k)) 0 (lanes w)
  let x := ofElems w (rs.map Prod.fst)
  let c1 := if (tab id 0 (lanes w)).all (active q w) then c.writeV d x else c.mergeV d x
  c1.raiseFl (flagsOf rs)

/-- A comparison of every element of `w` bits: the bytes of an active element whose condition holds get ones in p[d], all
others zeros; flags come from active elements, also when d is p0 (05 R106). -/
def Core.putCmp (c : Core) (d p : BitVec 3) (w : Nat) (f : Nat → Bool × FFl) : Core :=
  let q := c.readP p
  let rs := tab (fun k => if active q w k then f k else (false, flNone)) 0 (lanes w)
  (c.writeP d (ofActive w (fun k => (nth (false, flNone) rs k).1))).raiseFl (rs.foldl (fun x r => x ||| r.2) flNone)

end Sys2Proof.Machine
end

