-- ==== Sys2Proof/Machine/Storage.lean ====
section
/-! DEFINITION. The storage of 07_memories: the physical address map, SRAM with its full/empty and poison bits, the
homes with their hearth parts, and the L1 and L2 caches of the cores. -/

namespace Sys2Proof.Machine

/-! ### Monitoring counters that follow a core (16 R359, R360) -/

/-- Every PMC whose PMSEL counts event `code` moves on by `n`. -/
def Core.count (c : Core) (code n : Nat) : Core :=
  if c.pmsel.toList.any (fun x => x.getLsbD 8 && fld x 0 8 == code) then
    { c with pmc := Vector.ofFn (fun i => if c.pmsel[i].getLsbD 8 && fld c.pmsel[i] 0 8 == code then c.pmc[i] + wn n else c.pmc[i]) }
  else c

/-! ### Bytes and lines -/

/-- A committed byte of memory. -/
def memGet (m : Memory) (a : Nat) : Byte := tget (Memory.blank a) m a
/-- A byte of memory written, keeping the canonical form. -/
def memSet (m : Memory) (a : Nat) (b : Byte) : Memory := if b = Memory.blank a then tdel m a else tset m a b

/-- Bytes from address `a` upwards. -/
def memBytes (m : Memory) (a n : Nat) : List Byte := tab (memGet m) a n
/-- Bytes written from address `a` upwards. -/
def memPut : Memory → Nat → List Byte → Memory
  | m, _, [] => m
  | m, a, b :: t => memPut (memSet m a b) (a + 1) t

/-- The line of a storage address. -/
def lineOf (a : Nat) : Nat := a / 128
/-- Byte `i` of a line. -/
def lineByte (d : BitVec 1024) (i : Nat) : Byte := d.extractLsb' (8 * i) 8
/-- A byte mask spread over the bits it governs. -/
def spread (m : BitVec 128) : BitVec 1024 :=
  BitVec.ofNat 1024 (ofDigits 8 (tab (fun i => if m.getLsbD i then 255 else 0) 0 128))
/-- `new` where the mask says so, else `old`. -/
def mergeData (old new : BitVec 1024) (m : BitVec 128) : BitVec 1024 :=
  (old &&& ~~~(spread m)) ||| (new &&& spread m)
/-- The 128 bytes of a line as one bit vector. -/
def packLine (l : List Byte) : BitVec 1024 := BitVec.ofNat 1024 (ofBytes l)
/-- Every byte of a line. -/
def fullMask : BitVec 128 := BitVec.allOnes 128

/-! ### The physical address map (R145) -/

def hbmTop : Nat := 0x6000000000
def lpddrBase : Nat := 0x10000000000
def cxlBase : Nat := 0x100000000000
def cxlTop : Nat := 0x200000000000
def mmioBase : Nat := 0xF000000000000
def paTop : Nat := 2 ^ 52

/-- Tier of a physical address: 0 HBM, 1 LPDDR 6, 2 CXL, as the PTE codes them (13 R274). -/
def tierOf (pa : Nat) : Nat := if pa < hbmTop then 0 else if pa < cxlBase then 1 else 2

/-- The home port of a line. -/
def homeOf (pa : Nat) : Nat :=
  if pa < hbmTop then pa / 0x30000000 else (bits pa 12 9) ^^^ (bits pa 21 9)

/-- Whether a CXL address lies in an HDM decoder of an expander (17 R370). -/
def cxlMapped (g : Package) (pa : Nat) : Bool := g.hdm.any (fun e => within pa e.2.base e.2.len)
/-- Whether the expander behind a CXL address is still there (13 R292). -/
def cxlPresent (g : Package) (pa : Nat) : Bool :=
  g.hdm.any (fun e => within pa e.2.base e.2.len && !(g.cxlGone.contains (e.1 / 4 * 4 + e.2.expander)))

/-- The port that a hash of an address picks among those that are up (17 R372). -/
def Package.portOf (g : Package) (a : Nat) : Option (Nat × AtfPort) :=
  let ups := g.atf.filter (fun x => x.2.up)
  ups[Config.atfinHash a % ups.length]?
/-- Whether the port of an address retrains, so that a request to it waits at the sender (17 R372). -/
def Package.portHeld (g : Package) (a : Nat) : Bool := (g.portOf a).any (fun x => x.2.retrain)
/-- A port to the fabric is up. -/
def Package.fabricUp (g : Package) : Bool := g.atf.any (fun x => x.2.up)
/-- Whether an address has nothing left that answers: its expander is gone (13 R292), or it is another package's and no port to the fabric
is up (17 R372). -/
def State.gone (s : State) (a : Nat) : Bool :=
  (within a cxlBase (cxlTop - cxlBase) && !cxlPresent s.pkg a) || (2 ^ 60 ≤ a && decide (a < 2 ^ 63) && !s.pkg.fabricUp)
/-- Whether a physical address has storage behind it; the LPDDR 6 tier ends at 2 TiB. -/
def hasStorage (g : Package) (pa : Nat) : Bool :=
  pa < hbmTop || within pa lpddrBase (min g.lpddrGiB 2048 * 2 ^ 30) || (within pa cxlBase (cxlTop - cxlBase) && cxlMapped g pa)
/-- Whether an access may go to a physical address: storage stands behind it, and an HBM address's die has finished its
lane test and training (10 R213). -/
def State.reachable (s : State) (pa : Nat) : Bool :=
  hasStorage s.pkg pa && (hbmTop ≤ pa || (s.dieAt (homeOf pa / 128)).vbusok.getLsbD 0)
/-- Whether a physical address lies in the MMIO windows. -/
def isMmio (pa : Nat) : Bool := mmioBase ≤ pa && pa < paTop

/-- Storage address of a physical address on another package (13 R281). -/
def peerAddr (pkg rpa : Nat) : Nat := 2 ^ 60 + pkg * 2 ^ 52 + rpa
/-- Whether a storage address lies on another package. -/
def isPeer (a : Nat) : Bool := 2 ^ 60 ≤ a && a < 2 ^ 63

/-! ### SRAM (R142, R144, R159) -/

/-- Storage address of the SRAM region of a compute core. -/
def sramBase (core : Nat) : Nat := 2 ^ 56 + core * 2 ^ 22
/-- Whether a storage address is SRAM. -/
def isSram (a : Nat) : Bool := 2 ^ 56 ≤ a && a < 2 ^ 60
/-- The core whose region holds an SRAM address, and the offset in it. -/
def sramCore (a : Nat) : Nat := (a - 2 ^ 56) / 2 ^ 22
def sramOff (a : Nat) : Nat := (a - 2 ^ 56) % 2 ^ 22
/-- Bytes of scratchpad under an L1 size (R146). -/
def spSize (c : Core) : Nat := 0xC0000 - c.l1sz.toNat * 0x10000
/-- Whether an offset of a core's region is scratchpad or a converted way (R144). -/
def sramAssigned (c : Core) (off : Nat) : Bool :=
  off < spSize c || (within off 0x100000 0x100000 && c.l2scr.getLsbD ((off - 0x100000) / 0x10000))

/-- The unit for poison that holds a storage address: the 8-byte word of SRAM, the 128-byte line else (R156). -/
def poisonUnit (a : Nat) : Nat := if isSram a then a / 8 * 8 else a / 128 * 128
/-- A poison unit marked or cleared. -/
def State.setPoison (s : State) (u : Nat) (b : Bool) : State :=
  { s with poison := if b then ninsert s.poison u else nerase s.poison u }
/-- A full/empty bit set. -/
def State.setFull (s : State) (w : Nat) (b : Bool) : State :=
  { s with full := if b then ninsert s.full w else nerase s.full w }
def State.isFull (s : State) (w : Nat) : Bool := s.full.contains w

/-- Bytes written into SRAM banks from a storage address upwards; a word written whole loses its poison (R156). -/
def State.sramPut (s : State) (a : Nat) (l : List Byte) : State :=
  let s1 := { s with mem := memPut s.mem a l }
  (tab (fun k => a / 8 * 8 + 8 * k) 0 (l.length / 8 + 2)).foldl
    (fun t w => if a ≤ w && w + 8 ≤ a + l.length then t.setPoison w false else t) s1

/-- Everything in `[a, a + n)` of SRAM cleared: bytes 0, words empty, poison clear (R146, R151). -/
def State.sramClear (s : State) (a n : Nat) : State :=
  { s with mem := s.mem.filter (fun c => !within c.1 a n), full := s.full.filter (fun w => !within w a n),
           poison := s.poison.filter (fun w => !within w a n) }

/-! ### The homes and their hearth parts (R152) -/

/-- A hearth part's copy of a line; none is asked for that is not held. -/
def State.hearthAt (s : State) (line : Nat) : HearthLine :=
  tget { line := 0, data := 0, dirty := false, poison := false } s.hearth line

/-- A byte as its home has it: from the hearth part, or from the tier; one of another package is what that package's memory holds,
a free value. -/
def State.homeByte (s : State) (x : Nat) : Byte :=
  let a := canonAddr x
  if isPeer a then Config.peerByte (s.fresh * 2 ^ 64 + a)
  else if thas s.hearth (lineOf a) then lineByte (s.hearthAt (lineOf a)).data (a % 128) else memGet s.mem a
/-- The line as its home has it; a view line is built from its whole block (R166). -/
def State.homeLine (s : State) (line : Nat) : BitVec 1024 :=
  if isView line then packLine (tab (fun i => s.homeByte (line * 128 + i)) 0 128)
  else if isPeer (line * 128) then packLine (tab (fun i => Config.peerByte (s.fresh * 2 ^ 64 + line * 128 + i)) 0 128)
  else if thas s.hearth line then (s.hearthAt line).data
  else packLine (memBytes s.mem (line * 128) 128)
/-- A doubleword as its home has it (13 R275). -/
def State.homeWord (s : State) (a : Nat) : Word := wn (ofBytes (tab s.homeByte a 8))

/-- Whether the home's line is poisoned. -/
def State.homePoison (s : State) (line : Nat) : Bool :=
  (decide (line * 128 < hbmTop) && (s.homeAt (homeOf (lineBase line))).degraded) ||
  if thas s.hearth line then (s.hearthAt line).poison else s.poison.contains (line * 128)

/-- A vertical-bus group that is disabled leaves its two hearth parts bypassed (10 R210). -/
def State.bypassed (s : State) (h : Nat) : Bool :=
  match (s.dieAt (h / 128)).vbus.find? (fun e => e.1 == h % 128 / 2) with
  | some e => e.2.disabled
  | none => false

/-- The tier of a line takes nothing: its home lost a lane beyond its spares (10 R211). -/
def State.lostHome (s : State) (line : Nat) : Bool := decide (lineBase line < hbmTop) && (s.homeAt (homeOf (lineBase line))).degraded

/-- Whether a pseudo-channel takes no activate for a line's bank now: an all-bank refresh, an alert's command owed for the bank, or its
due refresh (10 R208, R209). -/
def Home.stalls (h : Home) (line : Nat) : Bool :=
  h.allBank || h.alerts.contains (Config.bankOf line).val || h.due.contains (Config.bankOf line).val

/-- A hearth line written back to its tier when dirty, and dropped (R152, R153). What a lost tier would take is discarded; a dirty
line of an expander that is gone is lost, poisoned (13 R292). -/
def State.hearthEvict (s : State) (line : Nat) : State :=
  if thas s.hearth line then
    let h := s.hearthAt line
    let s1 := { s with hearth := tdel s.hearth line }
    if h.dirty && !s.lostHome line then
      ({ s1 with mem := memPut s1.mem (line * 128) (tab (lineByte h.data) 0 128) }).setPoison (line * 128) h.poison
    else s1
  else s
/-- Whether an address lies in an expander of CXL port 0 while the host link, which that port shares, is down (17 R369). -/
def State.linkDown (s : State) (pa : Nat) : Bool := !s.pkg.hostUp && s.pkg.hdm.any (fun e => decide (e.1 < 4) && within pa e.2.base e.2.len)
/-- Whether the tier of a line answers nothing now: its bank takes no activate (10 R208), or it is an expander of CXL port 0 and the
host link, which that port shares, is down (17 R369). -/
def State.tierHeld (s : State) (line : Nat) : Bool :=
  (decide (lineBase line < hbmTop) && (s.homeAt (homeOf (lineBase line))).stalls (lineOf (lineBase line))) ||
  s.linkDown (lineBase line)
/-- Whether a hearth line can leave now: a dirty one is written back, which its tier must take (10 R208). -/
def State.mayLeave (s : State) (line : Nat) : Bool := !(s.hearthAt line).dirty || s.lostHome line || !s.tierHeld line
/-- The lines of a set of a hearth part that a line not held would need one of; none while the set has a way free (R142; log entry
28). -/
def State.hearthRivals (s : State) (line : Nat) : List Nat :=
  let here := (s.hearth.map Prod.fst).filter (fun l => homeOf (lineBase l) == homeOf (lineBase line))
  if here.length < 16 || here.contains line then []
  else
    let set := here.filter (fun l => Config.hearthSet l == Config.hearthSet line)
    if set.length < 16 then [] else set
/-- Whether a home can not serve a line now: its hearth part does not hold it, and its tier answers nothing or no line of its set can
leave (10 R208, 17 R369); or the line is another package's and its port retrains (17 R372). -/
def State.homeHeld (s : State) (line : Nat) : Bool :=
  if isPeer (line * 128) then s.pkg.portHeld (line * 128)
  else !isSram (line * 128) && !thas s.hearth line &&
    (s.tierHeld line || (!(s.hearthRivals line).isEmpty && !(s.hearthRivals line).any s.mayLeave))
/-- A set of a hearth part that is full gives up a line for another, one that can leave. -/
def State.roomHearth (s : State) (line : Nat) : State :=
  match s.hearthRivals line with
  | [] => s
  | set =>
    let may := set.filter s.mayLeave
    (s.hearthEvict (nth line may (Config.cacheVictim s.fresh % may.length))).used 1
/-- A line put into its hearth part. -/
def State.hearthPut (s : State) (l : HearthLine) : State :=
  let t := s.roomHearth l.line
  { t with hearth := tset t.hearth l.line l }

/-- The view lines of a line's block leave the hearth part (08 R185). -/
def State.dropViews (s : State) (line : Nat) : State :=
  if s.hearth.any (fun e => isView e.1 && viewBlock e.1 == line / 32) then
    { s with hearth := s.hearth.filter (fun e => !(isView e.1 && viewBlock e.1 == line / 32)) }
  else s
/-- Bytes of a line written at its home: the hearth part takes the line, dirty, or the tier where it is bypassed. A write to a pseudo-channel that lost a
lane beyond its spares is discarded (10 R211). -/
def State.homeStore (s0 : State) (line : Nat) (data : BitVec 1024) (mask : BitVec 128) (whole : Bool) : State :=
  let s := s0.dropViews line
  if s.lostHome line then s
  else if s.bypassed (homeOf (lineBase line)) then
    ({ s with mem := memPut s.mem (line * 128) (tab (lineByte (mergeData (s.homeLine line) data mask)) 0 128) }).setPoison
      (line * 128) (!whole && s.homePoison line)
  else
    s.hearthPut { line := line, data := mergeData (s.homeLine line) data mask, dirty := true, poison := !whole && s.homePoison line }

/-- A home's line marked poisoned. -/
def State.poisonLine (s : State) (line : Nat) : State :=
  if thas s.hearth line then
    let l : HearthLine := { s.hearthAt line with poison := true }
    { s with hearth := tset s.hearth line l }
  else s.setPoison (line * 128) true

/-- A request that a core sends to the home of a line: its monitoring counters see a hearth hit or a miss, and a request over a
die-to-die link (16 R360). -/
def State.asked (s : State) (a line : Nat) : State :=
  if isSram (line * 128) || isPeer (line * 128) then s
  else
    s.mapCore a (fun c =>
      let d := if s.bypassed (homeOf (lineBase line)) then c else c.count (if thas s.hearth line then 8 else 9) 1
      if homeOf (lineBase line) / 128 == dieOf a then d else d.count 0x13 1)
/-- A request served at the home port of a line: the hearth part counts a hit, or a miss and fills the line (R152,
16 R361). -/
def State.homeTouch (s : State) (line : Nat) : State :=
  if isPeer (line * 128) || isSram (line * 128) || s.bypassed (homeOf (lineBase line)) then s
  else if thas s.hearth line then s.mapHome (homeOf (lineBase line)) (fun h => { h with hrHit := h.hrHit + 1 })
  else
    (s.hearthPut { line := line, data := s.homeLine line, dirty := false, poison := s.homePoison line }).mapHome (homeOf (lineBase line)) (fun h => { h with hrMiss := h.hrMiss + 1 })

/-! ### Hotness counting (13 R295) and pages in motion (13 R290) -/

/-- Bytes of a page in motion: 4 KiB, 64 KiB or 2 MiB (13 R288). -/
def migBytes (e : MigEntry) : Nat := match e.size.toNat with | 0 => 4096 | 1 => 65536 | _ => 2097152

/-- The line of the destination copy that a write to a moved line also reaches (13 R290). -/
def State.copyLine (s : State) (line : Nat) : Option Nat :=
  (tab id 0 4).findSome? (fun d =>
    (s.dieAt d).migs.findSome? (fun e =>
      if within (line * 128) e.2.src (migBytes e.2) && e.2.phase != 2 && e.2.ended.isNone && line - e.2.src / 128 < e.2.next
      then some (e.2.dst / 128 + (line - e.2.src / 128)) else none))
/-- Whether a line belongs to a page in motion: an entry covers it, also one that aborts (13 R288, R295). -/
def State.inMotion (s : State) (line : Nat) : Bool :=
  (tab id 0 4).any (fun d => (s.dieAt d).migs.any (fun e => within (line * 128) e.2.src (migBytes e.2) && e.2.ended.isNone))
/-- Whether a write of a line can not land now: at its home, or at the copy that it also reaches (13 R290). -/
def State.writeHeld (s : State) (line : Nat) (heap : Bool) : Bool :=
  s.homeHeld line || (!heap && (s.copyLine line).any s.homeHeld)

/-- A qualifying request at a home port: every RATE-th is sampled. -/
def State.hotRequest (s : State) (pa : Nat) : State :=
  let h := homeOf pa
  let rate := fld (s.dieAt (h / 128)).hsample 0 16
  let m := s.inMotion (lineOf pa)
  s.mapHome h (fun x =>
    if rate = 0 then x
    else if x.reqs + 1 < rate then { x with reqs := x.reqs + 1 }
    else { x with reqs := 0, waiting := x.waiting ++ [(pa / 2 ^ 16, m)] })

/-- A request sent on the fabric (17 R372): on the port of its address, or waiting there while the port retrains. -/
def Package.sendFlit (g : Package) (a : Nat) : Package :=
  match g.portOf a with
  | none => g
  | some (k, p) =>
    if p.retrain then { g with atf := tset g.atf k { p with held := p.held ++ [a] } }
    else { g with atf := tset g.atf k { p with buffer := p.buffer ++ [a] }, flits := a :: g.flits }

/-- A write arriving at the home: counted for hotness, and carried to a moved line's copy unless it came by the heap.
A write to another package's memory leaves on the fabric. -/
def State.homeArrive (s : State) (line : Nat) (data : BitVec 1024) (mask : BitVec 128) (whole hot heap : Bool) :
    State :=
  if isPeer (line * 128) then s.mapPkg (fun g => g.sendFlit (line * 128))
  else
    let s1 := (if hot then s.hotRequest (line * 128) else s).homeTouch line
    let s2 := s1.homeStore line data mask whole
    match if heap then none else s.copyLine line with
    | some l => s2.homeStore l data mask whole
    | none => s2

/-- The lines of a range. -/
def rangeLines (pa n : Nat) : List Nat := tab id (lineOf pa) (lineOf (pa + (n - 1)) + 1 - lineOf pa)
/-- A home of a range can not serve it now (10 R208). -/
def State.rangeHeld (s : State) (pa n : Nat) : Bool := (rangeLines pa n).any (fun l => s.writeHeld l true)
/-- The requests for every line of a range reach their homes (16 R361). -/
def State.touchRange (s : State) (pa n : Nat) : State := (rangeLines pa n).foldl State.homeTouch s

/-! ### Copies of a line (08 R171, R185) -/

/-- A cache's copy of a line. -/
def findLine : List CacheLine → Nat → Option CacheLine
  | [], _ => none
  | x :: t, n => if x.line = n then some x else findLine t n
/-- A cache with its copy of a line replaced, put in, or (with nothing valid) taken out. -/
def putLine : List CacheLine → CacheLine → List CacheLine
  | [], y => if y.valid = 0 then [] else [y]
  | x :: t, y => if x.line = y.line then (if y.valid = 0 then t else y :: t) else x :: putLine t y
/-- A cache without a line. -/
def dropLine : List CacheLine → Nat → List CacheLine
  | [], _ => []
  | x :: t, n => if x.line = n then t else x :: dropLine t n

/-- Clean copies of a line dropped from a cache, with the bytes of the mask given up altogether. -/
def killIn (l : List CacheLine) (line : Nat) (mask : BitVec 128) : List CacheLine :=
  match findLine l line with
  | none => l
  | some x => putLine l { x with valid := x.dirty &&& ~~~mask, dirty := x.dirty &&& ~~~mask }

/-- A cache without the view lines of a line's block (08 R185). -/
def killViews (l : List CacheLine) (line : Nat) : List CacheLine := l.filter (fun x => !(isView x.line && viewBlock x.line == line / 32))
/-- A commit's effect on the copies of a line in the caches of the die, the writer's own aside, and on every view line of its block
(08 R171, R185). -/
def State.killCopies (s : State) (d line : Nat) (mask : BitVec 128) (writer : Option Nat) : State :=
  s.each (s.liveAgents d) (fun t b =>
    t.mapCore b (fun c =>
      let c1 := { c with l1 := killViews c.l1 line, l2 := killViews c.l2 line }
      if writer = some b then c1 else { c1 with l1 := killIn c1.l1 line mask, l2 := killIn c1.l2 line mask }))

/-- One push lands: copies that the die took while it was on its way go with it, and view lines built then (08 R171, R185). The request
counts for the core that sent it. -/
def State.landPush (s : State) (p : Push) : State :=
  ((if p.core then s.asked p.agent p.line else s).homeArrive p.line p.data p.mask p.whole p.hot p.heap).killCopies (dieOf p.agent) p.line 0 (some p.agent)
/-- Commits that have completed are no longer kept: none of their core's bytes, up to theirs, is still on its way (08 R171). -/
def State.pruneCommits (s : State) : State :=
  { s with commits := s.commits.filter (fun c => s.pushes.any (fun p => p.agent == c.agent && p.group ≤ c.group)) }
/-- Two pushes of one commit's scaled groups, which land together (08 R184). -/
def Push.tiedWith (p q : Push) : Bool := p.tied && q.tied && q.group == p.group
/-- Whether a push of `all` must wait behind those of `kept`: its home can not take it, or that of one it is tied to, or an older write of
its line waits. -/
def State.pushHeld (s : State) (all kept : List Push) (p : Push) : Bool :=
  s.writeHeld p.line p.heap || kept.any (fun q => q.line == p.line || p.tiedWith q) ||
  all.any (fun q => p.tiedWith q && s.writeHeld q.line q.heap)
/-- The bytes of the commits up to number `g` land, oldest commit first, but those whose home can not take them now (log entry 8: an
acknowledgement may come at any time). -/
def State.landThrough (s : State) (g : Nat) : State :=
  let l := s.pushes.filter (fun p => p.group ≤ g)
  let r := l.foldl (fun (x : State × List Push) p => if x.1.pushHeld l x.2 p then (x.1, x.2 ++ [p]) else (x.1.landPush p, x.2)) ({ s with pushes := [] }, [])
  ({ r.1 with pushes := r.2 ++ s.pushes.filter (fun p => g < p.group) } : State).pruneCommits
/-- Every byte on its way lands that its home takes, oldest commit first. -/
def State.landAll (s : State) : State := s.landThrough s.serial
/-- The pushes on their way to a line land that its home takes, with whatever is older. -/
def State.landLine (s : State) (line : Nat) : State :=
  match (s.pushes.filter (fun p => p.line == line)).map Push.group with
  | [] => s
  | g :: t => s.landThrough (t.foldl max g)
/-- Some of a core's writes have not reached their homes: its commits, or what its caches wrote back. -/
def State.incomplete (s : State) (a : Nat) : Bool := s.pushes.any (fun p => p.agent == a)

/-- A write that reaches a home behind whatever is on its way to the same line; one that its home can not take is on its way, for agent
`a` (10 R208); `core` tells a core's own request, which its counters see. -/
def State.homeWrite (s : State) (core : Bool) (a line : Nat) (data : BitVec 1024) (mask : BitVec 128) (whole hot heap : Bool) : State :=
  let s1 := s.landLine line
  if s1.writeHeld line heap || s1.pushes.any (fun p => p.line == line) then
    let p : Push := { agent := a, group := s1.serial, line := line, data := data, mask := mask, whole := whole, hot := hot, heap := heap, tied := false, core := core }
    let c : Commit := { agent := a, group := s1.serial, lines := [line] }
    ({ s1 with pushes := s1.pushes ++ [p], commits := s1.commits ++ [c] } : State).tick
  else (if core then s1.asked a line else s1).homeArrive line data mask whole hot heap

/-! ### Caches (R142, R149, 08 R171) -/

/-- Poison of a line under one cache's copy of it: a copy with every byte dirty answers for the line alone (07 R156). -/
def CacheLine.overPoison (x : CacheLine) (p : Bool) : Bool :=
  if x.dirty = 0 then p else if x.dirty = fullMask then x.poison else p || x.poison
/-- A line with the dirty bytes of one agent's L2 and L1 laid over it. -/
def overDirty (c : Core) (line : Nat) (d : BitVec 1024 × Bool) : BitVec 1024 × Bool :=
  let lay := fun (l : List CacheLine) (d : BitVec 1024 × Bool) =>
    match findLine l line with
    | some x => (mergeData d.1 x.data x.dirty, x.overPoison d.2)
    | none => d
  lay c.l1 (lay c.l2 d)

/-- A byte that a cache holds dirty. -/
def dirtyByte (l : List CacheLine) (a : Nat) : Option Byte :=
  match findLine l (lineOf a) with
  | some x => if x.dirty.getLsbD (a % 128) then some (lineByte x.data (a % 128)) else none
  | none => none

/-- A byte with the dirty copies of a die laid over it. -/
def State.overDie (s : State) (d a : Nat) (x : Byte) : Byte :=
  (s.liveAgents d).foldl
    (fun x b => ((dirtyByte (s.coreAt b).l1 a).orElse (fun _ => dirtyByte (s.coreAt b).l2 a)).getD x) x
/-- A committed byte as an agent of die `d` without a copy of its own finds it (R171, R180). -/
def State.dieByte (s : State) (d a : Nat) : Byte := s.overDie d (canonAddr a) (s.homeByte a)

/-- The committed line as an agent of die `d` without a copy of its own finds it: the home's bytes under every dirty
byte of the die's caches (08 R171, R180). -/
def State.dieLine (s : State) (d line : Nat) : BitVec 1024 × Bool :=
  if isView line then (packLine (tab (fun i => s.dieByte d (line * 128 + i)) 0 128), false)
  else (s.liveAgents d).foldl (fun x a => overDirty (s.coreAt a) line x) (s.homeLine line, s.homePoison line)

/-- The line as core `a` sees it: its own copies first. -/
def State.coreLine (s : State) (a line : Nat) : BitVec 1024 × Bool :=
  let c := s.coreAt a
  let d := s.dieLine (dieOf a) line
  let d1 := match findLine c.l2 line with
    | some x => (mergeData d.1 x.data x.valid, if x.valid = fullMask then x.poison else d.2 || x.poison)
    | none => d
  match findLine c.l1 line with
  | some x => (mergeData d1.1 x.data x.valid, if x.valid = fullMask then x.poison else d1.2 || x.poison)
  | none => d1

/-- A byte that a cache holds. -/
def heldByte (l : List CacheLine) (a : Nat) : Option Byte :=
  match findLine l (lineOf a) with
  | some x => if x.valid.getLsbD (a % 128) then some (lineByte x.data (a % 128)) else none
  | none => none
/-- A committed byte as core `a` sees it through its caches. -/
def State.cacheByte (s : State) (agent a : Nat) : Byte :=
  let c := s.coreAt agent
  match heldByte c.l1 a with
  | some b => b
  | none => match heldByte c.l2 a with
    | some b => b
    | none => s.dieByte (dieOf agent) a

/-- Poison of a line as an agent of die `d` finds it. -/
def State.diePoison (s : State) (d line : Nat) : Bool :=
  let lay := fun (l : List CacheLine) (p : Bool) => match findLine l line with | some x => x.overPoison p | none => p
  (s.liveAgents d).foldl (fun p b => lay (s.coreAt b).l1 (lay (s.coreAt b).l2 p)) (s.homePoison line)

/-- Poison of a line as core `a` sees it: a whole copy of its own answers for it. -/
def State.cachePoison (s : State) (agent line : Nat) : Bool :=
  let c := s.coreAt agent
  let p := match findLine c.l2 line with
    | some x => if x.valid = fullMask then x.poison else s.diePoison (dieOf agent) line || x.poison
    | none => s.diePoison (dieOf agent) line
  match findLine c.l1 line with
  | some x => if x.valid = fullMask then x.poison else p || x.poison
  | none => p

/-- The commits that must complete before a die agent accesses some lines: another core's of its die that wrote one of them, and its own
whose bytes are on their way to a line that its L1 does not hold whole. -/
def State.touched (s : State) (die : Nat) (own : Option Nat) (lines : List Nat) : List Nat :=
  let held := fun (a l : Nat) => match findLine (s.coreAt a).l1 l with | some x => x.valid == fullMask | none => false
  (s.commits.filter (fun c => dieOf c.agent == die && c.lines.any (fun l =>
    lines.contains l && (own != some c.agent || (s.pushes.any (fun p => p.agent == c.agent && p.line == l) && !held c.agent l))))).map Commit.group
/-- A die agent is about to access some lines: a commit of another core of its die that wrote one of them completes first, and
its own bytes on their way to a line that its L1 does not hold whole land (08 R171: no agent reads a write of a commit that is
not complete; log entry 8). -/
def State.touch (s : State) (die : Nat) (own : Option Nat) (lines : List Nat) : State :=
  match s.touched die own lines with
  | [] => s
  | g :: t => s.landThrough (t.foldl max g)
/-- Some of those commits can not complete now, a home of theirs taking nothing. -/
def State.touchHeld (s : State) (die : Nat) (own : Option Nat) (lines : List Nat) : Bool :=
  !((s.touch die own lines).touched die own lines).isEmpty

/-- The dirty bytes of one cached line written to its home, poisoned if they have failed (10 R201); the line stays, clean. A migration's
copy takes them without counting them for hotness (19 R397). -/
def State.cleanLine (s : State) (a : Nat) (l2 : Bool) (line : Nat) (copying : Bool := false) : State :=
  let c := s.coreAt a
  match findLine (if l2 then c.l2 else c.l1) line with
  | none => s
  | some x =>
    if x.dirty = 0 then s
    else
      let s0 := s.homeWrite true a line x.data x.dirty (x.dirty == fullMask && !x.poison && !x.bad) (x.hot && !copying) x.heap
      let s1 := if x.bad then s0.poisonLine line else s0
      s1.mapCore a (fun c =>
        if l2 then { c with l2 := putLine c.l2 { x with dirty := 0 } }
        else { c with l1 := putLine c.l1 { x with dirty := 0 } })

/-- REL's effect on the caches (08 R177): every committed dirty byte of own L1 and L2 written to its home, L2's older
bytes first. -/
def State.pushDirty (s : State) (a : Nat) : State :=
  let s1 := s.each ((s.coreAt a).l2.map CacheLine.line) (fun t l => t.cleanLine a true l)
  s1.each ((s1.coreAt a).l1.map CacheLine.line) (fun t l => t.cleanLine a false l)

/-- ACQ's effect on the caches (08 R177): as REL, then every line invalidated. -/
def State.dropCaches (s : State) (a : Nat) : State :=
  (s.pushDirty a).mapCore a (fun c => { c with l1 := [], l2 := [] })

/-! ### What the caches give up and take (R149, R155) -/

/-- A line leaves L2, its dirty bytes written to the home. -/
def State.evictL2 (s : State) (a line : Nat) : State :=
  (s.cleanLine a true line).mapCore a (fun c => { c with l2 := dropLine c.l2 line })

/-- The L2 ways that allocate (R150). -/
def Core.openWays (c : Core) : List Nat := (tab id 0 16).filter (fun k => !(c.l2held ||| c.l2scr).getLsbD k)
/-- A set of L2 that is full gives up a line for another (R142; which one, and how lines are laid out in sets, log entry 28). -/
def State.roomL2 (s : State) (a line : Nat) : State :=
  let c := s.coreAt a
  let n := c.openWays.length
  if c.l2.length < n then s
  else
    let set := (c.l2.map CacheLine.line).filter (fun l => Config.l2Set l == Config.l2Set line)
    if set.length < n then s else (s.evictL2 a (nth line set (Config.cacheVictim s.fresh % set.length))).used 1
/-- The ways that allocate and hold no line of a set. -/
def Core.freeWays (c : Core) (line : Nat) : List Nat :=
  c.openWays.filter (fun k => !c.l2.any (fun x => Config.l2Set x.line == Config.l2Set line && x.way.toNat == k))
/-- A line put into L2, in a way of its choice that is free, over what L2 holds of it; with no way that allocates L2 does not take
it. -/
def State.putL2 (s : State) (a : Nat) (x : CacheLine) : State :=
  match findLine (s.coreAt a).l2 x.line with
  | some y => s.mapCore a (fun c => { c with l2 := putLine c.l2 { x with way := y.way } })
  | none =>
    if (s.coreAt a).openWays.isEmpty then s
    else
      let t := s.roomL2 a x.line
      let ways := (t.coreAt a).freeWays x.line
      let way := BitVec.ofNat 4 (nth 0 ways ((Config.l2Way s.fresh x.line).val % ways.length))
      (t.mapCore a (fun c => { c with l2 := putLine c.l2 { x with way := way } })).used 1

/-- One cache's copy of a line laid over another's: the dirty bytes of both, the data of the first where it holds any. -/
def CacheLine.onto (x y : CacheLine) : CacheLine :=
  { y with data := mergeData y.data x.data x.valid, valid := y.valid ||| x.valid, dirty := y.dirty ||| x.dirty, poison := x.poison || (y.poison && x.valid != fullMask), bad := x.bad || (y.bad && x.valid != fullMask), hot := x.hot || y.hot, heap := x.heap }
/-- A line leaves L1: L2 takes its dirty bytes, or the home does when no way of L2 allocates. -/
def State.evictL1 (s : State) (a line : Nat) : State :=
  let c := s.coreAt a
  match findLine c.l1 line with
  | none => s
  | some x =>
    let t := match findLine c.l2 line with
      | some y => s.putL2 a (x.onto y)
      | none => if x.dirty = 0 then s else if c.openWays.isEmpty then s.cleanLine a false line else s.putL2 a x
    t.mapCore a (fun c => { c with l1 := dropLine c.l1 line })
/-- L1 gives up lines while it holds more than its size (R142, R146; which ones, log entry 28). -/
def State.roomL1 (s : State) (a line : Nat) : State :=
  let l := ((s.coreAt a).l1.map CacheLine.line).filter (fun x => x != line)
  if l.length < (s.coreAt a).l1sz.toNat * 512 then s else (s.evictL1 a (nth line l (Config.cacheVictim s.fresh % l.length))).used 1

/-- The request for a line at its home, counted for hotness when a HOT leaf asks (13 R295). -/
def State.homeAsk (s : State) (line : Nat) (hot : Bool) : State := (if hot then s.hotRequest (lineBase line) else s).homeTouch line
/-- A core's request for a line that its L2 misses; a view line is built for it (16 R360). -/
def State.coreAsk (s : State) (a line : Nat) (hot : Bool) : State :=
  ((s.asked a line).homeAsk line hot).mapCore a (fun c => let d := c.count 7 1; if isView line then d.count 0x12 1 else d)
/-- An L1 that misses asks L2, which takes a clean copy of what it does not hold from the home (R149). -/
def State.fillL2 (s : State) (a line : Nat) (hot heap : Bool) : State :=
  let d := s.dieLine (dieOf a) line
  match findLine (s.coreAt a).l2 line with
  | some y =>
    if y.valid = fullMask then s
    else (s.coreAsk a line hot).putL2 a { y with data := mergeData d.1 y.data y.valid, valid := fullMask, poison := y.poison || d.2 }
  | none =>
    (s.coreAsk a line hot).putL2 a { line := line, data := d.1, valid := fullMask, dirty := 0, poison := d.2, bad := false, hot := hot, heap := heap, way := 0 }
/-- A load's line: L1 holds it whole afterwards (R149, R155). -/
def State.fill (s : State) (a line : Nat) (hot heap : Bool) : State :=
  let x := (findLine (s.coreAt a).l1 line).getD { line := line, data := 0, valid := 0, dirty := 0, poison := false, bad := false, hot := hot, heap := heap, way := 0 }
  if x.valid = fullMask then s
  else
    let d := s.coreLine a line
    (((s.fillL2 a line hot heap).mapCore a (fun c => c.count 6 1)).mapCore a (fun c => { c with l1 := putLine c.l1 { x with data := d.1, valid := fullMask, poison := d.2 } })).roomL1 a line

/-- Committed bytes over one cache's copy of a line. -/
def CacheLine.put (x : CacheLine) (data : BitVec 1024) (mask : BitVec 128) (dirty whole : Bool) : CacheLine :=
  { x with data := mergeData x.data data mask, valid := x.valid ||| mask, dirty := (if dirty then x.dirty ||| mask else x.dirty &&& ~~~mask), poison := !whole && x.poison, bad := !whole && x.bad }
/-- Committed bytes of a WB (dirty) or WT line put into the writer's own L1; its L2 allocates on the miss, unless the home can not
serve the line, and holds them as a clean copy (R149, R155, 10 R208). -/
def State.installL1 (s : State) (a line : Nat) (data : BitVec 1024) (mask : BitVec 128) (dirty whole : Bool)
    (at' : LineAttr) : State :=
  let t := if (findLine (s.coreAt a).l1 line).isSome then s
    else let u := s.mapCore a (fun c => c.count 6 1); if s.homeHeld line then u else u.fillL2 a line at'.hot at'.heap
  (t.mapCore a (fun c =>
    let none' : CacheLine :=
      { line := line, data := 0, valid := 0, dirty := 0, poison := s.homePoison line, bad := false, hot := at'.hot, heap := at'.heap, way := 0 }
    let x := (findLine c.l1 line).getD none'
    { c with l1 := putLine c.l1 { x.put data mask dirty whole with hot := x.hot || at'.hot, heap := at'.heap },
             l2 := match findLine c.l2 line with | some y => putLine c.l2 (y.put data mask false whole) | none => c.l2 })).roomL1 a line

end Sys2Proof.Machine
end

