-- ==== Sys2Proof/Machine/Translate.lean ====
section
/-! DEFINITION. Where an address goes: the local window, the heap triple, the view windows and the page tables
(07_memories R143, R144, R165, 13_translation_tables R272 to R283). -/

namespace Sys2Proof.Machine

/-- What an access does. -/
inductive Kind where
  | load | store | atomic | fetch
  deriving DecidableEq, Repr

/-- Why an access is not performed; `page` is the page a translation fault posts (ASID · 2^36 + VPN). -/
inductive XFault where
  | translation (va : Word) (type : BitVec 4) (page : Nat)
  | access (va : Word)
  | misalign (va : Word)
  /-- the canonical block of a view window may not be reached through it (R283) -/
  | viewBlock (va : Word)
  /-- no failure: a home can not serve a line of the walk now (10 R208) -/
  | held
  deriving DecidableEq, Repr

/-- A leaf that translates a page, where it was found with the lines that a walk read, and the first leaf of its group when the TLBs
hold the group (13 R276). -/
structure Hit where
  leaf  : Word
  /-- level of the leaf: 0 4 KiB, 1 2 MiB, 2 1 GiB -/
  level : Nat
  walked : Bool
  lines : List Nat
  group : Option Word
  deriving DecidableEq, Repr

/-- Where each byte of an access lies. -/
structure Target where
  cells : List (Nat × LineAttr)
  /-- through a view window, where in its view line each byte lies; else nothing (07 R166) -/
  view  : List Nat
  /-- translations used, as `useKey` -/
  pages : NatSet
  /-- the cacheability and tier of the pages touched, each once -/
  kinds : NatSet
  /-- leaves to hold in the TLBs: VPN and leaf -/
  fills : List (Nat × Hit)
  /-- view blocks touched, with the layout: 0 ROW, 1 COL, 2 TILE; canonical accesses name their block with 3 -/
  blocks : List (Nat × BitVec 2)
  deriving DecidableEq, Repr

/-! ### Page tables (13 R273 to R276) -/

def pteV (p : Word) : Bool := p.getLsbD 0
def pteLeaf (p : Word) : Bool := p.getLsbD 1
def pteW (p : Word) : Bool := p.getLsbD 2
def pteX (p : Word) : Bool := p.getLsbD 3
def pteG (p : Word) : Bool := p.getLsbD 4
def pteCache (p : Word) : Nat := fld p 5 2
def pteTier (p : Word) : Nat := fld p 7 2
def pteState (p : Word) : Nat := fld p 9 2
def pteHot (p : Word) : Bool := p.getLsbD 11
/-- PA of the page or of the next table. -/
def ptePa (p : Word) : Nat := fld p 12 40 * 4096

/-- A PTE that R275 calls malformed. A PEER leaf, whose [19:12] hold a stripe id, is tested for [51:20] alone at every level: the
alignment of R274 is taken as that of a page in this package (DEDUCED, log entry 117). -/
def pteMalformed (p : Word) (level : Nat) : Bool :=
  fld p 52 12 != 0 ||
  (if pteLeaf p then
    level == 3 || pteCache p == 3 ||
    (if pteTier p = 3 then fld p 20 32 != 0 else fld p 12 (9 * level) != 0)
  else fld p 2 10 != 0)

/-- The physical address has storage in HBM or LPDDR 6, where tables lie. -/
def State.tableOk (s : State) (pa : Nat) : Bool := s.reachable pa && pa < cxlBase

/-- Page number for the fault buffer: ASID · 2^36 + VA[47:12]. -/
def pageKey (asid : BitVec 9) (va : Word) : Nat := asid.toNat * 2 ^ 36 + fld va 12 36

/-- The walk from the table at `base`, `n` levels still to go (13 R275). A PTE whose line is poisoned gives an access fault, as a
poisoned view table does (R282; DEDUCED, log entry 106), and so does a pointer at level 0 (DEDUCED, log entry 133). -/
def State.walk (s : State) (asid : BitVec 9) (va : Word) : Nat → Nat → Except XFault (Hit × Nat)
  | 0, _ => .error (.access va)
  | n + 1, base =>
    let pte := base + 8 * fld va (12 + 9 * n) 9
    if !s.tableOk base then .error (.access va)
    else if s.homeHeld (lineOf pte) then .error .held
    else if s.homePoison (lineOf pte) then .error (.access va)
    else
      let p := s.homeWord pte
      if !pteV p then .error (.translation va 0 (pageKey asid va))
      else if pteMalformed p n then .error (.access va)
      else if pteLeaf p then
        if pteState p = 2 then .error (.translation va 0 (pageKey asid va))
        else if pteState p = 3 then .error (.translation va 3 (pageKey asid va))
        else .ok ({ leaf := p, level := n, walked := true, lines := [lineOf pte], group := none }, pte)
      else match s.walk asid va n (ptePa p) with
        | .ok (h, leaf) => .ok ({ h with lines := lineOf pte :: h.lines }, leaf)
        | .error f => .error f
/-- The lines that a walk reads, up to the PTE at which it ends, and whether a home can not serve the next. -/
def State.walkPath (s : State) (va : Word) : Nat → Nat → List Nat × Bool
  | 0, _ => ([], false)
  | n + 1, base =>
    let pte := base + 8 * fld va (12 + 9 * n) 9
    if !s.tableOk base then ([], false)
    else if s.homeHeld (lineOf pte) then ([], true)
    else
      let p := s.homeWord pte
      let r := if !pteV p || pteMalformed p n || pteLeaf p || s.homePoison (lineOf pte) then ([], false) else s.walkPath va n (ptePa p)
      (lineOf pte :: r.1, r.2)
/-- The requests of a walk from a root reach their homes (16 R361). -/
def State.touchPath (s : State) (va : Word) (root : Nat) : State := (s.walkPath va 4 root).1.foldl State.homeTouch s

/-- Pages of 4 KiB that a leaf of a level maps. -/
def levelPages (level : Nat) : Nat := 512 ^ level
/-- Pages of 4 KiB that a TLB entry of a size covers: twice the level of its leaves, and 1 more for a group of sixteen. -/
def entryPages (size : Nat) : Nat := levelPages (size / 2) * (if size % 2 = 1 then 16 else 1)
/-- A PPN step of `k` leaves of a level. -/
def leafStep (level k : Nat) : Word := wn (k * levelPages level * 4096)
/-- The first leaf of the group that the line of a leaf's PTE holds, when all sixteen meet R276's condition. -/
def State.groupOf (s : State) (pte level : Nat) : Option Word :=
  let line := pte / 128 * 128
  let p0 := s.homeWord line
  if level < 2 && ptePa p0 % (16 * levelPages level * 4096) == 0 && (tab id 0 16).all (fun k => s.homeWord (line + 8 * k) == p0 + leafStep level k)
  then some p0 else none

/-- Where a walk leads; the leaf's group, if it forms one, is held with it (R276). -/
def State.walkGroup (s : State) (asid : BitVec 9) (va : Word) (root : Nat) : Except XFault Hit :=
  match s.walk asid va 4 root with
  | .ok (h, pte) => .ok { h with group := s.groupOf pte h.level }
  | .error f => .error f

/-- The TLB entry that covers a page of an ASID (13 R277). -/
def tlbFind (l : List TlbEntry) (asid : BitVec 9) (vpn : Nat) : Option TlbEntry :=
  l.find? (fun e => within vpn e.vpn (entryPages e.size) && (pteG e.leaf || e.asid == asid))
/-- What an entry that covers a page says of it: of a group, the leaf of the page's own (R276). -/
def TlbEntry.hit (e : TlbEntry) (vpn : Nat) (walked : Bool) : Hit :=
  let level := e.size / 2
  { leaf := e.leaf + leafStep level ((vpn - e.vpn) / levelPages level), level := level, walked := walked, lines := [], group := if e.size % 2 = 1 then some e.leaf else none }

/-- The root of a context's page table. -/
def Ctx.root (x : Ctx) : Nat := x.troot.toNat / 4096 % 2 ^ 40 * 4096
/-- The leaf for a page: from the core's L1 TLB, the die's L2 TLB, or a walk; an entry with the in-motion flag is passed
over when no move covers its page any more (13 R290). -/
def State.leafFor (s : State) (die : Nat) (own : Option Nat) (ctx : Ctx) (va : Word) : Except XFault Hit :=
  let vpn := fld va 12 36
  let fresh := fun (e : TlbEntry) => !e.inMotion || s.inMotion (lineOf (ptePa (e.hit vpn false).leaf))
  let l1 := match own with | some a => tlbFind (s.coreAt a).tlb ctx.asid vpn | none => none
  match l1.filter fresh with
  | some e => .ok (e.hit vpn false)
  | none =>
    match (tlbFind (s.dieAt die).l2tlb ctx.asid vpn).filter fresh with
    | some e => .ok (e.hit vpn true)
    | none => s.walkGroup ctx.asid va ctx.root

/-- A translation that a chunk used, as a TLB would hold it: G, ASID, first page, size (13 R278). -/
def useKey (g : Bool) (asid : BitVec 9) (vpn size : Nat) : Nat := ((b2n g * 512 + asid.toNat) * 2 ^ 36 + vpn) * 8 + size
/-- The size of the TLB entry that a leaf makes, and its first page. -/
def Hit.size (h : Hit) : Nat := 2 * h.level + b2n h.group.isSome
def Hit.first (h : Hit) (vpn : Nat) : Nat := vpn / entryPages h.size * entryPages h.size
/-- The translation that a leaf gives a page, as a chunk notes its use. -/
def Hit.key (h : Hit) (asid : BitVec 9) (vpn : Nat) : Nat := useKey (pteG h.leaf) asid (h.first vpn) h.size

/-- The rows of R275 on permissions. -/
def leafAllows (asid : BitVec 9) (kind : Kind) (va : Word) (p : Word) : Option XFault :=
  match kind with
  | .store | .atomic => if pteW p then none else some (.translation va 1 (pageKey asid va))
  | .fetch => if pteX p then none else some (.translation va 2 (pageKey asid va))
  | .load => none

/-- The cacheability of a leaf (13 R274). -/
def leafCache (p : Word) : Cacheability := match pteCache p with | 0 => .wb | 1 => .wt | _ => .uc

/-- The storage address of one byte under its leaf: a physical address with storage or an MMIO window, or another
package's memory by the stripe table (13 R281). -/
def State.leafAddr (s : State) (die : Nat) (va : Word) (h : Hit) : Except XFault (Nat × LineAttr) :=
  let a : LineAttr := { cache := leafCache h.leaf, hot := pteHot h.leaf, heap := false }
  if pteTier h.leaf = 3 then
    let e := tget (Vector.replicate 8 0) (s.dieAt die).stripes (fld h.leaf 12 8)
    let n := fld e[0] 0 4 + 1
    let base := fld e[1] 12 36 * 4096
    let v := fld va 0 48
    if !(e[0].getLsbD 63) || v < base then .error (.access va)
    else
      let g := (v - base) / 4096
      let pkgs := e[3].toNat + e[4].toNat * 2 ^ 64 + e[5].toNat * 2 ^ 128
      let pkg := bits pkgs (10 * ((g + fld e[0] 4 4) % n)) 10
      let rpa := fld e[2] 12 40 * 4096 + g / n * 4096 + v % 4096
      if pkg = s.pkg.pkgId.toNat then
        if s.reachable rpa then .ok (rpa, a) else .error (.access va)
      else .ok (peerAddr pkg (rpa % 2 ^ 52), { a with cache := .peer })
  else
    let pa := ptePa h.leaf + fld va 0 (12 + 9 * h.level)
    if isMmio pa then .ok (pa, { a with cache := .mmio })
    else if s.reachable pa then .ok (pa, a)
    else .error (.access va)

/-- One byte address through the page tables. -/
def State.xlatePage (s : State) (die : Nat) (own : Option Nat) (ctx : Ctx) (kind : Kind) (va : Word) :
    Except XFault (Nat × LineAttr × Hit) :=
  match s.leafFor die own ctx va with
  | .error f => .error f
  | .ok h =>
    match leafAllows ctx.asid kind va h.leaf with
    | some f => .error f
    | none => (s.leafAddr die va h).map (fun x => (x.1, x.2, h))

/-! ### View windows (07 R165, 13 R282, R283) -/

def vwValid (e : Vector Word 4) : Bool := e[0].getLsbD 63
def vwLayout (e : Vector Word 4) : Nat := fld e[0] 61 2
def vwEsz (e : Vector Word 4) : Nat := fld e[0] 59 2
def vwBase (e : Vector Word 4) : Nat := (canon (wn (fld e[0] 12 36 * 4096))).toNat
def vwBlocks (e : Vector Word 4) : Nat := fld e[1] 0 32
def vwCanon (e : Vector Word 4) : Nat := (canon (wn (fld e[2] 12 36 * 4096))).toNat
/-- An entry whose accesses raise an access fault. -/
def vwMalformed (e : Vector Word 4) : Bool :=
  vwLayout e == 3 || vwEsz e == 3 || vwBlocks e == 0 || fld e[0] 48 11 != 0 || fld e[0] 0 12 != 0 ||
  fld e[1] 32 32 != 0 || fld e[2] 48 16 != 0 || fld e[2] 0 12 != 0 || e[3] != 0
/-- The window of a VA: the lowest entry that holds it; an entry of no blocks still covers its first block, so that an
access there finds it malformed (log entry 7). -/
def vwFind (l : List (Vector Word 4)) (va : Nat) : Option (Vector Word 4) :=
  l.find? (fun e => vwValid e && within va (vwBase e) (4096 * (if vwBlocks e = 0 then 1 else vwBlocks e)))

/-- Where a context's view table lies. -/
def Ctx.viewTable (x : Ctx) : Nat := x.vtbase.toNat / 4096 % 2 ^ 40 * 4096
/-- The 64 entries of a view table as its home has them; none when it lies without storage, behind an expander that is gone (R292), or is
poisoned. -/
def State.readViews (s : State) (ctx : Ctx) : Option (List (Vector Word 4)) :=
  let base := ctx.viewTable
  if s.reachable base && !s.gone base && !(tab id (lineOf base) 16).any s.homePoison then
    some (tab (fun k => Vector.ofFn (fun (j : Fin 4) => s.homeWord (base + 32 * k + 8 * j.val))) 0 64)
  else none
/-- The requests that the read of a view table makes at its home: one for each entry. -/
def State.touchViews (s : State) (ctx : Ctx) : State :=
  if s.reachable ctx.viewTable && !s.gone ctx.viewTable then (tab (fun k => lineOf (ctx.viewTable + 32 * k)) 0 64).foldl State.homeTouch s else s
/-- Whether the home of a view table can not serve it now. -/
def State.viewsHeld (s : State) (ctx : Ctx) : Bool := s.reachable ctx.viewTable && !s.gone ctx.viewTable && (tab id (lineOf ctx.viewTable) 16).any s.homeHeld

/-! ### The whole decoding (07 R143) -/

def lwb : Nat := 0xFFFFFF0000000000

/-- An offset in the local window (R144): the storage address, when the offset is assigned. -/
def State.localOff (s : State) (agent off : Nat) : Option Nat :=
  let core := if off < 0x400000 then (if isSup agent then none else some agent)
    else if within off 0x100000000 (128 * 0x400000) then some (128 * dieOf agent + (off - 0x100000000) / 0x400000)
    else none
  match core with
  | none => none
  | some c => if sramAssigned (s.coreAt c) (off % 0x400000) then some (sramBase c + off % 0x400000) else none
/-- A byte in the local window, which is the top 2^40 bytes. -/
def State.localAddr (s : State) (agent va : Nat) : Option Nat := s.localOff agent (va % 2 ^ 40)

/-- Which row of R143 a VA meets. -/
inductive Row where
  | local | heap | view (e : Vector Word 4) | table | none
  deriving DecidableEq, Repr

/-- The row of a VA, given the context's view entries. -/
def rowOf (ctx : Ctx) (views : List (Vector Word 4)) (va : Nat) : Row :=
  if lwb ≤ va then .local
  else if within va ctx.heapb.toNat ctx.heapl.toNat then .heap
  else
    match vwFind views va with
    | some e => .view e
    | none => if canonical (wn va) then .table else .none

def sramAttr : LineAttr := { cache := .sram, hot := false, heap := false }

/-- The attributes of a byte under its leaf; `heap` holds unless the translation carries the in-motion flag (13 R290). -/
def State.flagged (s : State) (pa : Nat) (a : LineAttr) (h : Hit) : LineAttr :=
  { a with heap := !(pteState h.leaf == 1 && s.inMotion (lineOf pa)) }
/-- The cacheability and tier of a page as its leaf gives them (R158), an MMIO page's too (DEDUCED, log entry 122). -/
def pageKind (h : Hit) : Nat := pteCache h.leaf * 4 + pteTier h.leaf
/-- Where one byte lies: its storage address and attributes, its page's kind and the leaf used, the view block it touches, and its
place in a view line. -/
structure Spot where
  addr  : Nat
  attr  : LineAttr
  kind  : Nat
  leaf  : Option (Nat × Hit)
  block : Option (Nat × BitVec 2)
  view  : Option Nat
  deriving DecidableEq, Repr

/-- One byte of an access whose first byte met `row`. Local-window offsets and PAs without storage are access faults;
a view reaches its canonical block, whose leaf must be WB or WT and no PEER (13 R283). The heap's add takes the VA as unsigned (DEDUCED, log
entry 121). -/
def State.xlateByte (s : State) (die : Nat) (own : Option Nat) (agent : Nat) (ctx : Ctx) (kind : Kind) (row : Row)
    (va : Nat) : Except XFault Spot :=
  match row with
  | .local => match s.localAddr agent va with
    | some a => .ok { addr := a, attr := sramAttr, kind := 16, leaf := none, block := none, view := none }
    | none => .error (.access (wn va))
  | .heap =>
    let pa : Int := va + ctx.heapo.toInt
    if pa < 0 || paTop ≤ pa.toNat then .error (.access (wn va))
    else if isMmio pa.toNat then
      .ok { addr := pa.toNat, attr := { cache := .mmio, hot := false, heap := true }, kind := 21, leaf := none, block := none, view := none }
    else if s.reachable pa.toNat then
      .ok { addr := pa.toNat, attr := { cache := .wb, hot := false, heap := true }, kind := 17 + tierOf pa.toNat, leaf := none,
            block := some (lineOf pa.toNat / 32, 3), view := none }
    else .error (.access (wn va))
  | .view e =>
    if vwMalformed e then .error (.access (wn va))
    else
      let b := (va - vwBase e) / 4096
      let o := (va - vwBase e) % 4096
      let block := wn (vwCanon e + 4096 * b)
      match s.xlatePage die own ctx kind block with
      | .error f => .error f
      | .ok (pa, a, h) =>
        if (a.cache = .wb ∨ a.cache = .wt) ∧ pteTier h.leaf ≠ 3 then
          .ok { addr := pa + viewOffset (vwLayout e) (2 ^ vwEsz e) o, attr := s.flagged pa a h, kind := pageKind h, leaf := some (fld block 12 36, h),
                block := some (pa / 4096, BitVec.ofNat 2 (vwLayout e)),
                view := some (viewLine (pa / 4096) (vwLayout e) (vwEsz e) (o / 128) * 128 + o % 128) }
        else .error (.viewBlock block)
  | .table =>
    match s.xlatePage die own ctx kind (wn va) with
    | .error f => .error f
    | .ok (pa, a, h) =>
      .ok { addr := pa, attr := s.flagged pa a h, kind := pageKind h, leaf := some (fld (wn va) 12 36, h),
            block := if a.cache = .wb ∨ a.cache = .wt ∨ a.cache = .uc then some (pa / 4096, 3) else none, view := none }
  | .none => .error (.access (wn va))

/-- A run of `n` bytes from a spot, put before the rest of an access. -/
def Target.before (t : Target) (x : Spot) (asid : BitVec 9) (n : Nat) : Target :=
  { cells := tab (fun a => (a, x.attr)) x.addr n ++ t.cells,
    view := match x.view with | some v => tab id v n ++ t.view | none => t.view,
    pages := match x.leaf with | some l => ninsert t.pages (l.2.key asid l.1) | none => t.pages,
    kinds := ninsert t.kinds x.kind,
    fills := match x.leaf with | some l => if l.2.walked then l :: t.fills else t.fills | none => t.fills,
    blocks := match x.block with | some b => if t.blocks.contains b then t.blocks else b :: t.blocks | none => t.blocks }
/-- No bytes. -/
def Target.empty : Target := { cells := [], view := [], pages := [], kinds := [], fills := [], blocks := [] }

/-- The bytes `[va, va + n)` one page at a time: the first byte of each 4 KiB page is translated, and the others follow
it; through a view each byte is. `fuel` bounds the number of bytes. -/
def State.xlateRun (s : State) (die : Nat) (own : Option Nat) (agent : Nat) (ctx : Ctx) (kind : Kind) (row : Row) :
    Nat → Nat → Nat → Except XFault Target
  | 0, _, _ => .ok Target.empty
  | fuel + 1, va, n =>
    if n = 0 then .ok Target.empty
    else
      let step := match row with
        | .view e => min n (2 ^ vwEsz e - (va - vwBase e) % 2 ^ vwEsz e)
        | _ => min n (4096 - va % 4096)
      match s.xlateByte die own agent ctx kind row va with
      | .error f => .error f
      | .ok x =>
        match s.xlateRun die own agent ctx kind row fuel (va + step) (n - step) with
        | .error f => .error f
        | .ok t => .ok (t.before x ctx.asid step)

/-- Whether all pages of an access are of one cacheability and tier; through a view they need not be (R158). -/
def Target.uniform (t : Target) (row : Row) : Bool := match row with | .view _ => true | _ => t.kinds.length ≤ 1

/-- Where the bytes `[va, va + n)` of an access lie, by the rows of R158 in their order: bytes on both sides of a bound, or in pages
of different cacheability or tier outside one view, are MISALIGN_ATTR whatever the pages permit. -/
def State.xlate (s : State) (die : Nat) (own : Option Nat) (agent : Nat) (ctx : Ctx) (views : List (Vector Word 4))
    (kind : Kind) (va : Word) (n : Nat) : Except XFault Target :=
  let row := rowOf ctx views va.toNat
  if 2 ^ 64 < va.toNat + n then .error (.misalign va)
  else if rowOf ctx views (va.toNat + (n - 1)) ≠ row then .error (.misalign va)
  else
    match s.xlateRun die own agent ctx kind row n va.toNat n with
    | .error f =>
      match s.xlateRun die own agent ctx .load row n va.toNat n with
      | .ok t => if t.uniform row then .error f else .error (.misalign va)
      | .error .held => .error .held
      | .error _ => .error f
    | .ok t => if t.uniform row then .ok t else .error (.misalign va)

/-- Leaves put into the TLBs after walks (13 R276, R277): 64 entries in an L1 TLB, 8,192 in an L2 TLB, the
oldest leaving (others leave at turns of the schedule, log entry 99). The walks' requests reach their homes, and the core counts the
misses of its L1 TLB and the walks (16 R360, R361). -/
def State.tlbFill (s : State) (die : Nat) (own : Option Nat) (asid : BitVec 9) (fills : List (Nat × Hit)) : State :=
  let entry := fun (x : Nat × Hit) =>
    let e : TlbEntry :=
      { asid := asid, vpn := x.2.first x.1, size := x.2.size, leaf := x.2.group.getD x.2.leaf,
        inMotion := pteState x.2.leaf == 1 && s.inMotion (lineOf (ptePa x.2.leaf)) }
    e
  let new := fills.map entry
  let s0 := (fills.flatMap (fun x => x.2.lines)).foldl State.homeTouch s
  let s1 := match own with
    | some a =>
      if new.isEmpty then s
      else s0.mapCore a (fun c =>
        { (c.count 0x0A fills.length).count 0x0B (fills.filter (fun x => !x.2.lines.isEmpty)).length with tlb := (new ++ c.tlb).take 64 })
    | none => s0
  if new.isEmpty then s1 else s1.mapDie die (fun d => { d with l2tlb := (new ++ d.l2tlb).take 8192 })

/-- The context a core translates by. -/
def State.ctxOf (s : State) (a : Nat) : Ctx := (s.coreAt a).ctx

/-- The core's view entries, read at the first access that reaches view decoding (13 R282). -/
def State.withViews (s : State) (a : Nat) (va : Word) : Except XFault (State × List (Vector Word 4)) :=
  let c := s.coreAt a
  if lwb ≤ va.toNat || within va.toNat c.ctx.heapb.toNat c.ctx.heapl.toNat then .ok (s, c.views.getD [])
  else
    match c.views with
    | some v => .ok (s, v)
    | none =>
      if s.viewsHeld c.ctx then .error .held
      else match s.readViews c.ctx with
        | some v => .ok ((s.touchViews c.ctx).mapCore a (fun c => { c with views := some v }), v)
        | none => .error (.access va)

/-- Where the bytes of a core's access lie, with the view table read and the TLBs filled. -/
def State.locate (s : State) (a : Nat) (kind : Kind) (va : Word) (n : Nat) : Except XFault (State × Target) :=
  match s.withViews a va with
  | .error f => .error f
  | .ok (s1, v) =>
    match s1.xlate (dieOf a) (some a) a (s1.ctxOf a) v kind va n with
    | .error f => .error f
    | .ok t => .ok (s1.tlbFill (dieOf a) (some a) (s1.ctxOf a).asid t.fills, t)

end Sys2Proof.Machine
end

