-- ==== Sys2Proof/Machine/Commands.lean ====
section
/-! DEFINITION. Tile command words, the command and completion queues of a core, tokens, and how a command ends
(03_encoding R62, 11_engine_queues R215 to R226). -/

namespace Sys2Proof.Machine

/-! ### The frame (03 R62) -/

/-- Word `i` of a TCW. -/
def tcwWord (t : Tcw) (i : Nat) : Word := t.extractLsb' (64 * i) 64
/-- A field of word 0. -/
def tcw0 (t : Tcw) (lo n : Nat) : Nat := bits (tcwWord t 0).toNat lo n
/-- A field of word `i`. -/
def tcwF (t : Tcw) (i lo n : Nat) : Nat := bits (tcwWord t i).toNat lo n
def tcwOp (t : Tcw) : Nat := tcw0 t 0 8
def tcwOrd (t : Tcw) : Bool := (tcwWord t 0).getLsbD 8
def tcwDepth (t : Tcw) : Nat := tcw0 t 9 3
def tcwCpl (t : Tcw) : Bool := (tcwWord t 0).getLsbD 12
def tcwFmtA (t : Tcw) : Nat := tcw0 t 16 8
def tcwFmtB (t : Tcw) : Nat := tcw0 t 24 8
def tcwEng (t : Tcw) : Nat := tcw0 t 32 16
def tcwTag (t : Tcw) : Nat := tcw0 t 48 16
/-- The TCW with CRDEPTH written. -/
def tcwSetDepth (t : Tcw) (d : Nat) : Tcw := BitVec.ofNat 256 (setBits t.toNat 9 3 d)
/-- A TCW of four words. -/
def tcwOf (w : List Word) : Tcw := BitVec.ofNat 256 (ofDigits 64 (w.map BitVec.toNat))

/-- The engine whose queue an opcode belongs to (R63): 0 anvil, 1 tongs, 2 collective, 3 swage, 4 migration, 5 save. -/
def engOf (op : Nat) : Option Nat :=
  if within op 1 6 then some 0
  else if within op 0x20 6 then some 1
  else if within op 0x30 4 then some 2
  else if op = 0x10 ∨ op = 0x11 then some 3
  else if within op 0x40 3 then some 4
  else if op = 0x48 ∨ op = 0x49 then some 5
  else none

/-- Assigned format codes (R64). -/
def fmtAssigned (f : Nat) : Bool :=
  within f 0 7 || within f 8 6 || within f 0x10 4 || within f 0x18 3 || within f 0x1C 3 || within f 0x20 4
def fmtElem (f : Nat) : Bool := within f 0 7 || within f 8 6
def fmtFp (f : Nat) : Bool := within f 1 6
def fmtInt (f : Nat) : Bool := within f 8 6
def fmtMx (f : Nat) : Bool := within f 0x10 4
def fmtAsym (f : Nat) : Bool := within f 0x18 3 || within f 0x1C 3

/-- Codes that a command accepts in FMTA with some partner (R65, and the commands' statements). TGATH and TSCAT take element codes
alone, as 11 R229 says of TCOPY2; of those two it does not say so (DESIGN CHOICE, log entry 113). -/
def fmtAOk (op f : Nat) : Bool :=
  fmtAssigned f &&
  match op with
  | 0x20 => fmtElem f || fmtMx f || fmtAsym f || f == 0x21
  | 0x21 | 0x22 | 0x23 => fmtElem f
  | 0x24 | 0x25 => f == 0
  | 0x30 | 0x33 => within f 2 3 || within f 8 3
  | 0x31 | 0x32 => fmtElem f
  | 0x10 => within f 2 5 || f == 0x0A
  | 0x11 => fmtMx f || within f 0x18 3
  | 0x01 => f == 0x20
  | 0x03 => f == 0x22
  | _ => f == 0

/-- Codes that a command accepts in FMTB with some partner. -/
def fmtBOk (op f : Nat) : Bool :=
  fmtAssigned f &&
  match op with
  | 0x20 => fmtElem f || fmtMx f || fmtAsym f || f == 0x20
  | 0x21 | 0x22 | 0x23 => fmtElem f
  | 0x24 => fmtElem f
  | 0x30 | 0x33 => within f 2 3 || within f 8 3
  | 0x31 | 0x32 => fmtElem f
  | 0x10 | 0x11 => f == 0x22
  | 0x01 | 0x02 => f == 0x21
  | _ => f == 0

/-- Whether a queue of engine `e` takes the word (R65). -/
def tcwAccepted (e : Nat) (t : Tcw) : Bool :=
  engOf (tcwOp t) == some e && tcw0 t 13 3 == 0 && fmtAOk (tcwOp t) (tcwFmtA t) && fmtBOk (tcwOp t) (tcwFmtB t)

/-! ### Completion codes and words (11 R220, R221) -/

def stOk : Nat := 0
def stCancelled : Nat := 1
def stPoisoned : Nat := 2
def stXlate : Nat := 3
def stAccess : Nat := 4
def stBadop : Nat := 5
def stLink : Nat := 6
def stSwrange : Nat := 7
def stMigsize : Nat := 8
def stMigabort : Nat := 9
def stNotfound : Nat := 10
def stNotask : Nat := 11
def stBusy : Nat := 12
def stNobillet : Nat := 13

/-- A completion code. -/
def codeOf (status : Nat) (flags : BitVec 5) (addr : Nat) : Word := wn (status + flags.toNat * 256 + addr % 2 ^ 48 * 65536)
/-- The STATUS of a code. -/
def codeStatus (c : Word) : Nat := fld c 0 8
/-- The completion word of a command. -/
def cplWordOf (eng : Nat) (t : Tcw) (code : Word) (aux : Nat) : Word :=
  wn (2 ^ 63 + eng * 2 ^ 60 + tcwOp t * 2 ^ 48 + fld code 0 16 * 2 ^ 32 + tcwTag t * 65536 + aux % 65536)
/-- The completion word of a command by the engine of its opcode. -/
def cplWord (t : Tcw) (code : Word) (aux : Nat) : Word := cplWordOf ((engOf (tcwOp t)).getD 0) t code aux
/-- A command pushes a word when CPL is set or it failed. -/
def wantsWord (t : Tcw) (code : Word) : Bool := tcwCpl t || codeStatus code != 0

/-! ### Pass commands (12 R245, R246) -/

/-- A command that runs a pass. -/
def isPass (t : Tcw) : Bool := tcwOp t == 1 || tcwOp t == 2
/-- Vector count B. -/
def passB (t : Tcw) : Nat := if tcwOp t = 2 then 1 else tcwF t 1 40 6 + 1
/-- Offset of its result block. -/
def passDoff (t : Tcw) : Nat := tcwF t 2 0 20

/-! ### Queues of a core -/

/-- Command queue `e` of a core: 0 anvil, 1 tongs, 2 collective, 3 swage. -/
def Core.cmdQ (c : Core) (e : Nat) : List Cmd := match e with | 0 => c.q0 | 1 => c.q2 | 2 => c.q4 | _ => c.q6
def Core.setCmdQ (c : Core) (e : Nat) (l : List Cmd) : Core :=
  match e with
  | 0 => { c with q0 := l }
  | 1 => { c with q2 := l }
  | 2 => { c with q4 := l }
  | _ => { c with q6 := l }
/-- Depth of a command queue (11 R215). -/
def cmdDepth (e : Nat) : Nat := match e with | 0 => 16 | 1 => 32 | 2 => 8 | _ => 4
/-- Completion queue of engine `e`. -/
def Core.cplQ (c : Core) (e : Fin 4) : CplQueue := c.cpl[e]
def Core.setCplQ (c : Core) (e : Fin 4) (q : CplQueue) : Core := { c with cpl := c.cpl.set e q }
/-- Entries a completion queue has left: held words and reservations occupy theirs. -/
def CplQueue.room (q : CplQueue) : Nat := 16 - (q.words.length + q.reserved)
def CplQueue.push (q : CplQueue) (w : Word) : CplQueue := { q with words := q.words ++ [w] }
/-- Words not held aside. -/
def CplQueue.unheld (q : CplQueue) : List Word := q.words.drop q.held

/-! ### Tokens (04 R79) -/

/-- A token's code in a checkpoint at whose start the token was pending, which stays there through a rollback (04 R80). -/
def Regs.writeToken (r : Regs) (tok : BitVec 32) (n : BitVec 5) (code : Word) : Regs :=
  if tok.getLsbD n.toNat then { r with s := r.s.set n.toNat code n.isLt, sPoison := putBit r.sPoison n.toNat false } else r
/-- The code in a chunk's checkpoint, which from then on stands for the register. -/
def Chunk.writeToken (k : Chunk) (n : BitVec 5) (code : Word) : Chunk :=
  { k with start := k.start.writeToken k.tokStart n code, tokStart := putBit k.tokStart n.toNat false }
/-- The code in a run-ahead's checkpoint. -/
def Ahead.writeToken (h : Ahead) (n : BitVec 5) (code : Word) : Ahead :=
  { h with start := h.start.writeToken h.tok n code, tok := putBit h.tok n.toNat false }
/-- The engine's write of a token register: the value, the poison bit and TOKPEND cleared, in the core and in every checkpoint
that has the token pending (04 R79, R80). -/
def Core.writeToken (c : Core) (n : BitVec 5) (code : Word) : Core :=
  if n = 0 then c
  else
    { c.writeS n code with
      tokpend := putBit c.tokpend n.toNat false, chunk := c.chunk.map (fun k => k.writeToken n code),
      closed := c.closed.map (fun k => k.writeToken n code), ahead := c.ahead.map (fun h => h.writeToken n code) }
/-- A token register marked pending. -/
def Core.markToken (c : Core) (n : BitVec 5) : Core :=
  if n = 0 then c else { c.writeS n (BitVec.allOnes 64) with tokpend := putBit c.tokpend n.toNat true }

/-! ### The end of a command (11 R222) -/

/-- BUSY cleared in the retry record of a MAPPLY that ended (15 R339). -/
def Core.recordIdle (c : Core) (k : BitVec 4) : Core :=
  { c with records := c.records.set k.toNat ((c.records[k.toNat]'k.isLt).set 0 (putBit (c.records[k.toNat]'k.isLt)[0] 62 false)) k.isLt }
/-- A retry record released: V and BUSY cleared, the other words kept (15 R339). -/
def Core.releaseRecord (c : Core) (k : BitVec 4) : Core :=
  { c with records := c.records.set k.toNat ((c.records[k.toNat]'k.isLt).set 0 ((c.records[k.toNat]'k.isLt)[0] &&& 0x3FFFFFFFFFFFFFFF)) k.isLt }

/-- Whether a core has room for the word a command of engine `e` pushes. -/
def Core.cplRoom (c : Core) (e : Nat) : Bool := 0 < (c.cplQ (Fin.ofNat 4 e)).room
/-- Token and word of an ended command, in one step. -/
def Core.finish (c : Core) (k : Cmd) (code : Word) (aux : Nat) : Core :=
  let e := Fin.ofNat 4 ((engOf (tcwOp k.tcw)).getD 0)
  let c1 := c.writeToken k.token code
  if wantsWord k.tcw code then c1.setCplQ e ((c1.cplQ e).push (cplWord k.tcw code aux)) else c1

/-- Removed commands whose words now find room (11 R226), in their order. -/
def Core.drainEnding (c : Core) : Core :=
  c.ending.foldl (fun c x =>
    if !wantsWord x.1.tcw x.2 || c.cplRoom ((engOf (tcwOp x.1.tcw)).getD 0) then c.finish x.1 x.2 0
    else { c with ending := c.ending ++ [x] }) { c with ending := [] }

/-- A command ended before it started: it writes its token and word at once, or when there is room. -/
def Core.endUnstarted (c : Core) (k : Cmd) (status : Nat) : Core :=
  let c1 := match k.record with | some r => c.recordIdle r | none => c
  ({ c1 with ending := c1.ending ++ [(k, codeOf status 0 0)] }).drainEnding

/-- The unstarted commands of engine `e`'s queue that `p` picks end CANCELLED (11 R226, R240). -/
def Core.cancelQueue (c : Core) (e : Nat) (p : Cmd → Bool) : Core :=
  let l := c.cmdQ e
  (l.filter p).foldl (fun c k => c.endUnstarted k stCancelled) (c.setCmdQ e (l.filter (fun k => !p k)))

/-- The unstarted commands of all four queues that `p` picks end CANCELLED. -/
def Core.cancelAll (c : Core) (p : Cmd → Bool) : Core := [0, 1, 2, 3].foldl (fun c e => c.cancelQueue e p) c

/-- A number for a command or an arrival, and the state with the next one. -/
def State.newId (s : State) : Nat × State := (s.serial, s.tick)

/-! ### The commands of a core that have started -/

/-- Started anvil commands of a core: in the execution list, in a transfer, in a drain, in a probe set, or with a held
word (12 R242, R244). -/
def Forge.started (g : Forge) : List Cmd :=
  g.execs.filterMap (fun x => if x.reload.isSome then none else some x.cmd) ++
  (match g.transfer with | some t => (match t.cmd with | some k => [k] | none => []) | none => []) ++
  g.drains.map PassResult.cmd ++
  (match g.probe with
    | .reference _ (some k) => [k]
    | .update _ (some k) _ _ => [k]
    | _ => []) ++
  g.holding.toList.flatMap (fun l => l.filterMap (fun h => h.ends.map Prod.fst))

/-- Every command of core `a` that has started and not ended, or that waits for room (11 R222). -/
def State.startedOf (s : State) (a : Nat) : List Cmd :=
  let d := s.dieAt (dieOf a)
  let mine := fun (k : Cmd) => k.core == a
  (s.forgeAt (forgeOf a)).started.filter mine ++
  (d.tongs.map (fun e => e.2.cmd)).filter mine ++ (d.swage.map (fun e => e.2.cmd)).filter mine ++
  (s.colls.flatMap (fun o => o.2.map CollMember.cmd)).filter mine ++ (s.coreAt a).ending.map Prod.fst
/-- Every command of core `a` that has not ended. -/
def State.commandsOf (s : State) (a : Nat) : List Cmd :=
  let c := s.coreAt a
  c.q0 ++ c.q2 ++ c.q4 ++ c.q6 ++ s.startedOf a

end Sys2Proof.Machine
end

