-- ==== Sys2Proof/Machine/Commit.lean ====
section
/-! DEFINITION. Chunks: checkpoints, the signatures, the grant of a commit with everything it does, and the squash
(08_consistency R169 to R173, R181, R183, R185). -/

namespace Sys2Proof.Machine

/-! ### Opening and closing -/

/-- A chunk that starts at the core's present registers. -/
def Core.newChunk (c : Core) : Chunk :=
  { start := c.regs, tokStart := c.tokpend, startBuf := c.storeBuf, startSb := c.scoreboard,
    issuedAt := (match c.gang with | some g => g.issued | none => 0), instrs := 0, reads := [], bytes := [], lines := [], whole := [],
    blocks := [], pages := [], deferred := [], held := Vector.replicate 4 0, release := c.nextRelease, groups := [], cancels := [] }

/-- The open chunk, opened if there is none. -/
def Core.openChunk (c : Core) : Core :=
  match c.chunk with
  | some _ => c
  | none => { c with chunk := some c.newChunk, nextRelease := false }

/-- A change of the open chunk. -/
def Core.mapChunk (c : Core) (f : Chunk → Chunk) : Core :=
  match c.chunk with
  | some k => { c with chunk := some (f k) }
  | none => c

/-- The open chunk closed: it waits for its grant. Single-access mode ends at a boundary of the original chunk
(R173). -/
def Core.closeChunk (c : Core) : Core :=
  let d : Core := { c with sam := false, samCount := 0, samLines := [], samBlocks := [] }
  match d.chunk with
  | some k => { d with chunk := none, closed := d.closed ++ [k] }
  | none => d

/-- A buffered store's bytes in the chunk. -/
def Chunk.take (k : Chunk) (b : BufStore) : Chunk :=
  { k with bytes := b.cells.foldl (fun t x => tset t x.1 x.2) k.bytes, lines := b.lines.foldl (fun t x => tset t x.1 x.2) k.lines, whole := b.whole.foldl ninsert k.whole, blocks := b.blocks.foldl (fun t x => tset t x.1 x.2) k.blocks, groups := if b.group.isEmpty then k.groups else b.group :: k.groups }
/-- Buffered stores that nothing holds back any more, as a closed chunk of their own: it reads nothing, so no commit meets it. -/
def Core.flushBuf (c : Core) : Core :=
  if c.storeBuf.isEmpty then c else { c with storeBuf := [], closed := c.closed ++ [c.storeBuf.foldl Chunk.take c.newChunk] }

/-! ### Signatures (R172) -/

/-- Whether the filter of a set of read lines reports a meeting with a written line. -/
def meets (reads : NatSet) (line : Nat) : Bool :=
  !reads.isEmpty &&
  (reads.contains line ||
    ((Config.signatureBits line) != [] &&
     (Config.signatureBits line).all (fun b => reads.any (fun r => (Config.signatureBits r).contains b))))

/-- Whether a chunk is squashed by a commit of these lines. -/
def Chunk.hit (k : Chunk) (lines : List Nat) : Bool := !k.reads.isEmpty && lines.any (meets k.reads)

/-! ### Squash (R172, 04 R80) -/

/-- The scalar registers of a checkpoint, but a register whose token was pending at its start keeps what it holds
(04 R80). -/
def restoreRegs (old now : Regs) (tok : BitVec 32) : Regs :=
  { old with
    s := Vector.ofFn (fun i => if tok.getLsbD i.val then now.s[i] else old.s[i]),
    sPoison := (old.sPoison &&& ~~~tok) ||| (now.sPoison &&& tok) }

/-- Words popped by a chunk return to the head of their queues, and its QPUSH reservations are released (11 R223, R224). -/
def Core.returnHeld (c : Core) (k : Chunk) : Core :=
  { c with cpl := Vector.ofFn (fun (i : Fin 4) =>
      { c.cpl[i] with
        held := c.cpl[i].held - k.held[i],
        reserved := c.cpl[i].reserved -
          (k.deferred.filter (fun d => match d with | .qpush q _ => q.toNat / 2 == i.val | _ => false)).length }) }

/-- A core's chunks from `k` on are rolled back: bytes discarded, and registers, buffered stores and pending entries as at
the start of `k`. -/
def Core.rollback (c : Core) (before : List Chunk) (k : Chunk) (after : List Chunk) : Core :=
  let dropped := k :: after ++ (match c.chunk with | some x => [x] | none => [])
  let c1 := dropped.foldl Core.returnHeld c
  { c1 with regs := restoreRegs k.start c.regs k.tokStart, chunk := none, closed := before, storeBuf := k.startBuf,
            replays := dropped.flatMap Chunk.cancels ++ c.replays, scoreboard := k.startSb, wait := none, sam := false, samCount := 0, samLines := [], samBlocks := [], nextRelease := k.release,
            gang := c.gang.map (fun g => { g with issued := k.issuedAt }), trail := c.trail.take k.issuedAt }

/-- A squash: the rollback, the count, and single-access mode at the third in a row from one PC (R172, R173). -/
def Core.squash (c : Core) (before : List Chunk) (k : Chunk) (after : List Chunk) : Core :=
  let c1 := c.rollback before k after
  let n := if c.squashPc = k.start.pc then c.squashes.toNat + 1 else 1
  ({ c1 with squashPc := k.start.pc, squashes := BitVec.ofNat 2 (min n 3), sam := 3 ≤ n, chksq := c1.chksq + 1 }).count 4 1

/-- The chunks of a list up to the first that the lines hit, that chunk, and those behind it. -/
def splitHit (lines : List Nat) : List Chunk → Option (List Chunk × Chunk × List Chunk)
  | [] => none
  | k :: t =>
    if k.hit lines then some ([], k, t)
    else match splitHit lines t with
      | some (a, b, c) => some (k :: a, b, c)
      | none => none

/-- A commit's effect on one core's chunks (R172). A chunk of single-access mode is granted with its access and is never
open; a core stopped by a freeze holds no chunk. -/
def Core.meetCommit (c : Core) (lines : List Nat) : Core :=
  match splitHit lines c.closed with
  | some (a, k, b) => c.squash a k b
  | none =>
    match c.chunk with
    | some k => if k.hit lines && !c.sam then ({ c with chunk := none }).squash c.closed k [] else c
    | none => c

/-- Every open chunk of a die meets a commit of these lines, the committing core's own younger ones among them. -/
def State.meetAll (s : State) (die : Nat) (lines : List Nat) : State :=
  if lines.isEmpty then s else s.each (s.liveAgents die) (fun t b => t.mapCore b (fun c => c.meetCommit lines))

/-! ### The suspect window (15 R345) -/

/-- Lines written by a core's chunk, atomic or engine command, noted for its forge: the package that holds them, and the home if it is
this one (log entry 27). -/
def State.suspect (s : State) (a : Nat) (lines : List Nat) : State :=
  if isSup a then s
  else s.mapForge (forgeOf a) (fun g =>
    lines.foldl (fun g l =>
      if isSram (l * 128) then g
      else if isPeer (l * 128) then { g with pkgs := putBit g.pkgs ((l * 128 - 2 ^ 60) / 2 ^ 52) true }
      else { g with homes := putBit g.homes (homeOf (l * 128)) true, pkgs := putBit g.pkgs s.pkg.pkgId.toNat true }) g)

/-! ### The commit (R171) -/

/-- The bytes of one line among sparse bytes, with their mask. -/
def lineBytes (t : Table Byte) (line : Nat) : BitVec 1024 × BitVec 128 :=
  let l := t.filter (fun x => lineOf x.1 == line)
  (packLine (tab (fun i => tget 0 l (line * 128 + i)) 0 128),
   l.foldl (fun m x => putBit m (x.1 % 128) true) 0)

/-- Bytes of SRAM written into their banks; units written whole lose their poison (07 R156). -/
def State.sramBytes (s : State) (bytes : Table Byte) (whole : NatSet) : State :=
  whole.foldl (fun t w => if isSram w then t.setPoison w false else t)
    { s with mem := bytes.foldl (fun m x => if isSram x.1 then memSet m x.1 x.2 else m) s.mem }

/-- One committed line of agent `a`, behind the older commits of its die to that line: kept dirty in its L1, or sent to the home; other
copies on the die go. The lines of a scaled group are sent together (R184). A store to a page in motion counts once for hotness, as the
write of its source half (19 R397). -/
def State.commitLine (s : State) (a group : Nat) (k : Chunk) (line : Nat) (at' : LineAttr) : State :=
  if isSram (line * 128) then s
  else
    let d := lineBytes k.bytes line
    let whole := k.whole.contains (line * 128)
    let send := k.release || at'.cache == .wt || at'.cache == .uc || at'.cache == .peer || (!at'.heap && s.inMotion line) || k.groups.any (fun g => g.contains line)
    let tied := k.groups.any (fun g => g.contains line)
    let cached := at'.cache == .wb || at'.cache == .wt
    let s1 := (s.touch (dieOf a) (some a) [line]).killCopies (dieOf a) line d.2 (if cached then some a else none)
    let ask := if !at'.heap && s.inMotion line then { at' with hot := false } else at'
    let push : Push :=
      { agent := a, group := group, line := line, data := d.1, mask := d.2, whole := whole, hot := at'.hot, heap := at'.heap, tied := tied, core := true }
    if send then
      let s2 := if cached then s1.installL1 a line d.1 d.2 false whole ask else s1
      { s2 with pushes := s2.pushes ++ [push] }
    else s1.installL1 a line d.1 d.2 true whole at'

/-- Pops that wait at a completion queue: each takes a word that is pushed meanwhile, before anything else can (11 R241). -/
def Core.popsWaiting (c : Core) (q : BitVec 4) : Nat :=
  (c.scoreboard.filter (fun e => e.waits == some .queueWord && e.word.extractLsb' 16 4 == q)).length
/-- What a commit makes of the effects that waited for it (11 R224, R226, 16 R350). -/
def Core.applyDeferred (c : Core) (d : Deferred) : Core :=
  match d with
  | .qpush q w =>
    let e := Fin.ofNat 4 (q.toNat / 2)
    let x := c.cplQ e
    c.setCplQ e { x with words := x.words ++ [w], reserved := x.reserved - 1 }
  | .qflush q =>
    let e := q.toNat / 2
    if q.getLsbD 0 then
      let x := c.cplQ (Fin.ofNat 4 e)
      (c.setCplQ (Fin.ofNat 4 e) { x with words := x.words.take (x.held + c.popsWaiting q) }).drainEnding
    else c.cancelQueue e (fun _ => true)
  | .cntadd n v =>
    { c with mc := c.mc.set n.toNat (BitVec.ofNat 32 (clampI 0 (2 ^ 32 - 1) ((c.mc[n.toNat]'n.isLt).toNat + v.toInt)).toNat) n.isLt }

/-- Words popped by a committed chunk leave their queues (11 R223). -/
def Core.dropHeld (c : Core) (k : Chunk) : Core :=
  { c with cpl := Vector.ofFn (fun (i : Fin 4) =>
      { c.cpl[i] with words := c.cpl[i].words.drop k.held[i], held := c.cpl[i].held - k.held[i] }) }

/-- The counters of a chunk commit (16 R359, 15 R345). -/
def State.countCommit (s : State) (a instrs : Nat) (sam : Bool) : State :=
  let s1 := s.mapCore a (fun c =>
    let c1 := ({ c with instret := c.instret + wn instrs, chkcmt := c.chkcmt + 1 }).count 3 1
    if sam then c1.count 5 1 else c1)
  if isSup a then s1
  else s1.mapForge (forgeOf a) (fun g => { g with chunks := BitVec.ofNat 32 (min (g.chunks.toNat + 1) (2 ^ 32 - 1)) })

/-- The grant of a commit: the chunk's writes become committed, copies go, the die's open chunks are compared, and
what waited for the commit takes effect. -/
def State.commitChunk (s : State) (a : Nat) (k : Chunk) (sam : Bool) : State :=
  let id := s.serial
  let lines := k.lines.map Prod.fst
  let s1 := (s.tick).sramBytes k.bytes k.whole
  let s2 := k.lines.foldl (fun t x => t.commitLine a id k x.1 x.2) s1
  let pend := s2.pushes.any (fun p => p.agent == a)
  let late : List Commit := if pend then [{ agent := a, group := id, lines := lines }] else []
  let s3 := (({ s2 with commits := s2.commits ++ late } : State).suspect a lines).mapCore a (fun c =>
    let c1 := (k.deferred.foldl Core.applyDeferred (c.dropHeld k)).drainEnding
    if c1.squashPc = k.start.pc then { c1 with squashes := 0 } else c1)
  (s3.countCommit a k.instrs sam).meetAll (dieOf a) lines

/-- The oldest closed chunk of a core granted (R171). -/
def State.grant (s : State) (a : Nat) : State :=
  match (s.coreAt a).closed with
  | [] => s
  | k :: t => (s.mapCore a (fun c => { c with closed := t })).commitChunk a k false

/-- All closed chunks of a core granted, oldest first. -/
def State.grantAll (s : State) (a : Nat) : State := (s.coreAt a).closed.foldl (fun t _ => t.grant a) s

/-- A core's commits complete: its closed chunks granted and its bytes acknowledged at their homes. A core that waits for
its commit finds it complete within the step (log entry 8), unless a home takes nothing now (10 R208). -/
def State.settle (s : State) (a : Nat) : State :=
  let t := s.grantAll a
  if t.pushes.any (fun p => p.agent == a) then t.landAll else t

/-- The open chunk closed and its commit complete. -/
def State.closeSettle (s : State) (a : Nat) : State := (s.mapCore a Core.closeChunk).settle a

/-! ### Writes outside a core's chunks -/

/-- A line written at its home by an engine, an atomic or a notice, compared and with its clean copies gone on a die
(R181, R183). Dirty bytes of the line in an L1 are not touched. -/
def State.noticeLine (s : State) (die line : Nat) : State := (s.killCopies die line 0 none).meetAll die [line]

/-- Committed bytes written by an engine of a die at storage addresses: SRAM banks or homes, as engine commits (R181).
Dirty bytes of the same addresses in the die's caches give way to the later commit. -/
def State.engineLine (s : State) (die : Nat) (k : Table Byte) (whole : NatSet) (line : Nat) (hot heap : Bool) : State :=
  if isSram (line * 128) then s.meetAll die [line]
  else
    let d := lineBytes k line
    let s1 := s.homeWrite false (512 + 2 * die) line d.1 d.2 (whole.contains (line * 128)) hot heap
    (s1.killCopies die line d.2 none).meetAll die [line]

/-- An engine commit. -/
def State.engineCommit (s : State) (die : Nat) (bytes : Table Byte) (whole : NatSet) (attrs : Table LineAttr) : State :=
  attrs.foldl (fun t x => t.engineLine die bytes whole x.1 x.2.hot x.2.heap) (s.sramBytes bytes whole)

/-- Words set full, each a write for the signatures of the die (07 R159). -/
def State.tagFull (s : State) (die : Nat) (ws : NatSet) : State :=
  (ws.foldl (fun (t : State) w => t.setFull w true) s).meetAll die ((ws.map lineOf).foldl ninsert [])

/-- A write of an engine lands, for the core that sent the command: one engine commit, then its tags (R181, 11 R222). -/
def State.land (s : State) (core : Nat) (p : Landing) : State :=
  let t := (s.engineCommit (dieOf core) p.bytes p.units p.attrs).suspect core (p.attrs.map Prod.fst)
  if p.tags.isEmpty then t else t.tagFull (dieOf core) p.tags

end Sys2Proof.Machine
end

