-- ==== Sys2Proof/Machine/Errors.lean ====
section
/-! DEFINITION. How errors are reported: packets and their rings, the error log, the severity matrix, freezes, kills,
partition resets and the unwind of a containment region (15_error_tables R325 to R338, 14_task_tables R310). -/

namespace Sys2Proof.Machine

/-! ### Words a packet carries -/

/-- The handle of an entry (14 R300). -/
def handle (core idx : Nat) (gen : BitVec 8) : Nat := core + idx * 1024 + gen.toNat * 65536
/-- A WTT entry of a core; indices above 31 have none. -/
def Core.entry (c : Core) (k : Nat) : WttEntry := nth WttEntry.empty c.wtt.toList k
def Core.setEntry (c : Core) (k : Nat) (e : WttEntry) : Core :=
  { c with wtt := Vector.ofFn (fun i => if i.val = k then e else c.wtt[i]) }
/-- TASKID of a core (14 R315): the handle of its bound entry, for a gang follower that of its leader. -/
def State.taskId (s : State) (a : Nat) : Word :=
  let lead := match (s.coreAt a).gang with | some g => if g.led then forgeOf a * 8 + g.lslot.toNat else a | none => a
  match (s.coreAt lead).bound with
  | some (b, k) => wn (2 ^ 63 + handle b k ((s.coreAt b).entry k).gen)
  | none => 0

/-- CKPC and the counts word of a core's open chunk (R330 words 4 and 5; log entry 9: with no open chunk, its PC and 0
counts). -/
def Core.chunkWords (c : Core) : Word × Word :=
  let ck := match c.chunk with | some k => k.start.pc | none => c.regs.pc
  let sq := if c.squashPc = ck then c.squashes.toNat else 0
  let n := if c.sam then c.samCount else match c.chunk with | some k => k.instrs | none => 0
  let l := if c.sam then c.samLines.length else match c.chunk with | some k => k.lines.length | none => 0
  (ck, wn (n * 2 ^ 32 + l * 65536 + b2n c.sam * 4 + sq))

/-- The scoreboard word of a packet (R330 word 3). -/
def Core.sbWord (c : Core) : Word :=
  let bitsOf := fun (p : SbEntry → Bool) => ofDigits 1 (c.scoreboard.map (fun e => b2n (p e)))
  wn (bitsOf (fun _ => true) * 2 ^ 32 + bitsOf SbEntry.srcClob * 65536 + bitsOf SbEntry.faulted)

/-- What a packet says beside the core it names. -/
structure PacketInfo where
  cls    : Nat
  src    : Nat
  notice : Bool
  npages : Nat
  type   : BitVec 4
  agent  : Option Nat
  forge  : Option Nat
  pc     : Word
  addr   : Word
  detail : Nat
  deriving DecidableEq, Repr

/-- FORGE of a log entry and of a packet: the forge named, or that of the compute core named, as 19 R398's packet shows; 0x3F for
none. -/
def forgeField (forge agent : Option Nat) : Nat :=
  (forge.orElse (fun _ => (agent.filter (fun a => !isSup a)).map forgeOf)).getD 0x3F
/-- The eight words (R330); `ck` and `sb` are those of the core named, taken before its chunk closed. -/
def State.packet (s : State) (die : Nat) (i : PacketInfo) (ck : Word × Word) (sb : Word) : Packet :=
  let seq := (s.dieAt die).pktSeq.toNat
  let w0 := i.cls * 2 ^ 56 + i.src * 2 ^ 53 + b2n i.notice * 2 ^ 52 + i.npages * 2 ^ 47 + i.type.toNat * 2 ^ 43 +
    (i.agent.getD 0x3FF) * 2 ^ 30 + forgeField i.forge i.agent * 2 ^ 24 + seq
  let task := match i.agent with | some a => s.taskId a | none => 0
  let w7 := (match i.agent with | some a => (s.coreAt a).ctx.asid.toNat | none => 0) * 2 ^ 48 + fld task 63 1 * 2 ^ 32 + fld task 0 24
  #v[wn w0, i.pc, i.addr, sb, ck.1, ck.2, wn i.detail, wn w7]

/-! ### Rings (R332) -/

/-- The ring of a supervisor is in use. -/
def State.ringUsed (s : State) (r : RingRegs) : Bool := r.base.getLsbD 0 && s.tableOk (fld r.base 12 40 * 4096)
/-- The ring has no room. -/
def RingRegs.full (r : RingRegs) : Bool := r.tail + 1 == r.head

/-- Saturating counts. -/
def satAdd {w : Nat} (x : BitVec w) (n : Nat) : BitVec w := BitVec.ofNat w (min (x.toNat + n) (2 ^ w - 1))

/-- Bytes written at physical addresses by the device itself, one line at a time. -/
def State.devicePut (s : State) (die pa : Nat) (bytes : List Byte) : State :=
  let t : Table Byte := (bytes.foldl (fun (x : Nat × Table Byte) b => (x.1 + 1, tset x.2 x.1 b)) (pa, [])).2
  let lines := (t.map (fun x => lineOf x.1)).foldl ninsert []
  lines.foldl (fun s l => s.engineLine die t (if (lineBytes t l).2 = fullMask then [l * 128] else []) l false true) s

/-- A packet put into the ring of a supervisor: written at FQTAIL, FQTAIL advanced, MC15 moved on. -/
def State.ringPut (s : State) (die : Nat) (i : BitVec 1) (p : Packet) : State :=
  let r := (s.dieAt die).rings[i.toNat]'i.isLt
  let s1 := s.devicePut die (fld r.base 12 40 * 4096 + 64 * r.tail.toNat) (p.toList.flatMap (fun w => toBytes 8 w.toNat))
  let s2 := s1.mapDie die (fun d => { d with rings := d.rings.set i.toNat { r with tail := r.tail + 1 } i.isLt })
  s2.mapCore (512 + 2 * die + i.toNat) (fun c => { c with mc := c.mc.set 15 (satAdd c.mc[15] 1) })

/-- The supervisor of a die that a core's packets go to (R332). -/
def supOf (a : Nat) : BitVec 1 := if isSup a then BitVec.ofNat 1 (a % 2) else BitVec.ofNat 1 (localOf a / 64)
/-- A freezing packet for a supervisor of a die waits at its core. -/
def State.packetHeld (s : State) (die : Nat) (i : BitVec 1) : Bool :=
  (s.liveAgents die).any (fun a => (s.coreAt a).heldPacket.isSome && supOf a == i)
/-- A packet on its way to a supervisor, behind those raised before: into its ring; or into the die buffer; or, with both full, it waits
at its core when it freezes one, and is dropped when it is a notice. -/
def State.sendPacket (s : State) (die : Nat) (i : BitVec 1) (p : Packet) (freezing : Option Nat) : State :=
  let s1 := s.mapDie die (fun d => { d with pktSeq := d.pktSeq + 1 })
  let d := s1.dieAt die
  let r := d.rings[i.toNat]'i.isLt
  if s1.ringUsed r && !r.full && !(d.packets.any (fun x => x.1 == i)) && !s1.packetHeld die i then s1.ringPut die i p
  else if d.packets.length < 32 then s1.mapDie die (fun d => { d with packets := d.packets ++ [(i, p)] })
  else match freezing with
    | some a => (s1.mapCore a (fun c => { c with heldPacket := some (s.serial, p) })).tick
    | none => s1.mapDie die (fun d => { d with logLost := satAdd d.logLost 1 })

/-! ### The host's notification ring (17 R366, R367) -/

/-- Writes and messages toward the host, in their order: they wait while the link is down. -/
def State.toHost (s : State) (l : List HostOut) : State :=
  if s.pkg.hostUp && s.pkg.hostOut.isEmpty then s.mapPkg (fun g => { g with sent := l.reverse ++ g.sent })
  else s.mapPkg (fun g => { g with hostOut := g.hostOut ++ l })

/-- A notice packet for the host: into the HNQ ring with its MSI-X message, or dropped and counted. -/
def State.hostNotice (s : State) (die : Nat) (p : Packet) : State :=
  let g := s.pkg
  if g.hnqBase.getLsbD 0 && g.hnqTail + 1 != g.hnqHead then
    (s.mapPkg (fun g => { g with hnqTail := g.hnqTail + 1 })).toHost [.packet p g.hnqTail, .msix 1]
  else s.mapDie die (fun d => { d with logLost := satAdd d.logLost 1 })

/-! ### The error log (R329) -/

/-- What is raised: class, source, and what the raise names. `pc` is the instruction concerned, `asid` the context a
migration names, `behalf` the core a unit outside any forge acted for, or the first core of the island raised for. -/
structure Raise where
  cls    : Nat
  src    : Nat
  agent  : Option Nat
  forge  : Option Nat
  port   : Option Nat
  pc     : Word
  addr   : Word
  detail : Nat
  asid   : Option (BitVec 9)
  behalf : Option Nat
  deriving DecidableEq, Repr

/-- A raise of a class by a source, with nothing named. -/
def Raise.bare (cls src : Nat) : Raise :=
  { cls := cls, src := src, agent := none, forge := none, port := none, pc := 0, addr := 0, detail := 0, asid := none,
    behalf := none }

/-- A raise by a memory port or a hearth part: it names the port, which DETAIL gives as well, and a PA. -/
def Raise.atPort (cls src port pa : Nat) : Raise := { Raise.bare cls src with port := some port, addr := wn pa, detail := port }

/-- The matrix entry (R326). -/
def Die.action (d : Die) (cls src : Nat) : Nat := fld (nth 0 d.sev.toList cls) (3 * src) 3

/-- A log entry written. -/
def State.logError (s : State) (die : Nat) (r : Raise) (action : Nat) (unwound : Bool) : State :=
  s.mapDie die (fun d =>
    let w0 := r.cls * 2 ^ 60 + r.src * 2 ^ 57 + action * 2 ^ 54 + b2n unwound * 2 ^ 53 + (r.agent.getD 0x3FF) * 2 ^ 30 +
      forgeField r.forge r.agent * 2 ^ 24 + d.logSeq.toNat
    { d with log := tset d.log d.logNext.toNat #v[wn w0, r.addr, wn (r.detail % 65536), d.cycle],
             logTotal := satAdd d.logTotal 1, logNext := d.logNext + 1, logSeq := d.logSeq + 1 })

/-- The supervisor of the die that a packet goes to (R332): that of the core, of the forge, of the forge in which an island
lies, or of the memory port; supervisor 0 for links and migrations. A supervisor's own packets go to its own ring (log
entry 10). -/
def Raise.target (r : Raise) : BitVec 1 :=
  match r.agent with
  | some a => supOf a
  | none => match r.forge with
    | some f => BitVec.ofNat 1 (f % 16 / 8)
    | none => match r.port with
      | some p => if r.src = 5 then 0 else BitVec.ofNat 1 (p % 128 / 64)
      | none => match r.behalf with
        | some a => BitVec.ofNat 1 (localOf a / 64)
        | none => 0

/-- The packet of a raise. -/
def State.raisePacket (s : State) (die : Nat) (r : Raise) (notice : Bool) (ck : Word × Word) (sb : Word) : Packet :=
  s.packet die { cls := r.cls, src := r.src, notice := notice, npages := 0, type := 0, agent := r.agent, forge := r.forge, pc := r.pc, addr := r.addr, detail := r.detail } ck sb

/-- The notice packet of a raise. -/
def State.noticePacket (s : State) (die : Nat) (r : Raise) : Packet :=
  let c := match r.agent with | some a => s.coreAt a | none => Core.reset
  let w := match r.agent with | some _ => (c.chunkWords, c.sbWord) | none => ((0, 0), 0)
  s.raisePacket die r true w.1 w.2
/-- A notice of a raise. -/
def State.noticeOf (s : State) (die : Nat) (r : Raise) : State := s.sendPacket die r.target (s.noticePacket die r) none

/-! ### Freezing a core (R175, R327, R332, R334) -/

/-- The settle codes the device sets at a freeze (R334). -/
def SbEntry.atFreeze (e : SbEntry) : SbEntry :=
  { e with settle := if e.faulted then (if e.srcClob then 1 else 2) else 0, completing := false }

/-- Run-ahead results discarded (13 R284): the checkpoint restored, token registers aside. -/
def Core.endAhead (c : Core) : Core :=
  match c.ahead with
  | some h => { c with regs := restoreRegs h.start c.regs h.tok, ahead := none }
  | none => c

/-- A core's place in every queue of waiters given up (07 R161, 16 R357). -/
def State.stopWaiting (s : State) (a : Nat) : State :=
  let s1 := ({ s with feWaiters := s.feWaiters.filter (fun w => w.2 != a) }).mapCore a (fun c => { c with wait := none })
  if isSup a then s1
  else s1.mapForge (forgeOf a) (fun g => { g with evWait := g.evWait.filter (fun w => w.1 != a) })

/-- A core that stops: an entry of its that waits for a full/empty word keeps its place among the waiters (07 R161); every other
place is given up, and taken again when the wait goes on. -/
def State.stopIssue (s : State) (a : Nat) : State :=
  let t := s.stopWaiting a
  if (s.coreAt a).scoreboard.any (fun e => e.waits.isSome) then { t with feWaiters := s.feWaiters } else t

/-- A freeze: everything older than the freeze point commits, the core stops with its settle codes set, and its packet
goes out. The words of the chunk are those before it closed. -/
def State.freezeWith (s : State) (a cls : Nat) (pkt : State → Word × Word → Word → Packet) (sup : BitVec 1) : State :=
  let w := (s.coreAt a).wait.filter Wait.kept
  let s0 := (s.stopIssue a).mapCore a Core.endAhead
  let ck := (s0.coreAt a).chunkWords
  let s1 := s0.closeSettle a
  let p := pkt s1 ck (s1.coreAt a).sbWord
  let s2 := s1.mapCore a (fun c =>
    { c with status := .frozen (BitVec.ofNat 8 cls), wait := w, scoreboard := c.scoreboard.map SbEntry.atFreeze })
  s2.sendPacket (dieOf a) sup p (some a)

/-- Whether a core holds still for a supervisor: frozen, halted or parked. -/
def Status.stopped : Status → Bool
  | .frozen _ | .halted | .parked => true
  | .idle | .running | .faulted _ _ => false

/-! ### Leaving things behind -/

/-- A core leaves its gang; when the leader alone remains, the gang ends. Members whose leader has left stay members until
they leave themselves (14 R313, R317). -/
def State.leaveGang (s : State) (a : Nat) : State :=
  match (s.coreAt a).gang with
  | none => s
  | some g =>
    let left := g.mask &&& ~~~(BitVec.ofNat 8 (2 ^ slotOf a))
    let alone := left == BitVec.ofNat 8 (2 ^ g.lslot.toNat)
    let led := g.led && g.pos != 0
    (s.mapCore a (fun c => { c with gang := none })).each (tab id (forgeOf a * 8) 8) (fun t b =>
      if left.getLsbD (slotOf b) then
        t.mapCore b (fun c => { c with gang := if alone then none else c.gang.map (fun h => { h with mask := left, led := led }) })
      else t)

/-- The open chunk rolled back as by a squash, without the count of one. -/
def Core.abandon (c : Core) : Core :=
  match c.chunk with
  | some k => ({ c with chunk := none }).rollback c.closed k []
  | none => { c with scoreboard := [], storeBuf := [], wait := none }

/-- Every retry record of a core released. -/
def Core.releaseRecords (c : Core) : Core := (tab id 0 16).foldl (fun c k => c.releaseRecord (BitVec.ofNat 4 k)) c

/-- The slots and completion queues of a core emptied (14 R310, R311). -/
def Core.emptyQueues (c : Core) : Core :=
  { c with links := Vector.replicate 4 LinkSlot.empty,
           cpl := Vector.ofFn (fun (i : Fin 4) => { c.cpl[i] with words := [], held := 0, reserved := 0 }) }

/-- A core without a task: idle, with the marks of pre-emption gone (14 R303, R320). -/
def Core.unbind (c : Core) : Core :=
  { c with bound := none, status := .idle, wait := none, supv := false, overdue := false, save := none,
           ahead := none, unwinding := none, replays := [] }

/-- A core's event-unit mutexes freed (16 R357). -/
def State.freeMutexes (s : State) (a : Nat) : State :=
  s.mapForge (forgeOf a) (fun g =>
    { g with mx := g.mx.map (fun m => if m = some (BitVec.ofNat 3 (slotOf a)) then none else m) })

/-! ### Kill (14 R310) -/

/-- Forced saves of a core whose task is gone end NOTASK (11 R237). -/
def State.endForces (s : State) (a : Nat) : State :=
  let l := (s.coreAt a).force
  (s.mapCore a (fun c => { c with force := [], forced := false })).mapDie (dieOf a) (fun d =>
    { d with saveEnded := d.saveEnded ++ l.map (fun k => cplWord k.tcw (codeOf stNotask 0 0) 0) })

/-- A command of core `a` without its retry record, which the kill released. -/
def Cmd.strip (a : Nat) (k : Cmd) : Cmd := if k.core = a then { k with record := none } else k
/-- One bound core of a killed task stops at once. -/
def State.killCore (s : State) (a : Nat) : State :=
  let s1 := (s.grantAll a).mapCore a (fun c =>
    ((({ c.endAhead.abandon with scoreboard := [], storeBuf := [] } : Core).cancelAll (fun _ => true)).releaseRecords.emptyQueues).unbind)
  let s2 := s1.mapForge (forgeOf a) (fun g =>
    { g with execs := g.execs.map (fun x => { x with cmd := x.cmd.strip a }), drains := g.drains.map (fun x => { x with cmd := x.cmd.strip a }),
             holding := g.holding.map (fun l => l.map (fun h => { h with ends := h.ends.map (fun e => (e.1.strip a, e.2)) })) })
  let s3 : State := { s2 with atomics := s2.atomics.map (fun o => if o.agent = a then { o with dropped := true } else o) }
  (((s3.stopWaiting a).leaveGang a).freeMutexes a).endForces a

/-- A reservation for an entry given up: its RSV mark, its forge's reservation and the cores it holds (14 R318). -/
def State.dropReservation (s : State) (a k : Nat) : State :=
  let s1 := s.mapCore a (fun c => c.setEntry k { c.entry k with rsv := false })
  if (s.forgeAt (forgeOf a)).gangRes = some (a, k) then
    (s1.mapForge (forgeOf a) (fun g => { g with gangRes := none })).each (tab id (forgeOf a * 8) 8) (fun t b =>
      t.mapCore b (fun c => { c with reserved := if c.reserved = some (.gang a k) then none else c.reserved }))
  else s1

/-- A co-start copy cancelled cancels every copy of its team that has not started (14 R305). -/
def State.cancelTeam (s : State) (e : WttEntry) : State :=
  if e.image[0].getLsbD 61 then
    let id := BitVec.ofNat 16 (fld e.image[2] 48 16)
    match s.pkg.teams.find? (fun t => t.id == id) with
    | none => s
    | some t =>
      (s.each t.cores (fun s b => s.mapCore b (fun c =>
        let x := c.entry t.idx
        let c1 := if (x.state = .waiting ∨ x.state = .eligible) ∧ x.image[0].getLsbD 61 ∧ BitVec.ofNat 16 (fld x.image[2] 48 16) = id
          then c.setEntry t.idx { x with state := .cancelled, rsv := false, asked := none } else c
        { c1 with reserved := if c1.reserved = some (.team id.toNat) then none else c1.reserved }))).mapPkg
        (fun g => { g with teams := g.teams.filter (fun x => x.id != id), launches := g.launches.filter (fun x => x.team != id) })
  else s

/-- A cancel of an entry that has not started (14 R301, R307). -/
def State.cancelEntry (s : State) (a k : Nat) : State :=
  let e := (s.coreAt a).entry k
  if e.state = .waiting ∨ e.state = .eligible then
    ((s.mapCore a (fun c => c.setEntry k { e with state := .cancelled, asked := none })).dropReservation a k).cancelTeam e
  else s

/-- A kill of an entry (14 R310). -/
def State.killEntry (s : State) (a k : Nat) : State :=
  let e := (s.coreAt a).entry k
  match e.state with
  | .running =>
    let bound := (s.cores.map Prod.fst).filter (fun b => (s.coreAt b).bound == some (a, k))
    (bound.foldl State.killCore s).mapCore a (fun c => c.setEntry k { c.entry k with state := .cancelled, asked := none })
  | .preempted => (s.dropReservation a k).mapCore a (fun c => c.setEntry k { c.entry k with state := .cancelled, asked := none })
  | _ => s.cancelEntry a k

/-- Every RUNNING or PREEMPTED task of a context on a die killed (R327). -/
def State.killContext (s : State) (die : Nat) (asid : BitVec 9) : State :=
  s.each ((s.liveAgents die).filter (fun a => !isSup a)) (fun t a =>
    t.each (tab id 0 32) (fun u k =>
      let e := (u.coreAt a).entry k
      if (e.state = .running ∨ e.state = .preempted) ∧ BitVec.ofNat 9 (fld e.image[0] 48 9) = asid then u.killEntry a k
      else u))

/-! ### Reset of a partition (R327, R328) -/

/-- Partition id of a package forge. -/
def State.partOf (s : State) (f : Nat) : Nat := fld (s.dieAt (f / 16)).partmap (4 * (f % 16)) 4

/-- One forge of a reset partition: commands cancelled, banks and directory invalid, records and ANVINJ cleared, the
event unit cleared, and an in-field test asked for. -/
def State.resetForge (s : State) (f : Nat) : State :=
  (s.each (tab id (8 * f) 8) (fun t a =>
    if thas t.cores a then
      t.mapCore a (fun c => { c.cancelAll (fun _ => true) with anvinj := 0, records := Vector.replicate 16 (Vector.replicate 8 0) })
    else t)).mapForge f (fun g =>
      { g with active := Bank.invalid, shadow := Bank.invalid, dir := Vector.replicate 16 DirEntry.empty,
               ev := Vector.replicate 16 0, evFrom := [], mx := Vector.replicate 8 none, iftWant := true })

/-- Every task bound to a core of a forge killed. -/
def State.killForge (s : State) (f : Nat) : State :=
  s.each (tab id (8 * f) 8) (fun t a =>
    match (t.coreAt a).bound with
    | some (b, k) => t.killEntry b k
    | none => t)

/-- The reset of the partition of a forge, on every die; packages notices aside. -/
def State.resetPartition (s : State) (f : Nat) : State :=
  let id := s.partOf f
  let fs := (tab (fun g => g) 0 64).filter (fun g => s.partOf g == id)
  (s.each fs State.killForge).each fs State.resetForge

/-! ### The severity matrix (R326, R327) -/

/-- The context a raise names. -/
def State.raiseCtx (s : State) (r : Raise) : Option (BitVec 9) :=
  match r.asid with
  | some a => some a
  | none => match r.agent with
    | some a => if (s.coreAt a).bound.isSome then some (s.coreAt a).ctx.asid else none
    | none => none
/-- The forge whose partition a raise resets. -/
def Raise.partForge (r : Raise) : Option Nat :=
  match r.forge with
  | some f => some f
  | none => match r.agent with
    | some a => if isSup a then none else some (forgeOf a)
    | none => r.behalf.bind (fun a => if isSup a then none else some (forgeOf a))

/-- The effect of action interrupt: the core named freezes with its packet unless it is stopped already, else a notice goes
out. -/
def State.interruptFor (s : State) (die : Nat) (r : Raise) : State :=
  match r.agent with
  | some a =>
    if (s.coreAt a).status.stopped then s.noticeOf die r
    else s.freezeWith a r.cls (fun t ck sb => t.raisePacket die r false ck sb) r.target
  | none => s.noticeOf die r

/-- An error raised on a die, through its severity matrix. -/
def State.raise (s : State) (die : Nat) (r : Raise) : State :=
  let act := (s.dieAt die).action r.cls r.src
  match act with
  | 0 => s
  | 1 => s.logError die r 1 false
  | 2 => (s.logError die r 2 false).interruptFor die r
  | 3 =>
    let s1 := s.logError die r 3 false
    match s.raiseCtx r with
    | some asid => (s1.noticeOf die r).killContext die asid
    | none => s1.interruptFor die r
  | _ =>
    let s1 := s.logError die r act false
    match r.partForge with
    | some f =>
      let p := s1.noticePacket die r
      ((s1.sendPacket die r.target p none).resetPartition f).hostNotice die p
    | none => s1.interruptFor die r

/-! ### Containment (R338) -/

/-- A command of a region being unwound, marked. -/
def Cmd.inRegion (a d : Nat) (k : Cmd) : Bool := k.core == a && d ≤ tcwDepth k.tcw
def Cmd.mark (a d : Nat) (k : Cmd) : Cmd := if k.inRegion a d then { k with unwound := true } else k

/-- The words of the result block of a pass command (02 R41). -/
def passWords (k : Cmd) : NatSet :=
  let base := sramBase k.core + passDoff k.tcw
  tab (fun w => base + 8 * w) 0 (4 + 16 * passB k.tcw)
/-- The word of a command of an unwound region that waits in a holding buffer: it ends POISONED, and a pass without its
retry record (12 R267). -/
def HeldWord.unwind (a d : Nat) (h : HeldWord) : HeldWord :=
  match h.ends with
  | some (k, _) =>
    if k.inRegion a d then
      let code := codeOf stPoisoned 0 0
      let aux := if isPass k.tcw then fld h.word 11 5 * 2 ^ 11 else fld h.word 0 16
      { word := cplWord k.tcw code aux, ends := some (k.mark a d, code), drop := true, freeze := none }
    else h
  | none => h
/-- A pass that has run, and so written its result block: not one that ended BADOP or NOBILLET (R245). -/
def HeldWord.ran (a d : Nat) (h : HeldWord) : Option Cmd :=
  match h.ends with
  | some (k, code) => if k.inRegion a d && isPass k.tcw && (code == 0 || code == codeOf stPoisoned 0 0) then some k else none
  | none => none
/-- The commands of a region whose words wait in holding buffers: their result blocks poisoned and full. -/
def State.poisonHeld (s : State) (a d : Nat) : State :=
  let ws := ((s.forgeAt (forgeOf a)).holding.toList.flatMap (fun l => l.filterMap (HeldWord.ran a d))).flatMap passWords
  let s1 := ws.foldl (fun (t : State) w => (t.setFull w true).setPoison w true) s
  (s1.meetAll (dieOf a) ((ws.map lineOf).foldl ninsert [])).mapForge (forgeOf a) (fun g =>
    { g with holding := g.holding.map (fun l => l.map (HeldWord.unwind a d)) })

/-- Started commands of a region marked (11 R240, 12 R267). -/
def State.markStarted (s : State) (a d : Nat) : State :=
  let m := Cmd.mark a d
  let s1 := (s.poisonHeld a d).mapForge (forgeOf a) (fun g =>
    { g with
      execs := g.execs.map (fun x => { x with cmd := m x.cmd }),
      transfer := g.transfer.map (fun t => { t with cmd := t.cmd.map m }),
      drains := g.drains.map (fun p => { p with cmd := m p.cmd }),
      probe := match g.probe with
        | .reference f k => .reference f (k.map m)
        | .update f k e p => .update f (k.map m) e p
        | .none => .none })
  let s2 := s1.mapDie (dieOf a) (fun d' =>
    { d' with tongs := d'.tongs.map (fun e => (e.1, { e.2 with cmd := m e.2.cmd })),
              swage := d'.swage.map (fun e => (e.1, { e.2 with cmd := m e.2.cmd })) })
  { s2 with colls := s2.colls.map (fun o => (o.1, o.2.map (fun x => { x with cmd := m x.cmd }))) }

/-- The handler, at an address whose low bits a PC does not have (04 R77), begins once every started command of the region has ended. -/
def State.unwindEnd (s : State) (a : Nat) : State :=
  let c := s.coreAt a
  match c.unwinding with
  | none => s
  | some syn =>
    let d := c.crdepth.toNat
    if (s.startedOf a).any (Cmd.inRegion a d) then s
    else s.mapCore a (fun c =>
      { (c.setPc (canon (nth 0 c.crh.toList (d - 1) &&& 0xFFFFFFFFFFFFFFFC))) with
        crsyn := syn, crdepth := BitVec.ofNat 3 (d - 1), unwinding := none, wait := none })

/-- The unwind of the innermost region of a core. -/
def State.unwind (s : State) (a : Nat) (syn : Word) : State :=
  let d := (s.coreAt a).crdepth.toNat
  let s1 := s.mapCore a (fun c =>
    let c0 := ({ c.abandon with scoreboard := [] } : Core).flushBuf
    let c1 := (c.q0.filter (Cmd.inRegion a d)).foldl (fun c k => match k.record with | some r => c.releaseRecord r | none => c) c0
    { (c1.cancelAll (Cmd.inRegion a d)) with unwinding := some syn, wait := some .commands })
  (s1.markStarted a d).unwindEnd a

end Sys2Proof.Machine
end

