-- ==== Sys2Proof/Machine/Ops.lean ====
section
/-! DEFINITION. How an instruction issues: what it waits for, the poison it consumes, its place in a chunk, its faults,
run-ahead, and the scoreboard (03_encoding R55 to R57, R66 to R68, 04_scalar_registers R78, R79, 08_consistency R169,
R175, 13_translation_tables R284, 15_error_tables R330 to R335). -/

namespace Sys2Proof.Machine

/-! ### What an instruction's own part answers -/

/-- A fault found at issue (R331), or poison consumed by a memory access. -/
inductive IFault where
  | illegal (w : IWord)
  | emul (w : IWord)
  | access (va : Word)
  | heapLimit (r : Word)
  | misalign (va : Word)
  | translation (va : Word) (type : BitVec 4) (page : Nat)
  /-- UE_CONSUMED at a memory access of this VA -/
  | consumed (va : Word)
  /-- an access error of this VA behind LINK_DOWN (09 R198) -/
  | linkDown (va : Word) (r : Raise)
  /-- an access error of the canonical block behind a view window (13 R283) -/
  | viewBlock (va : Word)
  /-- no fault: the access waits, a home can not serve a line of its walk now (10 R208) -/
  | held
  deriving DecidableEq, Repr

/-- The outcome of an instruction's own part. -/
inductive Res where
  /-- it has taken effect: the PC moves to the next word -/
  | done (s : State)
  /-- it has taken effect: the PC moves to this address -/
  | jump (s : State) (pc : Word)
  /-- a fault at issue: no effect -/
  | fault (f : IFault)
  /-- it waits, with no effect yet -/
  | wait (w : Wait)
  /-- it waits, having done the part of its effect that this state holds -/
  | block (w : Wait) (s : State)
  /-- its access faults late: the entry stays in the scoreboard and the core freezes -/
  | late (f : IFault) (s : State)
  /-- the state as it stands: the core has stopped, or has left the instruction itself -/
  | held (s : State)
  /-- it has taken effect, and something follows its end: an error raised, a stop -/
  | after (s : State) (f : State → State)

/-- How an instruction stands to the chunks (R169). -/
inductive ChunkClass where
  /-- one of the open chunk -/
  | member
  /-- closes the chunk and is the first of the next -/
  | first
  /-- closes the chunk and belongs to none -/
  | alone
  deriving DecidableEq, Repr

/-- What run-ahead makes of an instruction (13 R284). -/
inductive AheadClass where
  | runs
  | ends
  /-- executes without effect -/
  | noEffect
  /-- runs, and ends the run-ahead on an unknown operand -/
  | branches
  deriving DecidableEq, Repr

/-- What an instruction reads and writes, and how it issues. -/
structure Plan where
  srcs  : List RegName
  dsts  : List RegName
  /-- the lookahead count of a multi-cycle instruction (R56) -/
  la    : Option (BitVec 4)
  cls   : ChunkClass
  ahead : AheadClass
  mem   : Bool
  deriving DecidableEq, Repr

/-- A single-cycle instruction of the open chunk. -/
def Plan.simple (srcs dsts : List RegName) : Plan :=
  { srcs := srcs, dsts := dsts, la := none, cls := .member, ahead := .runs, mem := false }
/-- A multi-cycle instruction of the open chunk without memory accesses. -/
def Plan.multi (srcs dsts : List RegName) (la : BitVec 4) : Plan :=
  { srcs := srcs, dsts := dsts, la := some la, cls := .member, ahead := .runs, mem := false }
/-- A multi-cycle instruction of the open chunk with memory accesses. -/
def Plan.memory (srcs dsts : List RegName) (la : BitVec 4) : Plan :=
  { srcs := srcs, dsts := dsts, la := some la, cls := .member, ahead := .runs, mem := true }
/-- A single-cycle instruction that closes the chunk, belongs to none and ends run-ahead. -/
def Plan.closer (srcs dsts : List RegName) : Plan :=
  { srcs := srcs, dsts := dsts, la := none, cls := .alone, ahead := .ends, mem := false }

/-- The plan of an instruction whose fate is certain whatever its operands hold: it reads none of them (03 R66, 09 R189). -/
def Plan.unless (p : Plan) (fate : Bool) : Plan := if fate then { p with srcs := [] } else p

/-! ### The fault buffer (13 R285) -/

/-- A page posted to a die's fault buffer, with its type and the core whose REQ bit it sets. -/
def Die.post (d : Die) (page : Nat) (type : BitVec 4) (req : Option Nat) : Die :=
  let asid := BitVec.ofNat 9 (page / 2 ^ 36)
  let vpn := BitVec.ofNat 36 page
  let mark := fun (x : BitVec 128) => match req with | some c => putBit x c true | none => x
  let l := d.faults.toList
  match findIdx (fun e => e.valid && e.asid == asid && e.vpn == vpn) l 0 with
  | some (i, e) =>
    let e2 : FaultEntry := { e with req := mark e.req, count := satAdd e.count 1 }
    { d with faults := Vector.ofFn (fun j => if j.val = i then e2 else d.faults[j]) }
  | none =>
    match findIdx (fun e => !e.valid) l 0 with
    | some (i, _) =>
      let e : FaultEntry := { valid := true, asid := asid, vpn := vpn, type := type, req := mark 0, count := 1 }
      { d with faults := Vector.ofFn (fun j => if j.val = i then e else d.faults[j]) }
    | none => { d with dropped := true, dropcnt := satAdd d.dropcnt 1 }

/-- A page posted for a core. -/
def State.postPage (s : State) (a page : Nat) (type : BitVec 4) (req : Bool) : State :=
  s.mapDie (dieOf a) (fun d => d.post page type (if req && !isSup a then some (localOf a) else none))

/-! ### Taking a fault (R175, R331, R332) -/

/-- Class and ADDR of a fault's packet. -/
def IFault.packetClass : IFault → Nat × Word
  | .illegal w => (0x12, w.zeroExtend 64)
  | .emul w => (0x13, w.zeroExtend 64)
  | .access va => (0x11, va)
  | .heapLimit r => (0x14, r)
  | .misalign va => (0x15, va)
  | .translation va _ _ => (0x10, va)
  | .consumed va => (2, va)
  | .linkDown va _ => (0x11, va)
  | .viewBlock va => (0x11, va)
  | .held => (0x11, 0)

/-- The raise of UE_CONSUMED by a core. -/
def consumedRaise (a : Nat) (pc va : Word) : Raise :=
  { Raise.bare 2 0 with agent := some a, pc := pc, addr := va }

/-- A freeze with a packet of a class. -/
def State.freezeClass (s : State) (a cls npages : Nat) (type : BitVec 4) (pc addr : Word) : State :=
  let r : Raise := { Raise.bare 0 0 with agent := some a }
  s.freezeWith a cls (fun t ck sb =>
    t.packet (dieOf a) { cls := cls, src := 0, notice := false, npages := npages, type := type, agent := some a, forge := none, pc := pc, addr := addr, detail := 0 } ck sb)
    r.target

/-- A fault of a core behind an error raised in the same cycle: when the error has frozen the core, whose class is the lower, the fault is
sent as a notice; when it has ended the task, nothing is left to stop (15 R346). -/
def State.freezeBehind (s : State) (a : Nat) (error : State → State) (cls : Nat) (pc addr : Word) : State :=
  let t := error s
  let c := t.coreAt a
  if c.status == .running then t.freezeClass a cls 0 0 pc addr
  else if c.status.stopped then
    t.sendPacket (dieOf a) (supOf a)
      (t.packet (dieOf a) { cls := cls, src := 0, notice := true, npages := 0, type := 0, agent := some a, forge := none, pc := pc, addr := addr, detail := 0 } c.chunkWords c.sbWord) none
  else t

/-- Taking a fault found at issue: every older instruction's accesses commit, and the core freezes with its packet. A data
translation fault of a compute core is followed by run-ahead instead (13 R284). -/
def State.takeFault (s : State) (a : Nat) (f : IFault) : State :=
  let pc := (s.coreAt a).regs.pc
  let p := f.packetClass
  match f with
  | .translation va type page =>
    if isSup a then (s.postPage a page type false).freezeClass a p.1 1 type pc va
    else (s.closeSettle a).mapCore a (fun c => { c with status := .faulted va type, wait := none })
  | _ => s.freezeClass a p.1 0 0 pc p.2

/-- A fault of an instruction fetch: no run-ahead (13 R284). -/
def State.takeFetchFault (s : State) (a : Nat) (f : IFault) : State :=
  let pc := (s.coreAt a).regs.pc
  match f with
  | .translation va type page => (s.postPage a page type true).freezeClass a 0x10 1 type pc va
  | _ => s.takeFault a f

/-! ### Consuming poison (R78, R327, R338) -/

/-- CRSYN of a consumption: file and register of the operand, or 0 for memory. -/
def syndrome (r : Option RegName) (pc : Word) : Word :=
  let f := match r with
    | some x => (match x.file with | .s => 0 | .v => 1 | .p => 2 | .k => 3) * 32 + x.num.toNat
    | none => 0
  wn (2 * 2 ^ 60 + f * 2 ^ 50 + fld pc 0 48)

/-- UE_CONSUMED at a core: under ignore or log the instruction goes on (`true`); inside a region it unwinds; else the
matrix acts. -/
def State.consume (s : State) (a : Nat) (r : Option RegName) (va : Word) : State × Bool :=
  let c := s.coreAt a
  let act := (s.dieAt (dieOf a)).action 2 0
  let x := consumedRaise a c.regs.pc va
  if act ≤ 1 then (s.raise (dieOf a) x, true)
  else if c.crdepth != 0 && (act == 2 || act == 3) then
    ((s.logError (dieOf a) x act true).unwind a (syndrome r c.regs.pc), false)
  else (s.raise (dieOf a) x, false)

/-! ### What a core waits for -/

/-- Everything a core waits for: its next instruction, and the entries of its scoreboard. -/
def Core.waiting (c : Core) : List Wait := c.wait.toList ++ c.scoreboard.filterMap SbEntry.waits
/-- A wait of a core, of its next instruction or of an entry, replaced by what it was released with. -/
def Core.grantWait (c : Core) (p : Wait → Bool) (w : Wait) : Core :=
  if c.wait.any p then { c with wait := some w }
  else { c with scoreboard := c.scoreboard.map (fun e => if e.waits.any p then { e with waits := some w } else e) }

/-! ### The scoreboard (R55, R57, R79) -/

/-- Instructions that the open chunk has issued, in single-access mode the chunk it stands for (08 R169, R173). -/
def Core.issuedCount (c : Core) : Nat := if c.sam then c.samCount else match c.chunk with | some k => k.instrs | none => 0

/-- An entry that belongs to no chunk and lets instructions issue behind it: LKRD's, which R57 does not name and whose lookahead R126
shows (major 0x24 fn 7). -/
def SbEntry.outside (e : SbEntry) : Bool := fld e.word 26 6 == 0x24 && fld e.word 4 7 == 7
/-- Whether pending entries hold an instruction back. -/
def Core.sbBlocks (c : Core) (p : Plan) : Bool :=
  c.scoreboard.any (fun e => e.left == 0 || e.dests.any (fun r => p.srcs.contains r || p.dsts.contains r)) ||
  (p.la.isSome && 16 ≤ c.scoreboard.length) ||
  ((p.cls != .member || 384 ≤ c.issuedCount) && !c.scoreboard.isEmpty) ||
  (c.chunk.isNone && c.scoreboard.any (fun e => !e.outside))

/-- An instruction issues behind pending entries: their lookahead counts fall, and entries whose sources it writes are
marked. -/
def Core.sbPass (c : Core) (p : Plan) : Core :=
  { c with scoreboard := c.scoreboard.map (fun e =>
      { e with left := e.left - 1, srcClob := e.srcClob || e.sources.any p.dsts.contains }) }

/-- A scoreboard entry of the present instruction, whose registers at issue are `at'`, with results taken from `t`. -/
def entryOf (word : IWord) (p : Plan) (at' t : Core) : SbEntry :=
  let vs := p.dsts.filter (fun r => r.file == .v)
  let ss := p.dsts.filter (fun r => r.file != .v)
  { word := word, pc := at'.regs.pc, dests := p.dsts, captured := at'.regs, sources := p.srcs,
    left := (p.la.getD 0).toNat, mem := p.mem,
    result := match ss with | r :: _ => BitVec.ofNat 256 (t.regValue r) | [] => 0,
    vresult0 := match vs with | r :: _ => t.readV r.num | [] => 0,
    vresult1 := match vs with | _ :: r :: _ => t.readV r.num | _ => 0,
    flags := t.regs.fflags &&& ~~~at'.regs.fflags, poisons := p.dsts.any t.poisoned,
    srcClob := false, faulted := false, settle := 0, faddr := 0, order := 0, redo := false, completing := false, waits := none }

/-- The destination values an entry holds, in the order of its destinations. -/
def SbEntry.values (e : SbEntry) : List (RegName × Nat) :=
  let v := e.dests.filter (fun r => r.file == .v)
  e.dests.map (fun r =>
    (r, if r.file = .v then (if v.head? = some r then e.vresult0.toNat else e.vresult1.toNat) else e.result.toNat))

/-- A core with the destinations of an entry written and, when it completes as issued, its flags raised. -/
def Core.writeEntry (c : Core) (e : SbEntry) (asIssued : Bool) : Core :=
  let d := e.values.foldl (fun c x => c.putReg x.1 x.2 (asIssued && e.poisons)) c
  if asIssued then d.raiseFl e.flags else d

/-- An entry put among others in the issue order. -/
def putEntry (e : SbEntry) : List SbEntry → List SbEntry
  | [] => [e]
  | x :: t => if e.order < x.order then e :: x :: t else x :: putEntry e t

/-- The buffered stores that may drain: no older memory instruction, nor the store's own entry, is pending (08 R174). -/
def Core.drainable (c : Core) : List BufStore :=
  c.storeBuf.takeWhile (fun b => !c.scoreboard.any (fun e => e.mem && e.order ≤ b.order))

/-! ### Gangs (14 R313, R92) -/

/-- The core that leads the gang of core `a`. -/
def leadOf (a : Nat) (g : GangInfo) : Nat := forgeOf a * 8 + g.lslot.toNat
/-- Members of a gang. -/
def gangCores (a : Nat) (g : GangInfo) : List Nat :=
  (tab id (forgeOf a * 8) 8).filter (fun b => g.mask.getLsbD (slotOf b))
/-- Instructions the leader of a gang has issued. -/
def Core.ledCount (c : Core) : Nat := c.trail.length
/-- The cycle of its gang in which a member issues its next instruction: position `h` is `h` cycles behind the leader. -/
def Core.gangCycle (c : Core) : Nat := match c.gang with | some g => g.issued + g.pos.toNat | none => 0
/-- Instructions of its gang that a member has issued. -/
def Core.gangCount (c : Core) : Nat := match c.gang with | some g => g.issued | none => 0
/-- The first atomic that a leader has issued and that a member who has issued `n` instructions has not (09 R197). -/
def Core.nextAtomic (c : Core) (n : Nat) : Option Nat := (findIdx TrailStep.atomic (c.trail.drop n) n).map Prod.fst

/-- A gang member that may not issue now. Members issue in the order of their cycles, so that one that has fallen behind catches up
first; in its cycle the stall of another holds it, and an access that waits does. A member that stalls itself tries again whatever stalls
the others (log entry 118). All wait while one is stopped or in run-ahead, and behind an atomic until every member has issued its own (09
R197). A member that is being saved holds none of those behind it. -/
def State.gangHolds (s : State) (a : Nat) : Bool :=
  let c := s.coreAt a
  match c.gang with
  | none => false
  | some g =>
    let cores := gangCores a g
    let lead := s.coreAt (leadOf a g)
    let gate := lead.nextAtomic (cores.foldl (fun n b => min n (s.coreAt b).gangCount) g.issued)
    let past := fun (n : Nat) => gate.any (fun i => decide (i < n))
    if !g.led then false
    else
      cores.any (fun b => (s.coreAt b).status.stopped || (s.coreAt b).ahead.isSome) ||
      past g.issued || (g.pos != 0 && decide (lead.ledCount ≤ g.issued)) ||
      cores.any (fun b =>
        let x := s.coreAt b
        (decide (x.gangCycle ≤ c.gangCycle) && x.scoreboard.any (fun e => e.waits.isSome)) ||
        (!past x.gangCount && x.save.isNone &&
          (decide (x.gangCycle < c.gangCycle) ||
            (b != a && x.gangCycle == c.gangCycle && x.wait.isSome && c.wait.isNone))))

/-- A gang member has issued an instruction at `pc`, with or without a jump: the leader's joins the trail; a follower whose
outcome is not the leader's leaves (R92). -/
def State.gangIssued (s : State) (a : Nat) (pc : Word) (jumped : Bool) : State :=
  match (s.coreAt a).gang with
  | none => s
  | some g =>
    let step : TrailStep := { pc := pc, jumped := jumped, atomic := fld s.ir 26 6 == 0x21 }
    if !g.led then s
    else if g.pos = 0 then
      s.mapCore a (fun c => { c with trail := c.trail ++ [step], gang := some { g with issued := g.issued + 1 } })
    else
      let lead := s.coreAt (leadOf a g)
      let n := g.issued + 1
      let next := if n < lead.ledCount then (nth step lead.trail n).pc
        else match lead.ahead with | some h => h.start.pc | none => lead.regs.pc
      let s1 := s.mapCore a (fun c => { c with gang := some { g with issued := n } })
      if (nth step lead.trail g.issued).jumped == jumped && next == (s1.coreAt a).regs.pc then s1 else s1.leaveGang a

/-! ### Forced saves (14 R321) -/

/-- The waits in which a forced save stops a core at once. -/
def Wait.blocked : Wait → Bool
  | .ldsFull _ | .feFull _ | .feEmpty _ _ | .queueRoom | .sending _ | .queueWord | .link | .barrier _ _ | .event | .counter | .entry _ | .gang _
  | .resumed => true
  | .token | .scoreboard | .commands | .switch | .delivery | .port | .granted _ _ => false
/-- Whether a core may stop for a forced save at a chunk boundary: no instruction of its is half done. -/
def Core.mayStop (c : Core) : Bool :=
  match c.wait with
  | none | some .token | some .scoreboard => true
  | some w => w.blocked

/-- A member of a gang task, with its leader a member still. -/
def Core.inGangTask (c : Core) : Bool := match c.gang with | some g => g.led && !g.runtime | none => false
/-- A follower of a gang task stops for a forced save where its leader has stopped, once it has issued what the leader has (14 R321,
R324). -/
def State.stopsBehind (s : State) (a : Nat) : Bool :=
  match (s.coreAt a).gang with
  | some g => (s.coreAt (leadOf a g)).save.isSome && g.issued == (s.coreAt (leadOf a g)).ledCount
  | none => false
/-- Whether a core may stop at a chunk boundary of its own: a follower of a gang task only where its leader has. -/
def State.boundaryStops (s : State) (a : Nat) : Bool :=
  !(s.coreAt a).inGangTask || (match (s.coreAt a).gang with | some g => g.pos == 0 | none => true) || s.stopsBehind a
/-- A member of a gang task that another, stopped for the same forced save, keeps from ever issuing: it stops too. -/
def State.stopsWith (s : State) (a : Nat) : Bool :=
  let c := s.coreAt a
  match c.gang with
  | some g =>
    c.inGangTask &&
    ((gangCores a g).any (fun b => b != a && b != leadOf a g && (s.coreAt b).save.isSome) ||
      ((s.coreAt (leadOf a g)).save.isSome && decide ((s.coreAt (leadOf a g)).ledCount < g.issued)))
  | none => false
/-- What the turn of a member that may not issue does. -/
def State.gangHeld (s : State) (a : Nat) : State :=
  let c := s.coreAt a
  if c.forced && c.crdepth == 0 && c.inGangTask && s.stopsBehind a && c.scoreboard.isEmpty then s.mapCore a Core.closeChunk else s

/-! ### Issue -/

/-- The core waits. -/
def State.hold (s : State) (w : Wait) : State := s.me (fun c => { c with wait := some w })

/-- An instruction of the open chunk counted in it, the chunk opened if there is none. -/
def Core.enterChunk (c : Core) : Core :=
  let d := c.openChunk.mapChunk (fun k => { k with instrs := k.instrs + 1, pages := c.fetched.foldl ninsert k.pages })
  if d.sam then { d with samCount := d.samCount + 1 } else d

/-- The open chunk of an entry that is executed behind its issue: the first chunk behind a RESUME if none is open, whose
checkpoint has the registers of the core and every entry that is to be executed (15 R335). -/
def Core.reopen (c : Core) (e : SbEntry) (regs : Regs) : Core :=
  match c.chunk with
  | some _ => c
  | none =>
    { c with chunk := some { ({ c with regs := regs, scoreboard := putEntry e c.scoreboard } : Core).newChunk with start := regs }, nextRelease := false }

/-- The state in which an instruction's own part begins. -/
def State.begin (s : State) (p : Plan) : State :=
  match s.reissuing with
  | some (e, regs, _) => if e.outside then s else if p.cls = .alone then s.me Core.closeChunk else s.me (fun c => c.reopen e regs)
  | none => match p.cls with
    | .member => s.me Core.enterChunk
    | .first => s.me (fun c => c.closeChunk.enterChunk)
    | .alone => s.me Core.closeChunk

/-- Whether the bytes of the store that issues are to wait with its entry: not in single-access mode, where each access commits by
itself. -/
def State.leaves (s : State) : Bool := s.leave && !s.core.sam && s.reissuing.isNone

/-- The state from which a waiting instruction tries again. -/
def State.retry (s : State) (p : Plan) : State := if p.cls = .member then s else s.me Core.closeChunk

/-- A chunk of single-access mode that has touched memory is granted at once (R173). -/
def State.samGrant (s : State) (a : Nat) : State :=
  let c := s.coreAt a
  match c.chunk with
  | some k =>
    if c.sam && !(k.reads.isEmpty && k.lines.isEmpty) then
      ((s.settle a).mapCore a (fun c =>
        { c with chunk := none, samLines := (k.lines.map Prod.fst).foldl ninsert c.samLines })).commitChunk a k true
    else s
  | none => s

/-- The end of an instruction that has taken effect: a chunk of 384 instructions closes, once none of its entries is
pending, and a single-access chunk is granted. -/
def State.boundary (s : State) (a : Nat) : State :=
  let n := (s.coreAt a).issuedCount
  let t := s.samGrant a
  if 384 ≤ n && (t.coreAt a).scoreboard.isEmpty then t.mapCore a Core.closeChunk else t

/-- Buffered stores drained, in program order, into the open chunk; each is a chunk of its own in single-access mode. -/
def State.drain (s : State) (a : Nat) : State :=
  let l := (s.coreAt a).drainable
  l.foldl (fun t b =>
    (t.mapCore a (fun c => { c.openChunk.mapChunk (fun k => k.take b) with storeBuf := c.storeBuf.drop 1 })).samGrant a) s

/-- The end of an instruction, from the state `pre` at its issue to `t` with its effects and the next PC `pc`. -/
def State.finish (pre t : State) (p : Plan) (pc : Word) (jumped : Bool := false) : State :=
  let a := pre.cur
  let c0 := pre.core
  let t1 := t.me (fun c => { (c.sbPass p).setPc pc with wait := none }.count 2 1)
  (t1.boundary a).gangIssued a c0.regs.pc jumped

/-- An instruction that has issued and stays pending: its entry joins the scoreboard, and the core goes on behind it with its
registers as they were (R79). -/
def State.leaveEntry (pre t : State) (p : Plan) (e : SbEntry) : State :=
  let a := pre.cur
  let c0 := pre.core
  let t1 := t.me (fun c =>
    { (c.sbPass p) with regs := { c0.regs with pc := nextPc c0.regs.pc }, wait := none, scoreboard := c.scoreboard ++ [e] }.count 2 1)
  (t1.tick.boundary a).gangIssued a c0.regs.pc false

/-- The entry of a multi-cycle instruction whose access is still to be performed. -/
def State.entryOpen (s : State) (p : Plan) : SbEntry := { entryOf s.ir p s.core s.core with order := s.serial, redo := true, result := 0, vresult0 := 0, vresult1 := 0, flags := 0, poisons := false }

/-- A multi-cycle instruction that waits for memory, a queue word or a link holds its entry until its access completes (07 R412);
`t` is what it has done. -/
def State.waitEntry (s t : State) (p : Plan) (w : Wait) : State :=
  s.leaveEntry t p { s.entryOpen p with order := t.serial, waits := some w }

/-- A closed chunk of a core meets one of its own younger chunks when it commits, which is squashed: the state behind that, which
the core's next instruction does not reach (08 R172). -/
def State.hitsOwn (s : State) (a : Nat) : Option State :=
  let t := s.closeSettle a
  if (s.coreAt a).closed.isEmpty || (t.coreAt a).chksq == (s.coreAt a).chksq then none else some t
/-- The same for the core whose turn it is. -/
def State.selfHit (s : State) : Option State := s.hitsOwn s.cur
/-- A stop found at issue: it waits for every older entry (R175, 13 R284), and a squash by the core's own commit comes before it. -/
def State.stopWhenIdle (s held stop : State) (a : Nat) : State :=
  if !(s.coreAt a).scoreboard.isEmpty then held else match s.hitsOwn a with | some t => t | none => stop

/-- A late fault (R175): the entry stays pending, FAULTED; everything performed commits; the core freezes. -/
def State.lateFreeze (s : State) (a : Nat) (e : SbEntry) (f : IFault) : State :=
  let x := f.packetClass
  let put := fun (t : State) =>
    t.mapCore a (fun c =>
      { c with scoreboard := putEntry { e with faulted := true, faddr := x.2, completing := false, waits := none } c.scoreboard })
  match f with
  | .consumed va =>
    let act := (s.dieAt (dieOf a)).action 2 0
    let r := consumedRaise a e.pc va
    if (s.coreAt a).crdepth != 0 && (act == 2 || act == 3) then
      ((s.logError (dieOf a) r act true).unwind a (syndrome none e.pc))
    else (put s).raise (dieOf a) r
  | .linkDown va r => (put s).freezeBehind a (fun t => t.raise (dieOf a) r) 0x11 e.pc va
  | _ => (put s).freezeClass a x.1 0 0 e.pc x.2

/-- A late fault of an entry that has left the scoreboard: a chunk that a commit of its own core squashes executes again, and reports
none (R175). -/
def State.lateStop (s : State) (a : Nat) (e : SbEntry) (f : IFault) : State :=
  match s.hitsOwn a with | some t => t | none => s.lateFreeze a e f

/-- The requests of a core's failing walk of a VA reach their homes, and the core counts its misses (16 R360, R361). -/
def State.touchWalk (s : State) (a : Nat) (va : Word) : State :=
  match s.leafFor (dieOf a) (some a) (s.ctxOf a) va with
  | .ok _ => s
  | .error _ => (s.touchPath va (s.ctxOf a).root).mapCore a (fun c => (c.count 0x0A 1).count 0x0B 1)
/-- The core holds the entries of its view table, read now if it holds none (13 R282). -/
def State.holdViews (s : State) (a : Nat) : State :=
  match (s.coreAt a).views, s.readViews (s.ctxOf a) with
  | none, some v => (s.touchViews (s.ctxOf a)).mapCore a (fun c => { c with views := some v })
  | none, none => s.touchViews (s.ctxOf a)
  | some _, _ => s
/-- A memory access that faults once view decoding has been reached leaves the core holding the view entries it read (13 R282), and its
walk has read its lines. -/
def State.keepViews (s : State) (p : Plan) (f : IFault) : State :=
  let views := fun (va : Word) => match s.withViews s.cur va with | .ok x => x.1 | .error _ => s.touchViews (s.ctxOf s.cur)
  match f with
  | .translation va _ _ => (views va).touchWalk s.cur va
  | .misalign va => views va
  | .viewBlock _ => s.holdViews s.cur
  | .access va =>
    if p.mem && (match s.locate s.cur .load va 1 with | .ok _ => false | .error _ => true) then
      match rowOf (s.ctxOf s.cur) ((views va).core.views.getD []) va.toNat with
      | .table => (views va).touchWalk s.cur va
      | _ => views va
    else s
  | _ => s

/-- What the outcome of an instruction's own part makes of the state; `s` is the state at issue. A fault, and what follows the end of an
instruction, wait for the older entries (R121, R175). -/
def State.concludeIssue (s : State) (p : Plan) : Res → State
  | .done t => s.finish t p (nextPc s.core.regs.pc)
  | .jump t pc => s.finish t p pc true
  | .fault .held => (s.retry p).hold .switch
  | .fault f =>
    s.stopWhenIdle ((s.retry p).hold .scoreboard)
      (match f with
        | .consumed va => (s.consume s.cur none va).1
        | _ => (s.keepViews p f).takeFault s.cur f) s.cur
  | .wait w => if p.la.isSome && w != .token && w != .scoreboard then s.waitEntry (s.begin p) p w else (s.retry p).hold w
  | .block w t => if p.la.isSome then s.waitEntry t p w else t.hold w
  | .late f t =>
    match t.selfHit with
    | some u => u
    | none => ((t.me (fun c => ((c.sbPass p).setPc (nextPc s.core.regs.pc)).count 2 1)).tick).lateFreeze s.cur { s.entryOpen p with order := t.serial } f
  | .held t => t
  | .after t f =>
    if s.core.scoreboard.isEmpty then f (({ s with leave := false } : State).finish t p (nextPc s.core.regs.pc))
    else (s.retry p).hold .scoreboard

/-- The registers and the wait that a core has while one of its entries is executed, given back. -/
def State.giveBack (t : State) (regs : Regs) (w : Option Wait) : State :=
  ({ t with reissuing := none } : State).me (fun c => { c with regs := regs, wait := w })

/-- An entry that belongs to no chunk has ended: a checkpoint taken behind its issue holds its destinations as well, since no squash
repeats it (06 R126). -/
def Core.writeBehind (c : Core) (e : SbEntry) (write : Core → Core) : Core :=
  if !e.outside then c
  else c.mapChunk (fun k =>
    if k.startSb.any (fun x => x.order == e.order) then
      { k with start := (write { c with regs := k.start }).regs, startSb := k.startSb.filter (fun x => x.order != e.order) }
    else k)

/-- The end of an entry that has been executed: its destinations and flags written, and the stores behind it drained. -/
def State.endEntry (t : State) (e : SbEntry) (regs : Regs) (w : Option Wait) : State :=
  let c := t.core
  let write := fun (d : Core) => (e.dests.foldl (fun (d : Core) r => d.putReg r (c.regValue r) (c.poisoned r)) d).raiseFl c.regs.fflags
  let u := (t.giveBack regs w).me (fun d => (write d).writeBehind e write)
  ((u.drain t.cur).boundary t.cur)

/-- What the outcome of a scoreboard entry's execution makes of the state: `e` is the entry, `regs` and `w` what its core has
meanwhile. -/
def State.concludeEntry (s : State) (e : SbEntry) (regs : Regs) (w : Option Wait) : Res → State
  | .done t | .jump t _ => t.endEntry e regs w
  | .after t f =>
    if s.core.scoreboard.any (fun x => x.order < e.order) then
      (s.giveBack regs w).me (fun c => { c with scoreboard := putEntry { e with completing := true } c.scoreboard })
    else f (t.endEntry e regs w)
  | .wait x =>
    let issue := x == .token || x == .scoreboard
    (s.giveBack regs w).me (fun c => { c with scoreboard := putEntry { e with waits := if issue then e.waits else some x, completing := issue } c.scoreboard })
  | .block x t => (t.giveBack regs w).me (fun c => { c with scoreboard := putEntry { e with waits := some x, completing := false } c.scoreboard })
  | .fault .held => (s.giveBack regs w).me (fun c => { c with scoreboard := putEntry { e with waits := some .switch, completing := false } c.scoreboard })
  | .fault f => (s.giveBack regs w).lateStop s.cur e f
  | .late f t => (t.giveBack regs w).lateStop s.cur e f
  | .held t => { t with reissuing := none }

/-- What the outcome of an instruction's own part makes of the state. -/
def State.conclude (s : State) (p : Plan) (r : Res) : State :=
  match s.reissuing with
  | none => s.concludeIssue p r
  | some (e, regs, w) => s.concludeEntry e regs w r

/-- The own part of an instruction run from its place in the chunks. -/
def State.perform (s : State) (p : Plan) (body : State → Res) : State := s.conclude p (body (s.begin p))

/-- A multi-cycle instruction issued to stay pending. What it finds at issue decides whether it can: a load's access, whose lines it
has not read yet, is performed when it completes; a store's bytes are in the buffer; any other has its results and flags, which
its entry keeps. An instruction that waits for its entry, faults or moves the boundary of its own chunk is not left. -/
def State.performPending (s0 : State) (p : Plan) (body : State → Res) : State :=
  let s := s0.tick
  let b := s.begin p
  let plain := { s with leave := false }
  match body (b.me (fun c => { c with regs := { c.regs with fflags := 0 } })) with
  | .done t =>
    if p.cls ≠ .alone ∧ t.core.closed.length ≠ b.core.closed.length then plain.perform p body
    else if p.mem && !p.dsts.isEmpty then
      let pages := match t.core.chunk with | some k => k.pages | none => []
      s.leaveEntry (b.me (fun c => c.mapChunk (fun k => { k with pages := pages }))) p (s.entryOpen p)
    else s.leaveEntry t p { entryOf s.ir p s.core t.core with order := s.serial, flags := t.core.regs.fflags }
  | _ => (if p.cls = .alone then s else plain).perform p body

/-! ### Run-ahead (13 R284) -/

/-- One instruction of a run-ahead done: PC, count, and which destinations are unknown. -/
def Core.aheadNext (c : Core) (h : Ahead) (p : Plan) (regs : Regs) (pc : Word) (known : Bool) : Core :=
  let u := h.unknown.filter (fun r => !p.dsts.contains r)
  ({ c with regs := { regs with pc := pc }, wait := none,
            ahead := some { h with unknown := if known then u else u ++ p.dsts, count := h.count + 1, ended := h.ended || 256 ≤ h.count + 1 } }).count 0x0E 1

/-- The run-ahead ends at the present instruction. -/
def State.endRun (s : State) : State :=
  s.me (fun c => { c with ahead := c.ahead.map (fun h => { h with ended := true }), wait := none })

/-- An instruction met during run-ahead: its registers change, everything else it did is discarded. The first one meets the
fault that is posted already. -/
def State.aheadStep (s : State) (h : Ahead) (p : Plan) (body : State → Res) : State :=
  let c := s.core
  let pc := nextPc c.regs.pc
  match p.ahead with
  | .ends => s.endRun
  | .noEffect => s.me (fun c => c.aheadNext h p c.regs pc true)
  | k =>
    if p.srcs.any h.unknown.contains then
      if k = .branches then s.endRun else s.me (fun c => c.aheadNext h p c.regs pc false)
    else if p.srcs.any c.poisoned then s.endRun
    else
      match body s with
      | .done t | .after t _ => s.me (fun c => c.aheadNext h p t.core.regs pc true)
      | .jump t pc => s.me (fun c => c.aheadNext h p t.core.regs pc true)
      | .fault (.translation va type page) =>
        let pages := ninsert h.pages page
        let h1 : Ahead := { h with pages := pages, ended := h.ended || 16 ≤ pages.length }
        let again := h.count = 0 ∧ h.pages.contains page
        ((if again then s else s.postPage s.cur page type false).touchWalk s.cur va).me (fun c => c.aheadNext h1 p c.regs pc false)
      | .fault .held => s.hold .switch
      | .fault _ | .late _ _ | .held _ => s.endRun
      | .wait w | .block w _ => s.hold w

/-! ### The whole -/

/-- A register the instruction names has a token pending (R79). -/
def Core.tokenBlocks (c : Core) (p : Plan) : Bool :=
  (p.srcs ++ p.dsts).any (fun r => r.file == .s && r.num != 0 && c.tokpend.getLsbD r.num.toNat)

/-- The first source, in operand order, whose poison bit is set; an instruction that waits has met its sources already. -/
def Core.firstPoison (c : Core) (p : Plan) : Option RegName :=
  if c.wait.all (fun w => w == .token || w == .scoreboard) then p.srcs.find? c.poisoned else none

/-- An instruction of the core whose turn it is, from what holds it back to its end. -/
def State.issueState (s : State) (p : Plan) (body : State → Res) : State :=
  let c := s.core
  if s.reissuing.isSome then s.perform p body
  else if c.unwinding.isSome then s.unwindEnd s.cur
  else if c.ahead.isNone && s.gangHolds s.cur then s.gangHeld s.cur
  else if c.tokenBlocks p then s.hold .token
  else if c.sbBlocks p then s.hold .scoreboard
  else match c.ahead with
    | some h => s.aheadStep h p body
    | none =>
      if c.forced && c.crdepth == 0 && (c.chunk.isNone || p.cls != .member) && c.mayStop && s.boundaryStops s.cur then s.me Core.closeChunk
      else
        let go := fun (t : State) => if t.leave && p.la.isSome then t.performPending p body else t.perform p body
        match if p.cls = .member then none else s.selfHit with
        | some t => t
        | none =>
          if p.cls != .member && (s.closeSettle s.cur).incomplete s.cur then (s.closeSettle s.cur).hold (c.wait.getD .scoreboard)
          else match c.firstPoison p with
            | none => go s
            | some r =>
              let x := s.consume s.cur (some r) 0
              if x.2 then go x.1 else s.stopWhenIdle (s.hold .scoreboard) x.1 s.cur

/-- The meaning of an instruction with a plan and its own part. -/
def issue (p : Plan) (body : State → Res) (s : State) : Host.Outcome State Fault Refusal := .next (s.issueState p body)

/-! ### Waiting for the own chunk -/

/-- For an instruction that closes the chunk and waits until its commit completes. -/
def State.settled (s : State) : State := s.settle s.cur

/-! ### Entries executed behind their issue (04 R79, 08 R175, 15 R335) -/

/-- An entry that its core's turn executes: one that completes, or one that waits. -/
def SbEntry.due (e : SbEntry) : Bool := !e.faulted && (e.completing || e.waits.isSome)
/-- The core with the registers an entry captured and what it waits for, ready to execute it; flags show what it raises. -/
def State.beginEntry (s : State) (e : SbEntry) : State :=
  let c := s.core
  ({ s with ir := e.word, leave := false, reissuing := some (e, c.regs, c.wait) } : State).me (fun c =>
    { c with regs := { e.captured with fflags := 0 }, wait := e.waits, scoreboard := c.scoreboard.filter (fun x => x.order != e.order) })
/-- Whether an entry still waits. -/
def Core.stillWaits (c : Core) (e : SbEntry) : Bool := c.scoreboard.any (fun x => x.order == e.order && x.due)

end Sys2Proof.Machine
end

