-- ==== Sys2Proof/Machine/Memory.lean ====
section
/-! DEFINITION. A core's own memory accesses: the values its loads return, what its accesses enter in the chunk, and the
boundaries they bring about (07_memories R155 to R158, 08_consistency R169, R170, R174). -/

namespace Sys2Proof.Machine

/-! ### What a load returns (R155, R156, R174) -/

/-- The buffered stores that are older than a place in the issue order; all of them when none is given. -/
def Core.bufferedBefore (c : Core) (before : Option Nat) : List BufStore :=
  match before with
  | none => c.storeBuf
  | some n => c.storeBuf.filter (fun b => b.order < n)
/-- The youngest value of a byte among a core's stores that are not committed, for a load at its place in the issue order. A
load that is pending finds in its chunk older stores alone, younger ones being in the buffer. -/
def Core.pendingByte (c : Core) (a : Nat) (before : Option Nat := none) : Option Byte :=
  (((c.bufferedBefore before).reverse.findSome? (fun b => (b.cells.find? (fun x => x.1 == a)).map Prod.snd)).orElse (fun _ =>
    (c.chunk.bind (fun k => tfind k.bytes a)))).orElse (fun _ =>
      c.closed.reverse.findSome? (fun k => tfind k.bytes a))

/-- Whether a store of the core that is not committed wrote the whole poison unit. -/
def Core.pendingWhole (c : Core) (u : Nat) (before : Option Nat := none) : Bool :=
  (c.bufferedBefore before).any (fun b => b.whole.contains u) || (match c.chunk with | some k => k.whole.contains u | none => false) ||
  c.closed.any (fun k => k.whole.contains u)

/-- The place in the issue order of the instruction being executed, when it is not the youngest. -/
def State.place (s : State) : Option Nat := s.reissuing.map (fun x => x.1.order)
/-- A byte as the core's own load sees it. -/
def State.ownByte (s : State) (agent a : Nat) (k : Cacheability) : Byte :=
  match (s.coreAt agent).pendingByte a s.place with
  | some b => b
  | none => match k with
    | .sram => memGet s.mem a
    | .wb | .wt => s.cacheByte agent a
    | _ => s.homeByte a

/-- Whether the poison unit that holds a byte is poisoned for the core. -/
def State.ownPoison (s : State) (agent a : Nat) (k : Cacheability) : Bool :=
  let u := poisonUnit a
  !(s.coreAt agent).pendingWhole u s.place &&
  match k with
  | .sram => s.poison.contains u
  | .wb | .wt => s.cachePoison agent (lineOf a)
  | .peer => false
  | _ => s.homePoison (lineOf a)

/-- The bytes of an access, with 0 in place of every poisoned one, and whether any was. -/
def State.loadCells (s : State) (agent : Nat) (l : List (Nat × LineAttr)) : List Byte × Bool :=
  let units := l.foldl (fun (u : List (Nat × Nat × Cacheability)) x =>
    if u.any (fun y => y.1 == poisonUnit x.1) then u else (poisonUnit x.1, x.1, x.2.cache) :: u) []
  let bad := (units.filter (fun u => s.ownPoison agent u.2.1 u.2.2)).map Prod.fst
  (l.map (fun x => if bad.contains (poisonUnit x.1) then 0 else s.ownByte agent x.1 x.2.cache), !bad.isEmpty)

/-- A byte that a load finds in its view line: its own store that is not committed, or the line's in the core's caches, or what the
block holds (07 R166). -/
def State.viewByte (s : State) (agent : Nat) (x : Nat × Nat) : Byte :=
  match (s.coreAt agent).pendingByte x.1 s.place with
  | some b => b
  | none => s.cacheByte agent x.2
/-- Whether a canonical line is poisoned for a load through a view. -/
def State.viewPoison (s : State) (agent a : Nat) : Bool :=
  !(s.coreAt agent).pendingWhole (poisonUnit a) s.place && s.diePoison (dieOf agent) (lineOf a)
/-- What a load of a target returns, with 0 in place of every poisoned byte, and whether any was. -/
def State.loadTarget (s : State) (agent : Nat) (t : Target) : List Byte × Bool :=
  match t.view with
  | [] => s.loadCells agent t.cells
  | v =>
    let bad := (t.cells.foldl (fun (u : NatSet) x => ninsert u (lineOf x.1)) []).filter (fun l => s.viewPoison agent (l * 128))
    ((t.cells.zip v).map (fun x => if bad.contains (lineOf x.1.1) then 0 else s.viewByte agent (x.1.1, x.2)), !bad.isEmpty)

/-! ### Where an access goes -/

/-- A translation's failure as the fault of an instruction. -/
def XFault.asIssue : XFault → IFault
  | .translation va t p => .translation va t p
  | .access va => .access va
  | .misalign va => .misalign va
  | .viewBlock va => .viewBlock va
  | .held => .held

/-- Whether an access meets an expander that is gone (13 R292), or another package with no port to the fabric up (17
R372). -/
def State.expanderGone (s : State) (l : List (Nat × LineAttr)) : Bool :=
  l.any (fun x => s.gone x.1)

/-- Whether a core's own caches hold a line whole. -/
def Core.holdsLine (c : Core) (line : Nat) : Bool :=
  let whole := fun (l : List CacheLine) => match findLine l line with | some x => x.valid == fullMask | none => false
  whole c.l1 || whole c.l2
/-- Where the accesses of an instruction go, checked in order before any of them is made. -/
def State.locateAll (s : State) (a : Nat) (kind : Kind) : List (Word × Nat) → Except XFault (State × List Target)
  | [] => .ok (s, [])
  | (va, n) :: t =>
    match s.locate a kind va n with
    | .error f => .error f
    | .ok (s1, x) =>
      match s1.locateAll a kind t with
      | .error f => .error f
      | .ok (s2, l) => .ok (s2, x :: l)

/-- Whether an access reaches an MMIO window. -/
def Target.mmio (t : Target) : Bool := t.cells.any (fun x => x.2.cache == .mmio)

/-- The lines of some cells, each once, with their attributes. -/
def linesOf (l : List (Nat × LineAttr)) : Table LineAttr := l.foldl (fun t x => tset t (lineOf x.1) x.2) []

/-- The poison units that cells of one access cover whole. -/
def wholeUnits (l : List (Nat × LineAttr)) : NatSet :=
  let units := l.foldl (fun (u : NatSet) x => ninsert u (poisonUnit x.1)) []
  units.filter (fun u => (l.filter (fun x => poisonUnit x.1 == u)).length == (if isSram u then 8 else 128))

/-! ### Boundaries that an access brings about (R169) -/

/-- The present instruction begins the next chunk: it is taken out of the open one, which closes. -/
def Core.splitChunk (c : Core) : Core :=
  match c.chunk with
  | some k =>
    if k.instrs ≤ 1 && k.reads.isEmpty && k.lines.isEmpty then c
    else ({ c with chunk := some { k with instrs := k.instrs - 1 } }).closeChunk.enterChunk
  | none => c

/-- The present instruction is a single-access chunk of its own, or belongs to none: it is taken out of the open one,
which closes. -/
def Core.leaveChunk (c : Core) : Core :=
  match c.chunk with
  | some k =>
    if k.instrs ≤ 1 && k.reads.isEmpty && k.lines.isEmpty then { c with chunk := none, nextRelease := k.release || c.nextRelease, sam := false, samCount := 0, samLines := [], samBlocks := [] }
    else ({ c with chunk := some { k with instrs := k.instrs - 1 } }).closeChunk
  | none => c

/-- View blocks that the open chunk has written, in single-access mode since the mode began. -/
def Core.blocksWritten (c : Core) : Table (BitVec 2) :=
  c.storeBuf.foldl (fun t b => b.blocks.foldl (fun t x => tset t x.1 x.2) t)
    (if c.sam then c.samBlocks else match c.chunk with | some k => k.blocks | none => [])
/-- A view block that the open chunk has written in another layout than the access uses. -/
def Core.viewConflict (c : Core) (l : List Target) : Bool :=
  l.any (fun t => t.blocks.any (fun b => c.blocksWritten.any (fun w => w.1 == b.1 && w.2 != b.2)))

/-- The lines the open chunk will have written with those of an access. -/
def Core.linesWith (c : Core) (l : Table LineAttr) : NatSet :=
  let base := if c.sam then c.samLines else match c.chunk with | some k => k.lines.map Prod.fst | none => []
  (l.map Prod.fst).foldl ninsert ((c.storeBuf.flatMap (fun b => b.lines.map Prod.fst)).foldl ninsert base)

/-- The chunk as it stands for an instruction's accesses, split before the instruction where R169 says so; `none` while
pending entries hold the boundary back, or a pending access one of single-access mode. -/
def State.forAccess (s : State) (a : Nat) (l : List Target) (written : Table LineAttr) : Option State :=
  let c := s.coreAt a
  if c.ahead.isSome then some s
  else
    let many := 64 < (c.linesWith written).length
    if c.sam && c.scoreboard.any SbEntry.mem then none
    else if c.viewConflict l || many then
      if c.sam then some (s.mapCore a (fun c => { c with sam := false, samCount := 0, samLines := [], samBlocks := [] }))
      else if !c.scoreboard.isEmpty then none
      else some (s.mapCore a Core.splitChunk)
    else some s

/-! ### Recording (R170) -/

/-- The lines that the caches take for a read: through a view window its view lines. -/
def Target.cached (t : Target) : Table LineAttr :=
  if t.view.isEmpty then linesOf t.cells else linesOf ((t.cells.zip t.view).map (fun x => (x.2, x.1.2)))
/-- Whether an access of a die's agent must wait: a home can not serve a line of it that the core's own caches do not hold (10 R208, 17
R369), or a commit that must complete first can not (08 R171). -/
def State.accessHeld (s : State) (die : Nat) (own : Option Nat) (t : Target) : Bool :=
  t.cached.any (fun x => x.2.cache != .sram && s.homeHeld x.1 && !own.any (fun a => (s.coreAt a).holdsLine x.1)) ||
  s.touchHeld die own ((linesOf t.cells).map Prod.fst)

/-- A read's lines enter the read signature and the caches. -/
def State.recordRead (s : State) (a : Nat) (t : Target) : State :=
  if (s.coreAt a).ahead.isSome then s
  else
    let lines := linesOf t.cells
    let s1 := t.cached.foldl (fun (s : State) x =>
      match x.2.cache with
      | .wb | .wt => s.fill a x.1 x.2.hot x.2.heap
      | .uc => (s.asked a x.1).homeAsk x.1 x.2.hot
      | .peer => (s.mapPkg (fun g => g.sendFlit (x.1 * 128))).used 1
      | _ => if isSram (x.1 * 128) && sramCore (x.1 * 128) / 128 != dieOf a then s.mapCore a (fun c => c.count 0x13 1) else s)
      (s.touch (dieOf a) (some a) (lines.map Prod.fst))
    s1.mapCore a (fun c => c.mapChunk (fun k =>
      { k with reads := lines.foldl (fun r x => ninsert r x.1) k.reads, pages := t.pages.foldl ninsert k.pages }))

/-- In single-access mode each access begins a chunk of its own, behind the grant of the one before (R173). -/
def State.inChunk (s : State) (a : Nat) : State := if (s.coreAt a).sam then s.mapCore a Core.openChunk else s

/-- One access of a load: recorded, and what it returns; a chunk of single-access mode is granted with it. -/
def State.readOne (s : State) (a : Nat) (t : Target) : State × List Byte × Bool :=
  let s1 := (s.inChunk a).recordRead a t
  (s1.samGrant a, s1.loadTarget a t)
/-- The accesses of a load in order. -/
def State.readEach (s : State) (a : Nat) : List Target → State × List (List Byte × Bool)
  | [] => (s, [])
  | t :: l => (((s.readOne a t).1.readEach a l).1, (s.readOne a t).2 :: ((s.readOne a t).1.readEach a l).2)

/-- Whether the stores of the present instruction wait in the lookahead store buffer: behind a pending memory instruction that
is older, or with their own entry while that is left pending (R174). -/
def State.buffers (s : State) (a : Nat) : Bool :=
  let n := s.place.getD s.serial
  s.leaves || (s.coreAt a).scoreboard.any (fun e => e.mem && e.order < n)
/-- A buffered store in its place in program order. -/
def putStore (b : BufStore) : List BufStore → List BufStore
  | [] => [b]
  | x :: t => if b.order < x.order then b :: x :: t else x :: putStore b t

/-- A write's bytes enter the chunk, or the lookahead store buffer. -/
def State.recordWrite (s : State) (a : Nat) (va : Word) (t : Target) (bytes : List Byte) (group : NatSet := []) : State :=
  if (s.coreAt a).ahead.isSome then s
  else
    let b : BufStore :=
      { order := s.place.getD s.serial, va := va, size := bytes.length, cells := (t.cells.map Prod.fst).zip bytes, lines := linesOf t.cells,
        whole := wholeUnits t.cells, blocks := t.blocks, group := group }
    let u := s.mapCore a (fun c =>
      let c1 := ({ c with samBlocks := if c.sam then t.blocks.foldl (fun b x => tset b x.1 x.2) c.samBlocks else c.samBlocks } : Core).mapChunk
        (fun k => { k with pages := t.pages.foldl ninsert k.pages })
      if s.buffers a then { c1 with storeBuf := putStore b c1.storeBuf } else c1.mapChunk (fun k => k.take b))
    if s.buffers a && s.place.isNone then u.tick else u
/-- One access of a store; a chunk of single-access mode is granted with it. -/
def State.writeOne (s : State) (a : Nat) (va : Word) (t : Target) (bytes : List Byte) : State :=
  ((s.inChunk a).recordWrite a va t bytes).samGrant a

/-- The lookahead store buffer has no room for the `n` accesses of a store that must wait there. -/
def State.storesFull (s : State) (a n : Nat) : Bool := s.buffers a && 16 < (s.coreAt a).storeBuf.length + n

/-! ### Ordinary loads and stores of storage -/

/-- Several loads of one instruction, none of them MMIO, recorded and read by `read`: what each returns goes to `k`, with the state
that records them. -/
def State.loadsBy (s : State) (read : State → Nat → List Target → State × List (List Byte × Bool)) (accs : List (Word × Nat))
    (k : State → List (List Byte × Bool) → Res) : Res :=
  let a := s.cur
  match s.locateAll a .load accs with
  | .error f => .fault f.asIssue
  | .ok (s1, l) =>
    match accs.zip l |>.find? (fun x => x.2.mmio) with
    | some x => if (s.coreAt a).ahead.isSome then .held s else .fault (.access x.1.1)
    | none =>
      match accs.zip l |>.find? (fun x => s1.expanderGone x.2.cells) with
      | some x => .late (.access x.1.1) s1
      | none =>
        if l.any (s1.accessHeld (dieOf a) (some a)) then .wait .switch else
        match s1.forAccess a l [] with
        | none => .wait .scoreboard
        | some s2 => k (read s2 a l).1 (read s2 a l).2
/-- Ordinary loads, in order. -/
def State.loads (s : State) (accs : List (Word × Nat)) (k : State → List (List Byte × Bool) → Res) : Res := s.loadsBy State.readEach accs k

/-- Where the stores of one instruction go, when nothing holds them back: none of them is MMIO, no expander is gone, and
the lookahead store buffer has room. -/
def State.storesReady (s : State) (accs : List (Word × List Byte)) (k : State → List Target → Res) : Res :=
  let a := s.cur
  match s.locateAll a .store (accs.map (fun x => (x.1, x.2.length))) with
  | .error f => .fault f.asIssue
  | .ok (s1, l) =>
    match accs.zip l |>.find? (fun x => x.2.mmio) with
    | some x => if (s.coreAt a).ahead.isSome then .held s else .fault (.access x.1.1)
    | none =>
      match accs.zip l |>.find? (fun x => s1.expanderGone x.2.cells) with
      | some x => .late (.access x.1.1) s1
      | none => if s1.storesFull a accs.length then .wait .scoreboard else k s1 l

/-- Several stores of one instruction, in order, entered in the chunk. -/
def State.stores (s : State) (accs : List (Word × List Byte)) (k : State → Res) : Res :=
  s.storesReady accs (fun t l =>
    match t.forAccess s.cur l (linesOf (l.flatMap Target.cells)) with
    | none => .wait .scoreboard
    | some t2 => k ((accs.zip l).foldl (fun t x => t.writeOne s.cur x.1.1 x.2 x.1.2) t2))

/-- The lines of storage other than SRAM that some targets touch. -/
def cachedLines (l : List Target) : NatSet :=
  (linesOf (l.flatMap Target.cells)).foldl (fun x y => if isSram (y.1 * 128) then x else ninsert x y.1) []
/-- The stores of a scaled group: one access, whose lines are sent together at the commit (08 R184). -/
def State.storesGroup (s : State) (accs : List (Word × List Byte)) (k : State → Res) : Res :=
  s.storesReady accs (fun t l =>
    match t.forAccess s.cur l (linesOf (l.flatMap Target.cells)) with
    | none => .wait .scoreboard
    | some t2 => k ((accs.zip l).foldl (fun t x => t.recordWrite s.cur x.1.1 x.2 x.1.2 (cachedLines l)) (t2.inChunk s.cur)))
/-- The accesses of a scaled group as one: behind whatever is on its way to its lines and with the core's clean copies dropped, its bytes
are all taken from one state, and then recorded (08 R184). -/
def State.readGroup (s : State) (a : Nat) (l : List Target) : State × List (List Byte × Bool) :=
  if (s.coreAt a).ahead.isSome then (s, l.map (s.loadTarget a))
  else
    let copies := l.flatMap (fun t => t.cached.map Prod.fst)
    let t := ((s.inChunk a).touch (dieOf a) none (cachedLines l)).mapCore a (fun c =>
      copies.foldl (fun (c : Core) x => { c with l1 := killIn c.l1 x 0, l2 := killIn c.l2 x 0 }) c)
    ((l.foldl (fun t x => t.recordRead a x) t).samGrant a, l.map (t.loadTarget a))
/-- The loads of a scaled group: the homes of its lines serve them together, whatever copies the core holds (08 R184, log
entry 105). -/
def State.loadsGroup (s : State) (accs : List (Word × Nat)) (k : State → List (List Byte × Bool) → Res) : Res :=
  s.loadsBy State.readGroup accs k

/-- An access that consumes poison at issue (R156, R219, 14 R319): under ignore or log the instruction goes on. -/
def State.orConsume (s : State) (poisoned : Bool) (va : Word) (k : State → Res) : Res :=
  if !poisoned then k s
  else
    let act := (s.dieAt (dieOf s.cur)).action 2 0
    if act ≤ 1 then k (s.raise (dieOf s.cur) (consumedRaise s.cur s.core.regs.pc va)) else .fault (.consumed va)

/-- A read outside the chunks, at issue (11 R219, 14 R306): the bytes as committed, which the core sees through its
caches. -/
def State.readAlone (s : State) (va : Word) (n : Nat) (k : State → List Byte → Bool → Res) : Res :=
  let a := s.cur
  match s.locate a .load va n with
  | .error f => .fault f.asIssue
  | .ok (s1, t) =>
    if t.mmio then .fault (.access va)
    else if s1.expanderGone t.cells then .late (.access va) s1
    else if s1.accessHeld (dieOf a) (some a) t then .wait .switch
    else
      let s2 := s1.recordRead a t
      let r := s2.loadTarget a t
      k s2 r.1 r.2

end Sys2Proof.Machine
end

