-- ==== Sys2Proof/Machine/Operands.lean ====
section
/-! DEFINITION. The operand forms: immediates, branch targets, addresses, and the shapes in which instructions read
their sources and write their destinations (03_encoding R53 to R56, 04_scalar_registers R83 to R90, 05_vector_registers
R101). -/

namespace Sys2Proof.Machine

/-! ### Immediates and addresses -/

/-- sext(imm16, 64). -/
def sx16 (i : BitVec 16) : Word := i.signExtend 64
/-- zext(imm16, 64). -/
def zx16 (i : BitVec 16) : Word := i.zeroExtend 64
/-- The target of a branch: PC + 4 · sext(off16) (04 R89). -/
def branchTo (pc : Word) (o : BitVec 16) : Word := pc + 4 * o.signExtend 64
/-- The target of JAL: PC + 4 · sext(off26) (04 R90). -/
def jumpTo (pc : Word) (o : BitVec 26) : Word := pc + 4 * o.signExtend 64
/-- The address of an M form access of `n` bytes: s[a] + sext(off12) · n (07 R157). -/
def Core.memAddr (c : Core) (a : BitVec 5) (o : BitVec 12) (n : Nat) : Word := c.readS a + wn n * o.signExtend 64

/-! ### Shapes of scalar instructions -/

/-- A single-cycle instruction that writes s[d] from its sources. -/
def opS (srcs : List RegName) (d : BitVec 5) (f : Core → Word) : State → Host.Outcome State Fault Refusal :=
  issue (Plan.simple srcs [sR d]) (fun s => .done (s.me (fun c => c.writeS d (f c))))
/-- A multi-cycle instruction that writes s[d] from its sources. -/
def opM (srcs : List RegName) (d : BitVec 5) (la : BitVec 4) (f : Core → Word) :
    State → Host.Outcome State Fault Refusal :=
  issue (Plan.multi srcs [sR d] la) (fun s => .done (s.me (fun c => c.writeS d (f c))))
/-- A multi-cycle instruction that writes s[d] and raises flags. -/
def opF (srcs : List RegName) (d : BitVec 5) (la : BitVec 4) (f : Core → FRes) :
    State → Host.Outcome State Fault Refusal :=
  issue (Plan.multi srcs [sR d] la) (fun s => .done (s.me (fun c => c.putF d (f c))))
/-- An operation on s[a] and s[b]. -/
def opRR (d a b : BitVec 5) (f : Word → Word → Word) : State → Host.Outcome State Fault Refusal :=
  opS [sR a, sR b] d (fun c => f (c.readS a) (c.readS b))
/-- An operation on s[a]. -/
def opR (d a : BitVec 5) (f : Word → Word) : State → Host.Outcome State Fault Refusal :=
  opS [sR a] d (fun c => f (c.readS a))
/-- A multi-cycle operation on s[a] and s[b]. -/
def opRRm (d a b : BitVec 5) (la : BitVec 4) (f : Word → Word → Word) : State → Host.Outcome State Fault Refusal :=
  opM [sR a, sR b] d la (fun c => f (c.readS a) (c.readS b))
/-- A binary64 operation on s[a] and s[b] in the rounding mode FRM. -/
def opFRR (d a b : BitVec 5) (la : BitVec 4) (f : BitVec 2 → Nat → Nat → FRes) :
    State → Host.Outcome State Fault Refusal :=
  opF [sR a, sR b] d la (fun c => f c.regs.frm (c.readS a).toNat (c.readS b).toNat)
/-- A binary64 operation on s[a] in the rounding mode FRM. -/
def opFR (d a : BitVec 5) (la : BitVec 4) (f : BitVec 2 → Nat → FRes) : State → Host.Outcome State Fault Refusal :=
  opF [sR a] d la (fun c => f c.regs.frm (c.readS a).toNat)

/-! ### Shapes of vector instructions -/

/-- A predicated operation that writes elements of v[d]. -/
def opV (srcs : List RegName) (d : BitVec 5) (p : BitVec 3) (la : BitVec 4) (w : Nat) (f : Core → Nat → FRes) :
    State → Host.Outcome State Fault Refusal :=
  issue (Plan.multi (srcs ++ [pR p]) [vR d] la) (fun s => .done (s.me (fun c => c.putV d p w (f c))))
/-- An operation on elements of v[a] and v[b]. -/
def opVV (d a b : BitVec 5) (p : BitVec 3) (la : BitVec 4) (w : Nat) (f : BitVec 2 → Nat → Nat → FRes) :
    State → Host.Outcome State Fault Refusal :=
  opV [vR a, vR b] d p la w (fun c k => f c.regs.frm (elem w (c.readV a) k) (elem w (c.readV b) k))
/-- An operation on elements of v[a], v[b] and the old v[d]. -/
def opVVD (d a b : BitVec 5) (p : BitVec 3) (la : BitVec 4) (w : Nat) (f : BitVec 2 → Nat → Nat → Nat → FRes) :
    State → Host.Outcome State Fault Refusal :=
  opV [vR a, vR b, vR d] d p la w
    (fun c k => f c.regs.frm (elem w (c.readV a) k) (elem w (c.readV b) k) (elem w (c.readV d) k))
/-- An operation on elements of v[a]. -/
def opVU (d a : BitVec 5) (p : BitVec 3) (la : BitVec 4) (w : Nat) (f : BitVec 2 → Nat → FRes) :
    State → Host.Outcome State Fault Refusal :=
  opV [vR a] d p la w (fun c k => f c.regs.frm (elem w (c.readV a) k))
/-- A comparison of elements of v[a] and v[b] into p[d]. -/
def opVC (d : BitVec 3) (a b : BitVec 5) (p : BitVec 3) (la : BitVec 4) (w : Nat) (f : Nat → Nat → Bool × FFl) :
    State → Host.Outcome State Fault Refusal :=
  issue (Plan.multi [vR a, vR b, pR p] [pR d] la) (fun s =>
    .done (s.me (fun c => c.putCmp d p w (fun k => f (elem w (c.readV a) k) (elem w (c.readV b) k)))))
/-- A multi-cycle operation that writes all or part of v[d]; `whole` says that every byte is written. -/
def opW (srcs : List RegName) (d : BitVec 5) (la : BitVec 4) (whole : Core → Bool) (f : Core → VWord × FFl) :
    State → Host.Outcome State Fault Refusal :=
  issue (Plan.multi srcs [vR d] la) (fun s => .done (s.me (fun c =>
    ((if whole c then c.writeV d (f c).1 else c.mergeV d (f c).1).raiseFl (f c).2))))

end Sys2Proof.Machine
end

