-- ==== Sys2Proof/Machine/Alu.lean ====
section
/-! DEFINITION. The ALU group, major 0x01 (04_scalar_registers R83 to R85). -/

namespace Sys2Proof.Machine

/-- The seven bits and fewer of a shift amount: B[5:0]. -/
def shiftOf (b : Word) : Nat := fld b 0 6
/-- Rotation to the left by `n` below 64. -/
def rotL (x : Word) (n : Nat) : Word := (x <<< n) ||| (x >>> (64 - n))
/-- Rotation to the right by `n` below 64. -/
def rotR (x : Word) (n : Nat) : Word := (x >>> n) ||| (x <<< (64 - n))
/-- Signed division rounded toward zero, a quotient without representation taken to the bound on its side (R84). -/
def divS (a b : Word) : Word :=
  if b = 0 then wi (if a.toInt < 0 then -(2 ^ 63) else 2 ^ 63 - 1)
  else wi (clampI (-(2 ^ 63)) (2 ^ 63 - 1) (a.toInt.tdiv b.toInt))
/-- The remainder with the sign of the dividend; the dividend itself for a divisor of 0 (R84). -/
def remS (a b : Word) : Word := if b = 0 then a else wi (a.toInt.tmod b.toInt)
/-- Unsigned division (R84). -/
def divU (a b : Word) : Word := if b = 0 then BitVec.allOnes 64 else a / b
/-- Unsigned remainder (R84). -/
def remU (a b : Word) : Word := if b = 0 then a else a % b
/-- The bytes of a doubleword in the opposite order. -/
def byteSwap (a : Word) : Word := wn (ofBytes (toBytes 8 a.toNat).reverse)
/-- The result and the check of HADD (R85): the exact sum, and whether it lies in the heap or one past its end. -/
def heapPtr (x : Ctx) (a b : Word) : Word × Bool :=
  let r := a.toNat + b.toNat
  (wn r, x.heapl != 0 && x.heapb.toNat ≤ r && r ≤ x.heapb.toNat + x.heapl.toNat)

/-- ADD: A + B (R83). -/
def execAdd (d a b : BitVec 5) (s : State) : Host.Outcome State Fault Refusal :=
  opRR d a b (fun x y => x + y) s

/-- SUB: A − B (R83). -/
def execSub (d a b : BitVec 5) (s : State) : Host.Outcome State Fault Refusal :=
  opRR d a b (fun x y => x - y) s

/-- AND (R83). -/
def execAnd (d a b : BitVec 5) (s : State) : Host.Outcome State Fault Refusal :=
  opRR d a b (fun x y => x &&& y) s

/-- OR (R83). -/
def execOr (d a b : BitVec 5) (s : State) : Host.Outcome State Fault Refusal :=
  opRR d a b (fun x y => x ||| y) s

/-- XOR (R83). -/
def execXor (d a b : BitVec 5) (s : State) : Host.Outcome State Fault Refusal :=
  opRR d a b (fun x y => x ^^^ y) s

/-- ANDN: A & ~B (R83). -/
def execAndn (d a b : BitVec 5) (s : State) : Host.Outcome State Fault Refusal :=
  opRR d a b (fun x y => x &&& ~~~y) s

/-- ORN: A | ~B (R83). -/
def execOrn (d a b : BitVec 5) (s : State) : Host.Outcome State Fault Refusal :=
  opRR d a b (fun x y => x ||| ~~~y) s

/-- XNOR: ~(A ^ B) (R83). -/
def execXnor (d a b : BitVec 5) (s : State) : Host.Outcome State Fault Refusal :=
  opRR d a b (fun x y => ~~~(x ^^^ y)) s

/-- SLL: by B[5:0] (R83). -/
def execSll (d a b : BitVec 5) (s : State) : Host.Outcome State Fault Refusal :=
  opRR d a b (fun x y => x <<< shiftOf y) s

/-- SRL: zeros shifted in (R83). -/
def execSrl (d a b : BitVec 5) (s : State) : Host.Outcome State Fault Refusal :=
  opRR d a b (fun x y => x >>> shiftOf y) s

/-- SRA: copies of A[63] shifted in (R83). -/
def execSra (d a b : BitVec 5) (s : State) : Host.Outcome State Fault Refusal :=
  opRR d a b (fun x y => x.sshiftRight (shiftOf y)) s

/-- ROL (R83). -/
def execRol (d a b : BitVec 5) (s : State) : Host.Outcome State Fault Refusal :=
  opRR d a b (fun x y => rotL x (shiftOf y)) s

/-- ROR (R83). -/
def execRor (d a b : BitVec 5) (s : State) : Host.Outcome State Fault Refusal :=
  opRR d a b (fun x y => rotR x (shiftOf y)) s

/-- SLT: signed (R83). -/
def execSlt (d a b : BitVec 5) (s : State) : Host.Outcome State Fault Refusal :=
  opRR d a b (fun x y => boolW (x.slt y)) s

/-- SLTU: unsigned (R83). -/
def execSltu (d a b : BitVec 5) (s : State) : Host.Outcome State Fault Refusal :=
  opRR d a b (fun x y => boolW (x.ult y)) s

/-- SEQ (R83). -/
def execSeq (d a b : BitVec 5) (s : State) : Host.Outcome State Fault Refusal :=
  opRR d a b (fun x y => boolW (x == y)) s

/-- MIN: signed (R83). -/
def execMin (d a b : BitVec 5) (s : State) : Host.Outcome State Fault Refusal :=
  opRR d a b (fun x y => if x.slt y then x else y) s

/-- MAX: signed (R83). -/
def execMax (d a b : BitVec 5) (s : State) : Host.Outcome State Fault Refusal :=
  opRR d a b (fun x y => if x.slt y then y else x) s

/-- MINU (R83). -/
def execMinu (d a b : BitVec 5) (s : State) : Host.Outcome State Fault Refusal :=
  opRR d a b (fun x y => if x.ult y then x else y) s

/-- MAXU (R83). -/
def execMaxu (d a b : BitVec 5) (s : State) : Host.Outcome State Fault Refusal :=
  opRR d a b (fun x y => if x.ult y then y else x) s

/-- MUL: bits 63:0 of the product (R83). -/
def execMul (d a b : BitVec 5) (l : BitVec 4) (s : State) : Host.Outcome State Fault Refusal :=
  opRRm d a b l (fun x y => x * y) s

/-- MULH: bits 127:64 of the signed product (R83). -/
def execMulh (d a b : BitVec 5) (l : BitVec 4) (s : State) : Host.Outcome State Fault Refusal :=
  opRRm d a b l (fun x y => wi (x.toInt * y.toInt / 2 ^ 64)) s

/-- MULHU: bits 127:64 of the unsigned product (R83). -/
def execMulhu (d a b : BitVec 5) (l : BitVec 4) (s : State) : Host.Outcome State Fault Refusal :=
  opRRm d a b l (fun x y => wn (x.toNat * y.toNat / 2 ^ 64)) s

/-- DIV (R84). -/
def execDiv (d a b : BitVec 5) (l : BitVec 4) (s : State) : Host.Outcome State Fault Refusal :=
  opRRm d a b l (fun x y => divS x y) s

/-- DIVU (R84). -/
def execDivu (d a b : BitVec 5) (l : BitVec 4) (s : State) : Host.Outcome State Fault Refusal :=
  opRRm d a b l (fun x y => divU x y) s

/-- REM (R84). -/
def execRem (d a b : BitVec 5) (l : BitVec 4) (s : State) : Host.Outcome State Fault Refusal :=
  opRRm d a b l (fun x y => remS x y) s

/-- REMU (R84). -/
def execRemu (d a b : BitVec 5) (l : BitVec 4) (s : State) : Host.Outcome State Fault Refusal :=
  opRRm d a b l (fun x y => remU x y) s

/-- CLZ: leading zero bits, 64 for 0 (R83). -/
def execClz (d a : BitVec 5) (s : State) : Host.Outcome State Fault Refusal :=
  opR d a (fun x => wn (trailing 64 (reverseBits 64 x.toNat))) s

/-- CTZ: trailing zero bits, 64 for 0 (R83). -/
def execCtz (d a : BitVec 5) (s : State) : Host.Outcome State Fault Refusal :=
  opR d a (fun x => wn (trailing 64 x.toNat)) s

/-- POPC: one bits (R83). -/
def execPopc (d a : BitVec 5) (s : State) : Host.Outcome State Fault Refusal :=
  opR d a (fun x => wn (popcount 64 x.toNat)) s

/-- BREV: bit k to bit 63 − k (R83). -/
def execBrev (d a : BitVec 5) (s : State) : Host.Outcome State Fault Refusal :=
  opR d a (fun x => wn (reverseBits 64 x.toNat)) s

/-- BSWAP: byte k to byte 7 − k (R83). -/
def execBswap (d a : BitVec 5) (s : State) : Host.Outcome State Fault Refusal :=
  opR d a (fun x => byteSwap x) s

/-- SEXTB (R83). -/
def execSextb (d a : BitVec 5) (s : State) : Host.Outcome State Fault Refusal :=
  opR d a (fun x => (x.truncate 8).signExtend 64) s

/-- SEXTH (R83). -/
def execSexth (d a : BitVec 5) (s : State) : Host.Outcome State Fault Refusal :=
  opR d a (fun x => (x.truncate 16).signExtend 64) s

/-- SEXTW (R83). -/
def execSextw (d a : BitVec 5) (s : State) : Host.Outcome State Fault Refusal :=
  opR d a (fun x => (x.truncate 32).signExtend 64) s

/-- ZEXTW (R83). -/
def execZextw (d a : BitVec 5) (s : State) : Host.Outcome State Fault Refusal :=
  opR d a (fun x => (x.truncate 32).zeroExtend 64) s

/-- ADDW: the low 32 bits of A + B, sign-extended (R83). -/
def execAddw (d a b : BitVec 5) (s : State) : Host.Outcome State Fault Refusal :=
  opRR d a b (fun x y => ((x + y).truncate 32).signExtend 64) s

/-- SUBW: the low 32 bits of A − B, sign-extended (R83). -/
def execSubw (d a b : BitVec 5) (s : State) : Host.Outcome State Fault Refusal :=
  opRR d a b (fun x y => ((x - y).truncate 32).signExtend 64) s

/-- ADDS: the signed sum, clamped (R83). -/
def execAdds (d a b : BitVec 5) (s : State) : Host.Outcome State Fault Refusal :=
  opRR d a b (fun x y => wi (clampI (-(2 ^ 63)) (2 ^ 63 - 1) (x.toInt + y.toInt))) s

/-- HADD (R85): a pointer in the heap, or HEAP_LIMIT with the sum's low 64 bits as the packet's address. -/
def execHadd (d a b : BitVec 5) (s : State) : Host.Outcome State Fault Refusal :=
  issue (Plan.simple [sR a, sR b] [sR d]) (fun s =>
    let r := heapPtr s.core.ctx (s.core.readS a) (s.core.readS b)
    if r.2 then .done (s.me (fun c => c.writeS d r.1)) else .fault (.heapLimit r.1)) s

end Sys2Proof.Machine
end

