-- ==== Sys2Proof/Machine/Tasks.lean ====
section
/-! DEFINITION. The waiting task table: images, eligibility, pre-emption requests, posts, and the fresh dispatch of a task
(14_task_tables R297 to R305, R315, R320, 13_translation_tables R270). -/

namespace Sys2Proof.Machine

/-! ### Release and acquire effects (08 R177) -/

/-- REL's effect at pkg scope: own commits complete, committed dirty bytes at their homes, the next chunk a release
chunk (R178). -/
def State.relEffect (s : State) (a : Nat) : State :=
  ((s.settle a).pushDirty a).mapCore a (fun c => { c with nextRelease := true })
/-- REL's effect where `does` asks for it, and then `k`, once every byte is at its home: it waits while a home takes nothing (10 R208). -/
def State.released (s : State) (does : Bool) (k : State → Res) : Res :=
  let t := if does then s.relEffect s.cur else s
  if does && t.incomplete s.cur then .block .switch t else k t
/-- ACQ's effect at pkg scope: as REL writes back, and every line of L1 and L2 invalidated. -/
def State.acqEffect (s : State) (a : Nat) : State := (s.settle a).dropCaches a
/-- What REL waits for beyond its homes (R177): at pod scope, the switches' answers to the core's atomics and reductions; at
sys scope, the writes toward the host port. -/
def State.relWaits (s : State) (a scope : Nat) : Bool :=
  (5 ≤ scope && s.atomics.any (fun o => o.agent == a && o.window && o.done.isNone)) || (scope == 6 && !s.pkg.hostOut.isEmpty)
/-- A reduction that the switches accepted and whose path has failed since: REL.pod reports it (09 R198). -/
def AtomicReq.lost (r : AtomicReq) (a : Nat) : Bool := r.agent == a && r.window && 14 ≤ fld r.fn 0 6 && r.done.isSome
/-- REL's effect at a scope. -/
def State.relAt (s : State) (a scope : Nat) : State :=
  if scope < 3 then s else if scope = 3 then s.settle a else s.relEffect a
/-- ACQ's effect at a scope. -/
def State.acqAt (s : State) (a scope : Nat) : State :=
  if scope < 3 then s else if scope = 3 then s.settle a else s.acqEffect a

/-! ### Images (R298, R299) -/

/-- A tile-buffer or save-range descriptor: its first word's region offset and its number of words, when it is valid. -/
def rangeOf (d : Nat) : Option (Nat × Nat) := if bit d 31 then some (8 * bits d 13 18, bits d 0 13 + 1) else none
/-- Every word of a range lies in FE memory of a core. -/
def rangeOk (c : Core) (r : Nat × Nat) : Bool := (tab id 0 r.2).all (fun i => sramAssigned c (r.1 + 8 * i))

/-- PC of an image, sign-extended. -/
def imagePc (w : Vector Word 7) : Word := canon w[0]
def imagePrio (w : Vector Word 7) : BitVec 3 := BitVec.ofNat 3 (fld w[0] 57 3)
def imageAsid (w : Vector Word 7) : BitVec 9 := BitVec.ofNat 9 (fld w[0] 48 9)
def imageGmask (w : Vector Word 7) : BitVec 8 := BitVec.ofNat 8 (fld w[2] 40 8)
def imageThr (w : Vector Word 7) : Nat := fld w[2] 0 32
def imageTeam (w : Vector Word 7) : BitVec 16 := BitVec.ofNat 16 (fld w[2] 48 16)
def imageCostart (w : Vector Word 7) : Bool := w[0].getLsbD 61
def imageRepeat (w : Vector Word 7) : Bool := w[0].getLsbD 60
def imageSave (w : Vector Word 7) : Nat := fld w[3] 14 38 * 16384
/-- The save stride in bytes; a stride of 0 acts as 1. -/
def imageStride (w : Vector Word 7) : Nat := 16384 * (if fld w[3] 0 4 = 0 then 1 else fld w[3] 0 4)
/-- Message counter MCn of a core. -/
def Core.mcAt (c : Core) (n : BitVec 4) : BitVec 32 := c.mc[n.toNat]'n.isLt
/-- The message counter an image names. -/
def imageCsel (w : Vector Word 7) : BitVec 4 := BitVec.ofNat 4 (fld w[2] 36 4)

/-- A well-formed image for a core (R298). -/
def imageOk (core : Nat) (w : Vector Word 7) : Bool :=
  fld w[0] 61 3 == 0 && fld w[0] 0 2 == 0 && fld w[2] 48 16 == 0 && fld w[2] 32 4 == 0 && fld w[3] 52 12 == 0 &&
  fld w[3] 4 10 == 0 &&
  (imageGmask w == 0 || (2 ≤ popcount 8 (imageGmask w).toNat && (imageGmask w).getLsbD (slotOf core)))

/-- Words 0 to 6 of a 64-byte image. -/
def imageOf (l : List Word) : Vector Word 7 := Vector.ofFn (fun i => nth 0 l i.val)

/-! ### The entry as software sees it (R300) -/

def wttCode : WttState → Nat
  | .free => 0
  | .waiting => 1
  | .eligible => 2
  | .running => 3
  | .preempted => 4
  | .cancelled => 5
/-- word7 of an entry, CMD as 0. -/
def wttWord7 (e : WttEntry) : Word :=
  wn (wttCode e.state * 2 ^ 61 + e.eprio.toNat * 2 ^ 57 + b2n e.rsv * 2 ^ 56 + e.gen.toNat * 2 ^ 48 + e.age.toNat * 2 ^ 40)
/-- Word `i` of an entry. -/
def wttWord (e : WttEntry) (i : Nat) : Word := if i = 7 then wttWord7 e else nth 0 e.image.toList i

def wttOpen (e : WttEntry) : Bool := e.state == .free || e.state == .cancelled
def wttReady (e : WttEntry) : Bool := e.state == .eligible || e.state == .preempted

/-- A post (R301). -/
def WttEntry.post (e : WttEntry) (w : Vector Word 7) : WttEntry :=
  { e with image := w, state := .waiting, gen := e.gen + 1, eprio := imagePrio w, age := 0, rsv := false, asked := none }
/-- A post into entry `k` of a core. -/
def State.postEntry (s : State) (b k : Nat) (w : Vector Word 7) : State :=
  s.mapCore b (fun c => c.setEntry k ((c.entry k).post w))
/-- The lowest entry of a core that is FREE or CANCELLED. -/
def Core.openEntry (c : Core) : Option Nat := (findIdx wttOpen c.wtt.toList 0).map Prod.fst

/-! ### Eligibility (R302) -/

/-- Whether an entry of core `a` is eligible. -/
def State.eligible (s : State) (a : Nat) (w : Vector Word 7) : Bool :=
  let c := s.coreAt a
  let ins := [fld w[4] 0 32, fld w[4] 32 32, fld w[5] 0 32, fld w[5] 32 32].filterMap rangeOf
  let outs := [fld w[6] 0 32, fld w[6] 32 32].filterMap rangeOf
  let words := fun (r : Nat × Nat) => tab (fun i => sramBase a + r.1 + 8 * i) 0 r.2
  (imageThr w == 0 || imageThr w ≤ (c.mcAt (imageCsel w)).toNat) &&
  (ins ++ outs).all (rangeOk c) &&
  ins.all (fun r => ((tab id 0 r.2).zip (words r)).all (fun x => s.isFull x.2)) &&
  outs.all (fun r => (words r).all (fun x => !s.isFull x))

/-- One entry evaluated: WAITING and ELIGIBLE follow the condition (R301). -/
def State.evalEntry (s : State) (a k : Nat) : State :=
  let e := (s.coreAt a).entry k
  if e.state = .waiting ∧ s.eligible a e.image then
    (s.mapCore a (fun c => c.setEntry k { e with state := .eligible, since := s.serial })).tick
  else if e.state = .eligible ∧ !s.eligible a e.image then
    s.mapCore a (fun c => c.setEntry k { e with state := .waiting })
  else s
/-- Every entry of every compute core evaluated, as the dispatchers do each cycle. -/
def State.evalAll (s : State) : State :=
  s.each ((s.cores.map Prod.fst).filter (fun a => !isSup a)) (fun t a =>
    if (t.coreAt a).wtt.toList.all (fun e => e.state != .waiting && e.state != .eligible) then t
    else t.each (tab id 0 32) (fun u k => u.evalEntry a k))

/-! ### Pre-emption requests (R320, R315) -/

/-- The READY entries of a core. -/
def Core.readyList (c : Core) : List WttEntry := c.wtt.toList.filter wttReady
/-- The gang reservation in force asks for a busy core (R318). -/
def State.gangAsks (s : State) (a : Nat) : Bool :=
  let c := s.coreAt a
  match (s.forgeAt (forgeOf a)).gangRes with
  | some (b, k) =>
    let e := (s.coreAt b).entry k
    (imageGmask e.image).getLsbD (slotOf a) && c.bound.isSome && c.runPrio < e.eprio
  | none => false
/-- PEND. -/
def State.pend (s : State) (a : Nat) : Bool :=
  let c := s.coreAt a
  c.bound.isSome && (c.supv || c.readyList.any (fun e => c.runPrio < e.eprio) || s.gangAsks a)
/-- Highest EPRIO among READY entries. -/
def Core.topPrio (c : Core) : Nat := c.readyList.foldl (fun m e => max m e.eprio.toNat) 0
/-- A mask of the entries that `p` picks. -/
def Core.wttMask (c : Core) (p : WttEntry → Bool) : Nat := ofDigits 1 (c.wtt.toList.map (fun e => b2n (p e)))

/-! ### Cancelling by handle (R307) -/

/-- What a cancel finds, and the state after it. -/
def State.cancelHandle (s : State) (h : Nat) : Nat × State :=
  let a := bits h 0 10
  let k := bits h 10 5
  let e := (s.coreAt a).entry k
  if e.gen.toNat ≠ bits h 16 8 then (3, s)
  else match e.state with
    | .waiting | .eligible => (0, s.cancelEntry a k)
    | .cancelled => (0, s)
    | .running | .preempted => (1, s)
    | .free => (2, s)

/-! ### Reservations (R305, R318) -/

/-- The copy of the co-start team now reserved for, on a core, when it is ELIGIBLE: the team and the entry. -/
def State.teamCopy (s : State) (a : Nat) : Option (Nat × Nat) :=
  match s.pkg.teams with
  | [] => none
  | t :: _ =>
    let e := (s.coreAt a).entry t.idx
    if t.cores.contains a && e.state == .eligible && imageCostart e.image && imageTeam e.image == t.id then some (t.id.toNat, t.idx) else none
/-- A core reserved for its copy of a team. -/
def State.reserveTeam (s : State) (a team k : Nat) : State :=
  s.mapCore a (fun c => { c.setEntry k { c.entry k with rsv := true } with reserved := some (.team team) })
/-- Whether a core is idle and may select (R303). -/
def Core.free (c : Core) : Bool := c.status == .idle && c.bound.isNone && c.reserved.isNone
/-- The gang task whose reservation in force covers a core. -/
def State.gangOver (s : State) (a : Nat) : Option (Nat × Nat) :=
  (s.forgeAt (forgeOf a)).gangRes.filter (fun r => (imageGmask ((s.coreAt r.1).entry r.2).image).getLsbD (slotOf a))
/-- An idle core taken by the gang reservation that covers it. -/
def State.reserveGang (s : State) (a : Nat) : State :=
  match s.gangOver a with
  | some (b, k) => if (s.coreAt a).free then s.mapCore a (fun c => { c with reserved := some (.gang b k) }) else s
  | none => s
/-- A core whose task has ended or is saved is taken by the gang or the team that asks for it. -/
def State.reserveFreed (s : State) (a : Nat) : State :=
  if !(s.coreAt a).free then s
  else match s.gangOver a, s.teamCopy a with
    | some _, _ => s.reserveGang a
    | none, some (t, k) => s.reserveTeam a t k
    | none, none => s

/-! ### Dispatch (R303, 13 R270, 04 R77, 05 R99) -/

/-- The context that a context-table entry describes. -/
def ctxFrom (asid : BitVec 9) (w : Vector Word 8) : Ctx :=
  { asid := asid, troot := w[0] &&& 0x000FFFFFFFFFF000, vtbase := w[1] &&& 0x000FFFFFFFFFF000,
    heapb := canon (w[2] &&& 0xFFFFFFFFFFFFF000), heapl := w[3] &&& 0x0000FFFFFFFFF000, heapo := w[4] &&& 0xFFFFFFFFFFFFF000 }
/-- The context-table entry of an ASID on a die. -/
def State.ctxEntry (s : State) (die : Nat) (asid : BitVec 9) : Vector Word 8 :=
  tget (Vector.replicate 8 0) (s.dieAt die).ctxs asid.toNat

/-- An access fault before the first instruction of a task whose context is not live: no run-ahead, the packet's PC the
entry's PC (13 R270). -/
def State.ctxFault (s : State) (a : Nat) (pc : Word) : State := s.freezeClass a 0x11 0 0 pc 0

/-- A core given a fresh task: registers, context, containment and pre-emption state as a dispatch sets them. -/
def Core.fresh (c : Core) (b k : Nat) (e : WttEntry) (x : Ctx) : Core :=
  let r : Regs := { Regs.zero with pc := imagePc e.image, s := Regs.zero.s.set 3 e.image[1] }
  { c with regs := r, status := .running, wait := none, chunk := none, closed := [], sam := false,
           samCount := 0, samLines := [], samBlocks := [], ahead := none, squashPc := 0, squashes := 0, nextRelease := false,
           scoreboard := [], storeBuf := [], views := none, ctx := x, anvinj := 0, bound := some (b, k),
           runPrio := e.eprio, liveMap := 0, ranges := Vector.replicate 4 0, reserved := none, supv := false,
           overdue := false, forced := false, save := none, gang := none, trail := [], crdepth := 0,
           crh := Vector.replicate 4 0, crsyn := 0, unwinding := none }

/-- A fresh dispatch of entry `k` of core `b` onto core `a`, the same core or a follower of its gang. -/
def State.dispatchOn (s : State) (a b k : Nat) : State :=
  let e := (s.coreAt b).entry k
  let asid := imageAsid e.image
  let w := s.ctxEntry (dieOf a) asid
  let s1 := (s.mapCore a (fun c => c.fresh b k e (ctxFrom asid w))).acqEffect a
  if w[0].getLsbD 0 then s1 else s1.ctxFault a (imagePc e.image)
/-- The entry's part in a fresh dispatch: the counter consumed, STATE RUNNING. -/
def State.startEntry (s : State) (b k : Nat) : State :=
  s.mapCore b (fun c =>
    let e := c.entry k
    let n := imageCsel e.image
    ({ c with mc := c.mc.set n.toNat (c.mcAt n - BitVec.ofNat 32 (imageThr e.image)) n.isLt }).setEntry k
      { e with state := .running, rsv := false })

end Sys2Proof.Machine
end

