-- ==== Sys2Proof/Machine/EngineIO.lean ====
section
/-! DEFINITION. The memory accesses of the engines, in the context captured with a command (11_engine_queues R218, R222,
R227, R229). -/

namespace Sys2Proof.Machine

/-- What an engine's accesses end a command with: status and the address it names. -/
structure EngineError where
  status : Nat
  addr   : Nat
  /-- no error: a home can not serve the access now, and the command waits (10 R208) -/
  held   : Bool := false
  deriving DecidableEq, Repr
/-- The access waits. -/
def EngineError.waits : EngineError := { status := 0, addr := 0, held := true }

/-- The completion code of an error. -/
def EngineError.code (e : EngineError) : Word := codeOf e.status 0 e.addr

/-- A failed translation as a command's status (R218: a misalignment ends it with ACCESS). -/
def XFault.asEngine : XFault → EngineError
  | .translation va _ _ => { status := stXlate, addr := va.toNat }
  | .access va => { status := stAccess, addr := va.toNat }
  | .misalign va | .viewBlock va => { status := stAccess, addr := va.toNat }
  | .held => .waits

/-- A 48-bit VA field of a command. -/
def vaOf (w : Word) : Word := canon (w &&& 0x0000FFFFFFFFFFFF)

/-- Whether an access of a command reaches view decoding (07 R143). -/
def Ctx.decodes (x : Ctx) (va : Word) : Bool := !(decide (lwb ≤ va.toNat) || within va.toNat x.heapb.toNat x.heapl.toNat)
/-- A command at an access: the first that reaches view decoding reads the view table for all of the command (13 R282). -/
def State.tableFor (s : State) (k : Cmd) (va : Word) : State × Cmd :=
  if k.views.isSome || !k.ctx.decodes va || s.viewsHeld k.ctx then (s, k) else (s.touchViews k.ctx, { k with views := s.readViews k.ctx })

/-- Where an engine's access lies, for a command: no MMIO window, and no expander that is gone. -/
def State.engineLocate (s : State) (k : Cmd) (kind : Kind) (va : Word) (n : Nat) : Except EngineError (State × Target) :=
  let die := dieOf k.core
  if k.ctx.decodes va && k.views.isNone && s.viewsHeld k.ctx then .error .waits
  else match if k.ctx.decodes va then k.views.orElse (fun _ => s.readViews k.ctx) else some [] with
    | none => .error { status := stAccess, addr := va.toNat }
    | some v =>
      match s.xlate die none k.core k.ctx v kind va n with
      | .error f => .error f.asEngine
      | .ok t =>
        if t.mmio || s.expanderGone t.cells then .error { status := stAccess, addr := va.toNat }
        else .ok (s.tlbFill die none k.ctx.asid t.fills, t)
/-- The requests of a command's failing walk reach their homes (16 R361). -/
def State.engineWalk (s : State) (k : Cmd) (e : EngineError) : State :=
  if e.held || !k.ctx.decodes (canon (wn e.addr)) then s
  else match s.leafFor (dieOf k.core) none k.ctx (canon (wn e.addr)) with
    | .ok _ => s
    | .error _ => s.touchPath (canon (wn e.addr)) k.ctx.root

/-- A byte as an engine of a die reads it; one that works for another die reads at the homes (R180). -/
def State.engineByte (s : State) (die : Nat) (home : Bool) (a : Nat) (k : Cacheability) : Byte :=
  match k with
  | .sram => memGet s.mem a
  | .wb | .wt => if home then s.homeByte a else s.dieByte die a
  | _ => s.homeByte a
/-- Whether the poison unit of a byte is poisoned for an engine of a die. -/
def State.enginePoison (s : State) (die : Nat) (home : Bool) (a : Nat) (k : Cacheability) : Bool :=
  match k with
  | .sram => s.poison.contains (poisonUnit a)
  | .peer => false
  | _ => if home then s.homePoison (lineOf a) else s.diePoison die (lineOf a)

/-- The requests that an engine's access makes at the home ports (13 R295). -/
def State.engineTouch (s : State) (t : Target) : State :=
  t.cached.foldl (fun (s : State) x =>
    match x.2.cache with
    | .sram => s
    | .peer => (s.mapPkg (fun g => g.sendFlit (x.1 * 128))).used 1
    | _ => s.homeAsk x.1 x.2.hot) s

/-- The units of a target that are poisoned. -/
def State.badUnits (s : State) (die : Nat) (home : Bool) (t : Target) : NatSet :=
  ((t.cells.foldl (fun (u : Table Cacheability) x => tset u (poisonUnit x.1) x.2.cache) []).filter
    (fun u => s.enginePoison die home u.1 u.2)).map Prod.fst

/-- A byte as the writes that a command has still to land give it. -/
def pendingAt (l : List Landing) (a : Nat) : Option Byte :=
  l.foldl (fun x p => match tfind p.bytes a with | some b => some b | none => x) none
/-- The bytes of one access, each with its poison, behind the command's own writes. -/
def State.engineLoad (s : State) (c : Cmd) (home : Bool) (own : List Landing) (va : Word) (n : Nat) :
    Except EngineError (State × List (Byte × Bool)) :=
  match s.engineLocate c .load va n with
  | .error e => .error e
  | .ok (s0, t) =>
    let die := dieOf c.core
    if (if home then t.cached.any (fun x => x.2.cache != .sram && s0.homeHeld x.1) else s0.accessHeld die none t) then .error .waits else
    let s1 := if home then s0 else s0.touch die none ((linesOf t.cells).map Prod.fst)
    let bad := s1.badUnits die home t
    .ok (s1.engineTouch t, t.cells.map (fun x => ((pendingAt own x.1).getD (s1.engineByte die home x.1 x.2.cache),
      bad.contains (poisonUnit x.1) && !own.any (fun p => p.units.contains (poisonUnit x.1)))))

/-- The accesses that move `[va, va + n)`: none crosses a line. -/
def pieces : Nat → Nat → Nat → List (Nat × Nat)
  | 0, _, _ => []
  | fuel + 1, va, n =>
    if n = 0 then [] else (va, min n (128 - va % 128)) :: pieces fuel (va + min n (128 - va % 128)) (n - min n (128 - va % 128))

/-- Accesses in order, up to the first that fails. -/
def State.readPieces (s : State) (c : Cmd) (home : Bool) (own : List Landing) :
    List (Nat × Nat) → Except EngineError (State × List (Byte × Bool))
  | [] => .ok (s, [])
  | (va, n) :: t =>
    match s.engineLoad c home own (wn va) n with
    | .error e => .error e
    | .ok (s1, l) =>
      match s1.readPieces c home own t with
      | .error e => .error e
      | .ok (s2, m) => .ok (s2, l ++ m)
/-- The bytes of a range, each with its poison. -/
def State.engineRead (s : State) (c : Cmd) (va : Word) (n : Nat) (home : Bool := false) (own : List Landing := []) :
    Except EngineError (State × List (Byte × Bool)) :=
  s.readPieces c home own (pieces n va.toNat n)

/-- Units that a write's cells cover whole. -/
def coveredUnits (l : List Nat) : NatSet :=
  let units := l.foldl (fun (u : NatSet) a => ninsert u (poisonUnit a)) []
  units.filter (fun u => (l.filter (fun a => poisonUnit a == u)).length == (if isSram u then 8 else 128))

/-- The write of bytes at a located target, `none` leaving a byte as it is. -/
def landingOf (t : Target) (bytes : List (Option Byte)) : Landing :=
  let cells := (t.cells.zip bytes).filterMap (fun x => x.2.map (fun b => (x.1.1, x.1.2, b)))
  let tbl : Table Byte := cells.foldl (fun t x => tset t x.1 x.2.2) []
  { bytes := tbl, units := coveredUnits (tbl.map Prod.fst), attrs := cells.foldl (fun t x => tset t (lineOf x.1) x.2.1) [], tags := [] }

/-- Writes in order, up to the first that fails; those already made stay (R218). -/
def State.writePieces (s : State) (c : Cmd) :
    List (Nat × Nat) → List (Option Byte) → State × Option EngineError × List Landing
  | [], _ => (s, none, [])
  | (va, n) :: t, l =>
    match s.engineLocate c .store (wn va) n with
    | .error e => (s, some e, [])
    | .ok (s1, g) =>
      let r := s1.writePieces c t (l.drop n)
      (r.1, r.2.1, landingOf g (l.take n) :: r.2.2)
/-- A range to be written, `none` leaving a byte as it is: the writes that are to land. -/
def State.engineWrite (s : State) (c : Cmd) (va : Word) (bytes : List (Option Byte)) :
    State × Option EngineError × List Landing :=
  s.writePieces c (pieces bytes.length va.toNat bytes.length) bytes

/-- Where a range lies, without touching it: the storage addresses of its bytes. -/
def State.whereIs (s : State) (c : Cmd) (kind : Kind) : List (Nat × Nat) → Except EngineError (List Nat)
  | [] => .ok []
  | (va, n) :: t =>
    match s.engineLocate c kind (wn va) n with
    | .error e => .error e
    | .ok (s1, g) =>
      match s1.whereIs c kind t with
      | .error e => .error e
      | .ok m => .ok (g.cells.map Prod.fst ++ m)

/-- Whether a write that is to land must wait: a home of its lines takes nothing now (10 R208). -/
def State.landingHeld (s : State) (p : Landing) : Bool :=
  p.attrs.any (fun x => !isSram (x.1 * 128) && (s.writeHeld x.1 x.2.heap || (s.landLine x.1).pushes.any (fun q => q.line == x.1)))
/-- Everything on its way to the lines of some ranges lands before any of them is read, so that the accesses of a scaled group find one
state (08 R184). -/
def State.gather (s : State) (c : Cmd) (l : List (Word × Nat)) : State :=
  let lines := l.foldl (fun (u : NatSet) x => match s.whereIs c .load (pieces x.2 x.1.toNat x.2) with
    | .ok a => a.foldl (fun u y => ninsert u (lineOf y)) u
    | .error _ => u) []
  s.touch (dieOf c.core) none lines

/-- Words of FE memory among some written addresses (R229). -/
def feWords (cells : List Nat) : NatSet := (cells.filter isSram).foldl (fun (u : NatSet) a => ninsert u (a / 8 * 8)) []
/-- Units marked poisoned. -/
def State.poisonUnits (s : State) (us : NatSet) : State :=
  us.foldl (fun (t : State) u => if isSram u then t.setPoison u true else t.poisonLine (lineOf u)) s

end Sys2Proof.Machine
end

