-- ==== Sys2Proof/Machine/Arbiter.lean ====
section
/-! DEFINITION. The forge's anvil arbiter: the fields of the anvil commands, the projected banks, the classes of the queue
heads, rounds, and how an anvil command ends (12_anvil_queue R242, R244 to R255, 06_special_registers R135, R136). -/

namespace Sys2Proof.Machine

/-! ### Command fields (R245 to R250) -/

/-- Billet of a MAPPLY or MCOLSUM. -/
def passBillet (t : Tcw) : BitVec 16 := BitVec.ofNat 16 (tcwF t 1 48 16)
def passAoff (t : Tcw) : Nat := tcwF t 1 0 20
def passClass (t : Tcw) : Nat := tcw0 t 37 3
def passKeep (t : Tcw) : Bool := (tcwWord t 0).getLsbD 36
def passGain (t : Tcw) : BitVec 4 := BitVec.ofNat 4 (tcw0 t 32 4)
def passEa (t : Tcw) : BitVec 8 := BitVec.ofNat 8 (tcw0 t 40 8)
def loadForce (t : Tcw) : Bool := (tcwWord t 0).getLsbD 33
def loadSet (t : Tcw) : Bool := (tcwWord t 0).getLsbD 32

/-- A field outside the command's statement, for the core `c` that sent it. -/
def anvilBad (c : Core) (t : Tcw) : Bool :=
  match tcwOp t with
  | 1 | 2 =>
    let b := passB t
    let ao := passAoff t
    let d := passDoff t
    let fmt := if tcwOp t = 1 then tcwFmtA t == 0x20 && tcwFmtB t == 0x21 else tcwFmtA t == 0 && tcwFmtB t == 0x21
    let src := if tcwOp t = 1 then
        ao % 64 == 0 && ao + 64 * b ≤ spSize c && !(decide (ao < d + 32 + 128 * b) && decide (d < ao + 64 * b))
      else ao == 0 && tcwF t 1 40 6 == 0
    !(fmt && src && d % 32 == 0 && d + 32 + 128 * b ≤ spSize c && tcwF t 1 46 2 == 0 && tcwF t 1 20 20 == 0 &&
      tcwF t 2 20 44 == 0 && tcwF t 3 16 48 == 0)
  | 3 =>
    !(tcwFmtA t == 0x22 && tcwFmtB t == 0 && tcw0 t 34 14 == 0 && tcwF t 3 0 64 == 0 &&
      (if loadSet t then tcwF t 1 15 49 == 0 && tcwF t 2 0 64 == 0
       else tcwF t 1 48 16 == 0 && tcwF t 1 0 8 == 0 && tcwF t 2 16 48 == 0))
  | 5 => !(tcwFmtA t == 0 && tcwFmtB t == 0 && tcw0 t 33 15 == 0 && tcwF t 1 0 64 == 0 && tcwF t 2 0 64 == 0 && tcwF t 3 0 64 == 0)
  | _ => !(tcwFmtA t == 0 && tcwFmtB t == 0 && tcw0 t 32 16 == 0 && tcwF t 1 0 64 == 0 && tcwF t 2 0 64 == 0 && tcwF t 3 0 64 == 0)

/-- Id and VA of an MLOADB's billet (06 R135). -/
def loadOf (g : Forge) (t : Tcw) : BitVec 16 × Word :=
  if loadSet t then
    let n := tcwF t 1 0 15
    let base := canon ((if g.cur then g.wsbase[1] else g.wsbase[0]).zeroExtend 64 <<< 8)
    (BitVec.ofNat 16 (b2n g.cur * 2 ^ 15 + n), base + wn (n * 18432))
  else (BitVec.ofNat 16 (tcwF t 2 0 16), canon (wn (tcwF t 1 0 48)))

/-! ### The directory (R253) -/

/-- The directory entry of a billet. -/
def Forge.dirFind (g : Forge) (id : BitVec 16) : Option Nat :=
  (findIdx (fun (e : DirEntry) => e.valid && e.id == id) g.dir.toList 0).map Prod.fst
def Forge.dirAt (g : Forge) (e : Nat) : DirEntry := nth DirEntry.empty g.dir.toList e
def Forge.setDir (g : Forge) (e : Nat) (x : DirEntry) : Forge := { g with dir := Vector.ofFn (fun i => if i.val = e then x else g.dir[i]) }
/-- The entry a new billet takes: its own, a free one, or the one of highest AGE (lowest index on a tie). -/
def Forge.dirSlot (g : Forge) (id : BitVec 16) : Nat :=
  match g.dirFind id with
  | some e => e
  | none => match findIdx (fun (e : DirEntry) => !e.valid) g.dir.toList 0 with
    | some (e, _) => e
    | none =>
      let m := g.dir.toList.foldl (fun m (e : DirEntry) => max m e.age.toNat) 0
      ((findIdx (fun (e : DirEntry) => e.age.toNat == m) g.dir.toList 0).map Prod.fst).getD 0
/-- A completed load recorded: every other entry's AGE goes up, to 255 at most (R253; DESIGN CHOICE, log entry 116). -/
def Forge.dirPut (g : Forge) (id : BitVec 16) (va : BitVec 48) (ctx : Ctx) : Forge :=
  let k := g.dirSlot id
  let aged : Forge := { g with dir := g.dir.map (fun e => if e.valid then { e with age := satAdd e.age 1 } else e) }
  aged.setDir k { valid := true, ctx := ctx, va := va, age := 0, id := id }
/-- An entry used: AGE 0. The start of a pass that names its billet is a use, a resident one too (R253 does not say what is one; DESIGN
CHOICE, log entry 116). -/
def Forge.dirUse (g : Forge) (id : BitVec 16) : Forge :=
  match g.dirFind id with | some e => g.setDir e { g.dirAt e with age := 0 } | none => g

/-! ### Projected banks (R252) -/

/-- Ids of the projected active and shadow billets. -/
abbrev Projected := Option (BitVec 16) × Option (BitVec 16)

/-- The banks after one started command; an MLOADB whose billet was resident has ended at its start (R247). -/
def project (g : Forge) (p : Projected) (x : AnvilCmd) : Projected :=
  let t := x.cmd.tcw
  match tcwOp t with
  | 1 | 2 => if p.1 ≠ some (passBillet t) ∧ p.2 = some (passBillet t) then (p.2, p.1) else p
  | 3 => (p.1, some (loadOf g t).1)
  | 4 => (p.2, p.1)
  | 5 => if p.1.isNone then p else if (tcwWord t 0).getLsbD 32 then (p.2, none) else (none, p.2)
  | _ => p

/-- The banks as they stand, a load under way counted as resident. -/
def Forge.banksNow (g : Forge) : Projected :=
  (if g.active.valid then some g.active.id else none,
   match g.transfer with | some t => some t.bank.id | none => if g.shadow.valid then some g.shadow.id else none)
/-- The banks as they will stand once some started commands have executed. -/
def Forge.projectList (g : Forge) (l : List AnvilCmd) : Projected := l.foldl (project g) g.banksNow
def Forge.projected (g : Forge) : Projected := g.projectList g.execs

/-! ### Pins, batch boundaries, holding buffers -/

/-- A started command that has not executed its pass names the billet (R254). -/
def Forge.pinnedStarted (g : Forge) (id : BitVec 16) : Bool := g.execs.any (fun x => isPass x.cmd.tcw && passBillet x.cmd.tcw == id)

/-- A pass that waits for an MLOADB of its billet (R252): the billet is in neither projected bank and not in the
directory. -/
def Forge.awaitsLoad (g : Forge) (t : Tcw) : Bool :=
  let p := g.projected
  isPass t && p.1 != some (passBillet t) && p.2 != some (passBillet t) && (g.dirFind (passBillet t)).isNone
/-- A command that an open batch boundary holds back (06 R136): it was not there at the boundary's acceptance. An MLOADB is
let through when the head of a queue is a command of the before set that waits for its billet. -/
def State.boundHeld (s : State) (f : Nat) (k : Cmd) : Bool :=
  let g := s.forgeAt f
  g.bounds.any (fun b => !(b.before.contains k.id) &&
    !(tcwOp k.tcw == 3 && (tab id (8 * f) 8).any (fun a =>
      match (s.coreAt a).q0 with
      | q :: _ => b.before.contains q.id && g.awaitsLoad q.tcw && passBillet q.tcw == (loadOf g k.tcw).1
      | [] => false)))

/-- The billet is named by the head of a queue of the forge that no boundary holds (R254). -/
def State.pinnedHeads (s : State) (f : Nat) (id : BitVec 16) : Bool :=
  (tab (fun x => x) (8 * f) 8).any (fun a =>
    match (s.coreAt a).q0 with
    | k :: _ => isPass k.tcw && passBillet k.tcw == id && !s.boundHeld f k
    | [] => false)

/-- Started commands of a core in its forge, words aside (R244). -/
def Forge.runningOf (g : Forge) (a : Nat) : Nat :=
  let mine := fun (k : Cmd) => k.core == a
  (g.execs.filter (fun x => x.reload.isNone && mine x.cmd)).length +
  (match g.transfer with | some t => (match t.cmd with | some k => b2n (mine k) | none => 0) | none => 0) +
  (g.drains.filter (fun d => mine d.cmd)).length +
  (match g.probe with | .reference _ (some k) => b2n (mine k) | .update _ (some k) _ _ => b2n (mine k) | _ => 0)
def Forge.held (g : Forge) (k : Nat) : List HeldWord := nth [] g.holding.toList k
def Forge.setHeld (g : Forge) (k : Nat) (l : List HeldWord) : Forge :=
  { g with holding := Vector.ofFn (fun i => if i.val = k then l else g.holding[i]) }

/-- The next anvil of the die's ring (R249). -/
def ringNext (f : Nat) : Nat :=
  let k := f % 16
  let n := if k = 0 then 1 else if k = 2 then 0 else if k = 15 then 14 else if k % 2 = 1 then k + 2 else k - 2
  f / 16 * 16 + n
/-- Whether an anvil's shadow bank is free for a hand-off (R249): invalid, not being filled, with no started load; nothing
can pin an invalid bank. -/
def Forge.shadowFree (g : Forge) : Bool :=
  !g.shadow.valid && g.transfer.isNone && !g.execs.any (fun x => tcwOp x.cmd.tcw == 3)

/-- A core whose save has begun sends no further command (R266). -/
def Core.saveBegun (c : Core) : Bool := c.save.isSome

/-! ### Classes (R252, R256) -/

/-- What holds a head back, beyond its class. -/
inductive HeadHold where
  | free
  /-- a pin held only by queue heads, which gives way at AGE 15 -/
  | headPin
  /-- a pin held by a started command -/
  | startedPin
  | blocked
  deriving DecidableEq, Repr

/-- The pin that a load replacing the projected shadow billet meets (R254). -/
def State.pinOf (s : State) (f : Nat) (shadow : Option (BitVec 16)) : HeadHold :=
  match shadow with
  | none => .free
  | some id => if (s.forgeAt f).pinnedStarted id then .startedPin else if s.pinnedHeads f id then .headPin else .free

/-- Class of slot `k`'s head and what holds it: 0 empty, 1 A, 2 S, 3 O, 4 blocked, by what it names, whether or not its
other fields are well formed, which the start checks (log entry 44). An implicit reload waits on a pin as the MLOADB it is; its head keeps
class O (log entry 15). -/
def State.headClass (s : State) (f k : Nat) : Nat × HeadHold :=
  let a := 8 * f + k
  let g := s.forgeAt f
  let c := s.coreAt a
  let p := g.projected
  match c.q0 with
  | [] => (0, .blocked)
  | x :: _ =>
    let t := x.tcw
    if s.boundHeld f x || 4 ≤ (g.held k).length + g.runningOf a || c.saveBegun ||
        (tcwOrd t && (s.startedOf a).any (fun y => engOf (tcwOp y.tcw) == some 0)) then (4, .blocked)
    else match tcwOp t with
      | 1 | 2 =>
        if tcwOp t = 1 ∧ x.record.isNone ∧ c.records.toList.all (fun r => r[0].getLsbD 63) then (4, .blocked)
        else if p.1 = some (passBillet t) then (1, .free)
        else if p.2 = some (passBillet t) then (2, .free)
        else if (g.dirFind (passBillet t)).isSome then (3, s.pinOf f p.2)
        else (4, .blocked)
      | 3 =>
        let id := (loadOf g t).1
        if !loadForce t && (p.1 == some id || p.2 == some id) then (3, .free)
        else match s.pinOf f p.2 with
          | .free => (3, .free)
          | h => (4, h)
      | 5 => if p.1.isSome && !(s.forgeAt (ringNext f)).shadowFree then (4, .blocked) else (3, .free)
      | _ => (3, .free)

/-- The class as the forge window shows it (R256). -/
def State.slotClass (s : State) (f k : Nat) : Nat := (s.headClass f k).1

/-- Whether a slot's head may start at its AGE. -/
def canStart (h : HeadHold) (age : BitVec 4) : Bool := match h with | .free => true | .headPin => age == 15 | _ => false

/-! ### Ending (R222, R244, R251) -/

/-- What an ended command leaves of its retry record: released, or filled and no longer busy (R261, 15 R339). -/
def Core.endRecord (c : Core) (k : Cmd) (drop : Bool) : Core :=
  match k.record with
  | some r => if drop then c.releaseRecord r else c.recordIdle r
  | none => c
/-- The code a command ends with: POISONED when an unwind has overtaken it (R267). -/
def Cmd.endCode (k : Cmd) (code : Word) : Word := if k.unwound then codeOf stPoisoned 0 0 else code
/-- Whether a command that has done its work ends at once: it pushes no word, or its word finds room and none waits before
it. -/
def State.endsNow (s : State) (k : Cmd) (code : Word) : Bool :=
  !wantsWord k.tcw (k.endCode code) || ((s.forgeAt (forgeOf k.core)).held (slotOf k.core) == [] && (s.coreAt k.core).cplRoom 0)
/-- A command that has done its work ends, or its word waits in the holding buffer behind those already there. -/
def State.anvilFinish (s : State) (k : Cmd) (code : Word) (aux : Nat) (drop : Bool) (freeze : Option Nat) : State :=
  let code2 := k.endCode code
  if s.endsNow k code then s.mapCore k.core (fun c => (c.finish k code2 aux).endRecord k drop)
  else
    s.mapForge (forgeOf k.core) (fun g =>
      g.setHeld (slotOf k.core) (g.held (slotOf k.core) ++
        [{ word := cplWord k.tcw code2 aux, ends := some (k, code2), drop := drop, freeze := freeze }]))
/-- A command that keeps its retry record, if it has one. -/
def State.anvilEnd (s : State) (k : Cmd) (code : Word) (aux : Nat) : State := s.anvilFinish k code aux false none
/-- A command that ends without its retry record, which is released with its end. -/
def State.anvilDrop (s : State) (k : Cmd) (code : Word) (aux : Nat) : State := s.anvilFinish k code aux true none

/-- The raise of ABFT_MISMATCH for a core of a forge; its packet's PC is that of the next instruction the core would issue
(R261). -/
def State.mismatchRaise (s : State) (core detail : Nat) : Raise :=
  { Raise.bare 3 1 with agent := some core, pc := (s.coreAt core).regs.pc, detail := detail }

/-! ### Starting (R242, R253, R261) -/

/-- The lowest free retry record of a core. -/
def Core.freeRecord (c : Core) : Option (BitVec 4) :=
  (findIdx (fun (r : RetryRecord) => !r[0].getLsbD 63) c.records.toList 0).map (fun x => BitVec.ofNat 4 x.1)
/-- A record taken: V and BUSY set. -/
def Core.takeRecord (c : Core) (r : BitVec 4) : Core :=
  { c with records := c.records.set r.toNat ((c.records[r.toNat]'r.isLt).set 0 ((c.records[r.toNat]'r.isLt)[0] ||| 0xC000000000000000)) r.isLt }

/-- The TCW of an MLOADB as its start resolves it: SET and CUR no longer matter to it (R247). -/
def resolvedLoad (g : Forge) (t : Tcw) : Tcw :=
  let w := loadOf g t
  tcwOf [putBit (tcwWord t 0) 32 false, wn (fld w.2 0 48), w.1.zeroExtend 64, 0]
/-- The TCW of an implicit reload. -/
def reloadTcw (e : DirEntry) : Tcw := tcwOf [wn (0x03 + 0x22 * 65536), e.va.zeroExtend 64, e.id.zeroExtend 64, 0]

/-- A command put into the execution list. -/
def Forge.pushExec (g : Forge) (k : Cmd) (reload : Option Nat) : Forge :=
  { g with execs := g.execs ++ [{ cmd := k, stage := .started, reload := reload, block := [], poisoned := [] }] }

/-- The head of slot `k` started: an implicit reload leaves it where it is; a bad operand ends it at its start, with its
retry record released; an MLOADB takes its id and VA now, and ends when the projected banks hold the billet (R247). -/
def State.startHead (s : State) (f k : Nat) : State :=
  let a := 8 * f + k
  let g := s.forgeAt f
  match (s.coreAt a).q0 with
  | [] => s
  | x :: rest =>
    let s1 := s.mapCore a (fun c => { c with q0 := rest }.count 0x0F 1)
    let p := g.projected
    if isPass x.tcw && p.1 != some (passBillet x.tcw) && p.2 != some (passBillet x.tcw) then
      match g.dirFind (passBillet x.tcw) with
      | some e =>
        let d := g.dirAt e
        let r : Cmd := { tcw := reloadTcw d, core := a, ctx := d.ctx, token := 0, id := s.serial, record := none, unwound := false }
        (s.tick).mapForge f (fun g => g.pushExec r (some e))
      | none => s
    else if anvilBad (s.coreAt a) x.tcw then s1.anvilDrop x (codeOf stBadop 0 0) 0
    else if tcwOp x.tcw = 3 then
      let id := (loadOf g x.tcw).1
      if !loadForce x.tcw && (p.1 == some id || p.2 == some id) then s1.anvilEnd x 0 id.toNat
      else s1.mapForge f (fun g => g.pushExec { x with tcw := resolvedLoad g x.tcw } none)
    else
      let rec' := if tcwOp x.tcw = 1 then x.record.orElse (fun _ => (s.coreAt a).freeRecord) else none
      let s2 := match rec' with | some r => s1.mapCore a (fun c => c.takeRecord r) | none => s1
      s2.mapForge f (fun g => (if isPass x.tcw then g.dirUse (passBillet x.tcw) else g).pushExec { x with record := rec' } none)

/-! ### Rounds (R255) -/

/-- Order of visits: AGE 15 with class A or S, AGE 15, then A, S, the rest; in scan order within each. -/
def visitKey (cls : Nat) (age : BitVec 4) (start k : Nat) : Nat :=
  (if age = 15 then (if cls = 1 ∨ cls = 2 then 0 else 1) else if cls = 1 then 2 else if cls = 2 then 3 else 4) * 8 + (k + 8 - start) % 8

/-- The slot of a list with the least key. -/
def firstSlot (key : Nat → Nat) : List Nat → Option Nat
  | [] => none
  | k :: t => match firstSlot key t with
    | some j => if key j < key k then some j else some k
    | none => some k

/-- Starts of one visit, at most `n`; answers how many there were. -/
def State.visit (s : State) (f k : Nat) : Nat → Nat × State
  | 0 => (0, s)
  | n + 1 =>
    let g := s.forgeAt f
    if g.execs.length < 4 ∧ canStart (s.headClass f k).2 (nth 0 g.ages.toList k) then
      let r := (s.startHead f k).visit f k n
      (r.1 + 1, r.2)
    else (0, s)

/-- The AGE of a slot after its visit. -/
def ageAfter (age : BitVec 4) (started : Nat) (cls : Nat) (h : HeadHold) : BitVec 4 :=
  if started ≠ 0 ∨ cls = 0 then 0
  else match h with
    | .startedPin => if cls = 4 then age else satAdd age 1
    | .headPin => satAdd age 1
    | .free => satAdd age 1
    | .blocked => 0

/-- Visits to the slots not yet visited, with their new AGEs. -/
def State.visits (s : State) (f : Nat) : Nat → List Nat → State
  | 0, _ => s
  | n + 1, left =>
    let g := s.forgeAt f
    match firstSlot (fun k => visitKey (s.slotClass f k) (nth 0 g.ages.toList k) g.startSlot.toNat k) left with
    | none => s
    | some k =>
      let h := s.headClass f k
      let w := fld g.wrr (4 * k) 4
      let r := s.visit f k (if w = 0 then 1 else w)
      let t := r.2.mapForge f (fun g =>
        { g with ages := Vector.ofFn (fun i => if i.val = k then ageAfter g.ages[i] r.1 h.1 h.2 else g.ages[i]) })
      t.visits f n (left.filter (fun j => j != k))

/-- ANVIL_ARBITER_ROUND; none while an in-field test runs (15 R344). -/
def execAnvilArbiterRound (f : Nat) (s : State) : Host.Outcome State Fault Refusal :=
  let g := s.forgeAt f
  if f < 64 ∧ !g.iftRun ∧ g.execs.length < 4 ∧ (tab id (8 * f) 8).any (fun a => (s.coreAt a).q0 != []) then
    .next ((s.visits f 8 (tab id 0 8)).mapForge f (fun g => { g with startSlot := g.startSlot + 1 }))
  else .next s

/-- HOLDING_BUFFER_DRAIN: the slot's oldest held word enters q1, and its command ends. -/
def execHoldingBufferDrain (a : Nat) (s : State) : Host.Outcome State Fault Refusal :=
  let f := forgeOf a
  match (s.forgeAt f).held (slotOf a) with
  | [] => .next s
  | h :: t =>
    if isSup a || !(s.coreAt a).cplRoom 0 then .next s
    else
      let s1 := (s.mapForge f (fun g => g.setHeld (slotOf a) t)).mapCore a (fun c =>
        match h.ends with
        | some (k, code) => ((c.writeToken k.token code).setCplQ 0 (((c.writeToken k.token code).cplQ 0).push h.word)).endRecord k h.drop
        | none => c.setCplQ 0 ((c.cplQ 0).push h.word))
      .next (match h.freeze with
        | some n => s1.interruptFor (f / 16) (s1.mismatchRaise a n)
        | none => s1)

end Sys2Proof.Machine
end

