-- ==== Sys2Proof/Machine/Csr.lean ====
section
/-! DEFINITION. The control and status registers: the map, what each reads, and what a write does to its fields
(06_special_registers R128 to R141 and the registers' own rules). The same operations serve the CSR instructions, the
debug windows and the forge windows. -/

namespace Sys2Proof.Machine

/-! ### The map (R140) -/

/-- The access of a compute core to a register: `ro` covers those whose fields are all read-only or write-one-to-clear. -/
inductive CsrAccess where
  | unassigned | ro | rw | rs
  deriving DecidableEq, Repr

/-- The compute column of the map. -/
def csrAccess (n : Nat) : CsrAccess :=
  if n = 0x001 ∨ n = 0x002 ∨ within n 0x102 3 ∨ n = 0x200 ∨ n = 0x202 ∨ within n 0x204 12 ∨ n = 0x211 ∨ n = 0x212 ∨
    within n 0x380 64 ∨ n = 0x700 then .rw
  else if n = 0x008 ∨ n = 0x100 ∨ n = 0x101 ∨ n = 0x105 ∨ within n 0x400 16 ∨ n = 0x420 ∨ n = 0x600 ∨ within n 0x701 5 then .rs
  else if n = 0x000 ∨ n = 0x003 ∨ n = 0x004 ∨ n = 0x201 ∨ n = 0x203 ∨ n = 0x210 ∨ n = 0x213 ∨ within n 0x300 4 ∨ within n 0x310 51 ∨
    within n 0x410 6 ∨ n = 0x421 ∨ within n 0x500 4 ∨ within n 0x601 3 ∨ n = 0x706 then .ro
  else .unassigned

/-- Registers of forge scope, which each appear in the forge's window (R139). -/
def csrForge (n : Nat) : Bool :=
  n == 0x200 || n == 0x201 || n == 0x204 || n == 0x205 || within n 0x207 12 || within n 0x320 35 || n == 0x421

/-! ### Reads -/

/-- FEAT0 to FEAT3 (03 R69, R70). -/
def featWord (g : Package) (k : Nat) : Word :=
  match k with
  | 0 => wn (g.fwMin.toNat * 2 ^ 40 + g.fwMaj.toNat * 2 ^ 32 + 0x11009)
  | 3 => wn (16 + b2n g.atfin * 8 + b2n g.cxl1 * 4 + b2n g.lpddr * 2 + b2n g.hbm4e)
  | _ => 0

/-- GANGPOS (14 R315). -/
def gangWord (c : Core) : Word :=
  match c.gang with
  | some g => wn (g.lslot.toNat * 65536 + g.mask.toNat * 256 + 8 + g.pos.toNat)
  | none => 0

/-- ANVBANK (R129). -/
def bankWord (g : Forge) : Word :=
  let f := fun (b : Bank) => if b.valid then (b.id.toNat, b.ew.toNat) else (0, 0)
  wn (b2n g.transfer.isSome * 2 ^ 50 + b2n g.shadow.valid * 2 ^ 49 + b2n g.active.valid * 2 ^ 48 + (f g.shadow).2 * 2 ^ 40 +
    (f g.active).2 * 2 ^ 32 + (f g.shadow).1 * 65536 + (f g.active).1)

/-- A register of forge scope. -/
def Forge.csr (g : Forge) (n : Nat) : Word :=
  if n = 0x200 then wn (b2n g.fastact * 65536 + b2n g.qact * 256 + g.qmode.toNat * 2 + b2n g.fast)
  else if n = 0x201 then bankWord g
  else if n = 0x204 then
    wn (g.probeSeq.toNat * 2 ^ 48 + g.enob.toNat * 2 ^ 40 + g.debcur.toNat * 2 ^ 32 + g.pherr.toNat * 65536 + b2n g.lowdeb * 8 +
      b2n g.drift * 4 + b2n g.stale * 2 + b2n (g.probe != .none))
  else if n = 0x205 then wn (g.probeIvl.toNat * 2 ^ 32 + g.driftLim.toNat * 65536 + b2n g.afrz * 2 + b2n g.tfrz)
  else if n = 0x207 then g.wrr.zeroExtend 64
  else if within n 0x208 8 then (nth 0 g.tol.toList (n - 0x208)).zeroExtend 64
  else if n = 0x210 then wn (g.batchSeq.toNat * 65536 + b2n g.tgt * 4 + b2n g.pend * 2 + b2n g.cur)
  else if n = 0x211 then g.wsbase[0].zeroExtend 64 <<< 8
  else if n = 0x212 then g.wsbase[1].zeroExtend 64 <<< 8
  else if within n 0x320 32 then (nth 0 g.hist.toList (n - 0x320)).zeroExtend 64
  else if n = 0x340 then g.qnch.zeroExtend 64
  else if n = 0x341 then g.driftCnt.zeroExtend 64
  else if n = 0x342 then g.probeCnt.zeroExtend 64
  else if n = 0x421 then
    wn (g.iftLast.toNat * 2 ^ 62 + b2n g.iftRun * 2 ^ 61 + g.iftRuns.toNat * 2 ^ 32 + g.chunks.toNat)
  else 0

/-- ANVCVDAT (R130). -/
def cvData (g : Forge) (sel : BitVec 7) : Word :=
  let b := if sel.getLsbD 6 then g.shadow else g.active
  if b.valid then (nth 0 b.c.toList (fld sel 0 6)).zeroExtend 64 else 0

/-- Scratch and held ways (07 R151). -/
def l2scrWord (c : Core) : Word := wn (c.l2held.toNat * 65536 + c.l2scr.toNat)

/-- PREREQ (14 R315). -/
def State.prereq (s : State) (a : Nat) : Word :=
  let c := s.coreAt a
  wn (c.topPrio * 16 + b2n c.overdue * 4 + b2n c.supv * 2 + b2n (s.pend a))

/-- A register as agent `a` reads it; a number the map does not assign reads 0 here. -/
def State.csr (s : State) (a n : Nat) : Word :=
  let c := s.coreAt a
  let d := s.dieAt (dieOf a)
  if csrForge n then (s.forgeAt (forgeOf a)).csr n
  else if n = 0x000 then wn (a + b2n (isSup a) * 65536)
  else if n = 0x001 then c.regs.frm.zeroExtend 64
  else if n = 0x002 then c.regs.fflags.zeroExtend 64
  else if n = 0x003 then c.tokpend.zeroExtend 64
  else if n = 0x004 then gangWord c
  else if n = 0x008 then c.l1sz.zeroExtend 64
  else if n = 0x100 then c.ctx.asid.zeroExtend 64
  else if n = 0x101 then c.ctx.troot
  else if n = 0x102 then c.ctx.heapb
  else if n = 0x103 then c.ctx.heapl
  else if n = 0x104 then c.ctx.heapo
  else if n = 0x105 then c.ctx.vtbase
  else if n = 0x202 then c.cvsel.zeroExtend 64
  else if n = 0x203 then cvData (s.forgeAt (forgeOf a)) c.cvsel
  else if n = 0x206 then c.anvinj
  else if n = 0x213 then c.skx.signExtend 64
  else if n = 0x300 then d.cycle
  else if n = 0x301 then c.instret
  else if n = 0x302 then c.chkcmt
  else if n = 0x303 then c.chksq
  else if within n 0x310 16 then (nth 0 c.mc.toList (n - 0x310)).zeroExtend 64
  else if within n 0x380 32 then nth 0 c.pmc.toList (n - 0x380)
  else if within n 0x3A0 32 then (nth 0 c.pmsel.toList (n - 0x3A0)).zeroExtend 64
  else if within n 0x400 16 then (nth 0 d.sev.toList (n - 0x400)).zeroExtend 64
  else if n = 0x410 then c.crsyn
  else if n = 0x411 then c.crdepth.zeroExtend 64
  else if within n 0x412 4 then nth 0 c.crh.toList (n - 0x412)
  else if n = 0x420 then wn (d.logTotal.toNat * 2 ^ 32 + d.logLost.toNat * 65536 + d.logNext.toNat)
  else if within n 0x500 4 then featWord s.pkg (n - 0x500)
  else if n = 0x600 then c.preBudget.zeroExtend 64
  else if n = 0x601 then s.taskId a
  else if n = 0x602 then wn (c.wttMask (fun e => !wttOpen e) * 2 ^ 32 + c.wttMask wttReady)
  else if n = 0x603 then s.prereq a
  else if n = 0x700 then l2scrWord c
  else if n = 0x701 then d.hthresh.zeroExtend 64
  else if n = 0x702 then d.hsample.zeroExtend 64
  else if n = 0x703 then d.retthresh.zeroExtend 64
  else if n = 0x704 then
    wn (b2n d.dropped * 2 ^ 63 + d.dropcnt.toNat * 2 ^ 32 + (d.faults.toList.filter FaultEntry.valid).length)
  else if n = 0x705 then wn (d.nqdrop.toNat * 2 ^ 32 + d.nq.length)
  else if n = 0x706 then d.vbusok.zeroExtend 64
  else 0

/-! ### The migration notification queue (11 R239) and posts for retirement (10 R206) -/

/-- A notification word: the PA from bit 12 up (11 R239). -/
def notice (reason port pa : Nat) : Word := wn (2 ^ 63 + reason * 2 ^ 61 + port * 2 ^ 52 + pa / 4096 * 4096)
/-- The notification queue of a die has room. -/
def Die.nqRoom (d : Die) : Bool := d.nq.length < 256
def State.nqPost (s : State) (d : Nat) (w : Word) : State := s.mapDie d (fun x => { x with nq := x.nq ++ [w] })
/-- A post that found the queue full. -/
def State.nqLose (s : State) (d : Nat) : State := s.mapDie d (fun x => { x with nqdrop := satAdd x.nqdrop 1 })

/-- The address of the first line of a port's scrub row. -/
def rowPa (port row : Nat) : Nat := port * 0x30000000 + row * 2048
/-- Entry `k` of a port's hot list, its score changed: a row whose score reaches THRESH is posted once. A full queue drops the post,
which is made again later as long as the row stays listed (log entry 110). -/
def State.putRow (s : State) (port k : Nat) (r : HotRow) : State :=
  let d := port / 128
  let thresh := fld (s.dieAt d).retthresh 0 16
  let set := fun (t : State) (r : HotRow) => t.mapHome port (fun h => { h with hotRows := tset h.hotRows k r })
  if thresh ≠ 0 ∧ thresh ≤ r.score.toNat ∧ !r.retq then
    if (s.dieAt d).nqRoom then set (s.nqPost d (notice 1 port (rowPa port r.row.toNat))) { r with retq := true }
    else set (s.nqLose d) { r with retq := true, pend := true }
  else set s r
/-- RETTHRESH written: rows whose score a lower THRESH meets are posted. -/
def State.setRetthresh (s : State) (die : Nat) (v : Word) : State :=
  let t := s.mapDie die (fun d => { d with retthresh := v.truncate 28 })
  t.each (t.homes.filter (fun h => h.1 / 128 == die)) (fun t h => t.each h.2.hotRows (fun t e => t.putRow h.1 e.1 e.2))

/-! ### Writes: `v` is what write() gives the RW fields, `ones` the bits that clear a W1C field (R138) -/

/-- The vector with element `k` replaced. -/
def vput {α : Type} {n : Nat} (x : Vector α n) (k : Nat) (y : α) : Vector α n :=
  Vector.ofFn (fun i => if i.val = k then y else x[i])

/-- A register of forge scope written. -/
def Forge.setCsr (g : Forge) (n : Nat) (v ones : Word) : Forge :=
  if n = 0x200 then { g with fast := v.getLsbD 0, qmode := if fld v 1 2 < 2 then BitVec.ofNat 2 (fld v 1 2) else g.qmode }
  else if n = 0x204 then { g with lowdeb := g.lowdeb && !ones.getLsbD 3, drift := g.drift && !ones.getLsbD 2 }
  else if n = 0x205 then
    { g with probeIvl := BitVec.ofNat 16 (fld v 32 16), driftLim := BitVec.ofNat 16 (fld v 16 16), afrz := v.getLsbD 1, tfrz := v.getLsbD 0 }
  else if n = 0x207 then { g with wrr := v.truncate 32 }
  else if within n 0x208 8 then { g with tol := vput g.tol (n - 0x208) (v.truncate 25) }
  else if n = 0x211 then { g with wsbase := g.wsbase.set 0 (BitVec.ofNat 40 (fld v 8 40)) }
  else if n = 0x212 then { g with wsbase := g.wsbase.set 1 (BitVec.ofNat 40 (fld v 8 40)) }
  else g

/-- The lines of a range of words: conversion, LSPLIT and a restore write each of them for the signatures of the die (07 R159). -/
def linesIn (at' n : Nat) : List Nat := if n = 0 then [] else tab id (lineOf at') (lineOf (at' + (n - 1)) + 1 - lineOf at')

/-- LSPLIT (07 R146): only while no task is bound. L1 is written back and invalidated; bytes that become scratchpad are
cleared, and those that cease to be are gone. -/
def State.setLsplit (s : State) (a : Nat) (v : Word) : State :=
  let c := s.coreAt a
  let z := fld v 0 4
  if c.bound.isSome || z = 0 || 8 < z || z = c.l1sz.toNat then s
  else
    let s1 := s.each (c.l1.map CacheLine.line) (fun t l => t.cleanLine a false l)
    let s2 := s1.mapCore a (fun c => { c with l1 := [], l1sz := BitVec.ofNat 4 z })
    let old := spSize c
    let new := spSize (s2.coreAt a)
    (s2.sramClear (sramBase a + min old new) (max old new - min old new)).meetAll (dieOf a) (linesIn (sramBase a + min old new) (max old new - min old new))

/-- L2SCR (07 R151). -/
def State.setL2scr (s : State) (a : Nat) (v : Word) : State :=
  let c := s.coreAt a
  let new := v.truncate 16 &&& (c.l2scr ||| c.l2held)
  let changed := new ^^^ c.l2scr
  let s1 := s.each (tab id 0 16) (fun t k =>
    if changed.getLsbD k then (t.sramClear (sramBase a + 0x100000 + k * 0x10000) 0x10000).meetAll (dieOf a) (linesIn (sramBase a + 0x100000 + k * 0x10000) 0x10000)
    else t)
  s1.mapCore a (fun c => { c with l2scr := new, l2held := 0 })

/-- HSAMPLE (13 R294): a write restarts each port's count. -/
def State.setHsample (s : State) (die : Nat) (v : Word) : State :=
  let s1 := s.mapDie die (fun d => { d with hsample := v.truncate 24 })
  { s1 with homes := s1.homes.map (fun h => if h.1 / 128 = die then (h.1, { h.2 with reqs := 0 }) else h) }

/-- SEVn (15 R326): a write of 5 to 7 leaves its field. -/
def sevWrite (old : BitVec 24) (v : Word) : BitVec 24 :=
  BitVec.ofNat 24 (ofDigits 3 (tab (fun k => if fld v (3 * k) 3 ≤ 4 then fld v (3 * k) 3 else fld old (3 * k) 3) 0 8))

/-- ANVINJ (R134). -/
def injWrite (old v : Word) : Word :=
  if v.getLsbD 63 && (fld v 61 2 == 0 || fld v 61 2 == 3) then old else v &&& 0xE000FFFF00FFFFFF

/-- PMSELn (16 R360): an unlisted event code leaves the field. -/
def pmselWrite (old : BitVec 9) (v : Word) : BitVec 9 :=
  BitVec.ofNat 9 (fld v 8 1 * 256 + (if fld v 0 8 ≤ 0x13 then fld v 0 8 else fld old 0 8))

/-- A register written for agent `a`. -/
def State.setCsr (s : State) (a n : Nat) (v ones : Word) : State :=
  let die := dieOf a
  if csrForge n then s.mapForge (forgeOf a) (fun g => g.setCsr n v ones)
  else if n = 0x008 then s.setLsplit a v
  else if within n 0x400 16 then s.mapDie die (fun d => { d with sev := vput d.sev (n - 0x400) (sevWrite (nth 0 d.sev.toList (n - 0x400)) v) })
  else if n = 0x420 then
    s.mapDie die (fun d => { d with logTotal := BitVec.ofNat 32 (fld v 32 32), logLost := BitVec.ofNat 16 (fld v 16 16) })
  else if n = 0x700 then s.setL2scr a v
  else if n = 0x701 then s.mapDie die (fun d => { d with hthresh := v.truncate 16 })
  else if n = 0x702 then s.setHsample die v
  else if n = 0x703 then s.setRetthresh die v
  else if n = 0x705 then s.mapDie die (fun d => { d with nqdrop := BitVec.ofNat 16 (fld v 32 16) })
  else s.mapCore a (fun c =>
    if n = 0x001 then c.mapRegs (fun r => { r with frm := v.truncate 2 })
    else if n = 0x002 then c.mapRegs (fun r => { r with fflags := v.truncate 5 })
    else if n = 0x100 then { c with ctx := { c.ctx with asid := v.truncate 9 } }
    else if n = 0x101 then { c with ctx := { c.ctx with troot := v &&& 0x000FFFFFFFFFF000 } }
    else if n = 0x102 then { c with ctx := { c.ctx with heapb := canon v &&& 0xFFFFFFFFFFFFF000 } }
    else if n = 0x103 then { c with ctx := { c.ctx with heapl := v &&& 0x0000FFFFFFFFF000 } }
    else if n = 0x104 then { c with ctx := { c.ctx with heapo := v &&& 0xFFFFFFFFFFFFF000 } }
    else if n = 0x105 then { c with ctx := { c.ctx with vtbase := v &&& 0x000FFFFFFFFFF000 } }
    else if n = 0x202 then { c with cvsel := v.truncate 7 }
    else if n = 0x206 then { c with anvinj := injWrite c.anvinj v }
    else if within n 0x380 32 then { c with pmc := vput c.pmc (n - 0x380) v }
    else if within n 0x3A0 32 then { c with pmsel := vput c.pmsel (n - 0x3A0) (pmselWrite (nth 0 c.pmsel.toList (n - 0x3A0)) v) }
    else if n = 0x600 then { c with preBudget := v.truncate 32 }
    else c)

end Sys2Proof.Machine
end

