-- ==== Sys2Proof/Machine/Sync.lean ====
section
/-! DEFINITION. Messages, barriers and events, major 0x22 (16_counters R349 to R358). -/

namespace Sys2Proof.Machine

/-- A single-cycle instruction that closes the chunk, belongs to none, and raises an access fault on a supervisor core. -/
def opCompute (srcs dsts : List RegName) (body : State → Res) : State → Host.Outcome State Fault Refusal :=
  issue (Plan.closer srcs dsts) (fun s => if isSup s.cur then .fault (.access 0) else body s)

/-! ### Barrier words (R353, R354) -/

def Core.bar (c : Core) (n : BitVec 5) : Barrier := c.bars[n.toNat]'n.isLt
def Core.setBar (c : Core) (n : BitVec 5) (b : Barrier) : Core := { c with bars := c.bars.set n.toNat b n.isLt }
/-- A barrier word as software sees it. -/
def barWord (b : Barrier) : Word :=
  wn (b.wph.toNat * 2 ^ 56 + b.phase.toNat * 2 ^ 48 + b2n b.arrived * 2 ^ 43 + b.scope.toNat * 2 ^ 40 + b.arr.toNat * 2 ^ 20 +
    b.target.toNat)
/-- A barrier from its word. -/
def barOf (w : Word) : Barrier :=
  { wph := BitVec.ofNat 8 (fld w 56 8), phase := BitVec.ofNat 8 (fld w 48 8), arrived := w.getLsbD 43,
    scope := BitVec.ofNat 3 (fld w 40 3), arr := BitVec.ofNat 20 (fld w 20 20), target := BitVec.ofNat 20 (fld w 0 20) }
/-- Completed phases taken off the arrivals. -/
def Barrier.complete (b : Barrier) : Barrier :=
  if b.target = 0 then b
  else { b with arr := b.arr % b.target, phase := b.phase + BitVec.ofNat 8 (b.arr.toNat / b.target.toNat) }
/-- One arrival counted. -/
def Barrier.arrive (b : Barrier) : Barrier := ({ b with arr := satAdd b.arr 1 } : Barrier).complete

/-- The cores that an arrival of core `a` at a scope reaches in this package. -/
def instanceOf (a : Nat) (scope : BitVec 3) : List Nat :=
  match scope.toNat with
  | 0 => [a]
  | 1 => tab id (a / 4 * 4) 4
  | 2 => tab id (a / 8 * 8) 8
  | 3 => tab id (a / 128 * 128) 128
  | _ => tab id 0 512

/-- A core's own part of an arrival, which at pkg scope and wider has REL's effect before it: WPH and ARRIVED, and the arrival sent
(R355). -/
def State.sendArrival (s : State) (a : Nat) (n : BitVec 5) : State :=
  let x : Arrival := { issuer := a, bar := n, scope := ((s.coreAt a).bar n).scope, direct := false }
  { s.mapCore a (fun c => c.setBar n { c.bar n with wph := (c.bar n).phase, arrived := true }) with arrivals := s.arrivals ++ [x] }

/-- The end of a barrier wait: ARRIVED cleared, ACQ's effect at pkg scope and wider. -/
def State.endBarWait (s : State) (a : Nat) (n : BitVec 5) : State :=
  let b := (s.coreAt a).bar n
  (s.mapCore a (fun c => c.setBar n { c.bar n with arrived := false })).acqAt a (if b.scope.toNat < 4 then 0 else b.scope.toNat)

/-- A wait for a phase other than the one it began with; `k` continues after it. At pod scope ACQ's effect holds later accesses to the
reduction window back until the switches have answered (08 R177, R178): the core goes on then. -/
def barWaitThen (s : State) (n : BitVec 5) (arrived : Bool) (k : State → Res) : Res :=
  let c := s.core
  let b := c.bar n
  let p := match c.wait with
    | some (.barrier p _) => p
    | _ => if b.arrived then b.wph else b.phase
  if b.phase = p then .block (.barrier p arrived) s
  else if b.scope = 5 && s.relWaits s.cur 5 then .block (.barrier p arrived) s
  else k (s.endBarWait s.cur n)

/-- BAR.ARR (R355). -/
def execBarArr (n : BitVec 5) (s : State) : Host.Outcome State Fault Refusal :=
  opCompute [] [] (fun s =>
    let t := s.settled
    if t.relWaits t.cur (t.core.bar n).scope.toNat then .block .switch t
    else t.released (4 ≤ (t.core.bar n).scope.toNat) (fun u => .done (u.sendArrival u.cur n))) s
/-- BAR.WAIT (R355). -/
def execBarWait (n : BitVec 5) (s : State) : Host.Outcome State Fault Refusal :=
  opCompute [] [] (fun s => barWaitThen s.settled n false .done) s
/-- BAR.ARRW: the arrival, once, then the wait (R355); a core restored in this wait had arrived (14 R321). -/
def execBarArrw (n : BitVec 5) (s : State) : Host.Outcome State Fault Refusal :=
  opCompute [] [] (fun s =>
    let t := s.settled
    match t.core.wait with
    | some (.barrier _ true) | some .resumed => barWaitThen t n true .done
    | _ =>
      if t.relWaits t.cur (t.core.bar n).scope.toNat then .block .switch t
      else t.released (4 ≤ (t.core.bar n).scope.toNat) (fun u => barWaitThen (u.sendArrival u.cur n) n true .done)) s
/-- BAR.INIT (R355). -/
def execBarInit (n a : BitVec 5) (sc : BitVec 3) (s : State) : Host.Outcome State Fault Refusal :=
  opCompute [sR a] [] (fun s =>
    let t := s.settled
    let x := t.core.readS a
    .done (t.me (fun c =>
      let b := c.bar n
      let z := x.getLsbD 20
      c.setBar n ({ b with target := BitVec.ofNat 20 (fld x 0 20), scope := sc, arr := if z then 0 else b.arr,
                           arrived := b.arrived && !z } : Barrier).complete))) s

/-! ### The event unit (R357, R358) -/

def Forge.evAt (g : Forge) (k : Nat) : BitVec 16 := nth 0 g.ev.toList k
def Forge.setEv (g : Forge) (k : Nat) (v : BitVec 16) : Forge := { g with ev := Vector.ofFn (fun i => if i.val = k then v else g.ev[i]) }
def Forge.mxAt (g : Forge) (k : Nat) : Option (BitVec 3) := nth none g.mx.toList k
def Forge.setMx (g : Forge) (k : Nat) (v : Option (BitVec 3)) : Forge :=
  { g with mx := Vector.ofFn (fun i => if i.val = k then v else g.mx[i]) }

/-- A unit added to an event, with where it came from. -/
def Forge.addEv (g : Forge) (k : Nat) (remote : Bool) : Forge :=
  { g.setEv k (satAdd (g.evAt k) 1) with evFrom := if (g.evAt k).toNat < 0xFFFF then g.evFrom ++ [(k, remote)] else g.evFrom }
/-- Whether the oldest unit of an event came from another die, and the units without it. -/
def takeUnit (k : Nat) : List (Nat × Bool) → Bool × List (Nat × Bool)
  | [] => (false, [])
  | x :: t => if x.1 = k then (x.2, t) else let r := takeUnit k t; (r.1, x :: r.2)
/-- Kind and index of a selector that R357 accepts. -/
def selOk (x : BitVec 8) : Bool :=
  !x.getLsbD 5 && (match fld x 6 2 with | 0 => fld x 0 5 < 16 | 1 => fld x 0 5 < 8 | 2 => true | _ => false)

/-- What a waiter takes from an event unit: the value it gets, and whether the unit came from another die. -/
structure Taken where
  agent  : Nat
  forge  : Forge
  value  : Word
  remote : Bool
  deriving DecidableEq, Repr
/-- The first waiter of a forge whose event or mutex is there, and what it takes: of an event the oldest unit (DEDUCED, log entry
125). -/
def Forge.nextWaiter (g : Forge) : Option Taken :=
  (findIdx (fun (w : Nat × BitVec 8) =>
    match fld w.2 6 2 with
    | 0 => g.evAt (fld w.2 0 5) != 0
    | 1 => (g.mxAt (fld w.2 0 5)).isNone
    | _ => false) g.evWait 0).map (fun x =>
      let k := fld x.2.2 0 5
      let q : Forge := { g with evWait := g.evWait.filter (fun w => w.1 != x.2.1) }
      if fld x.2.2 6 2 = 0 then
        let u := takeUnit k g.evFrom
        { agent := x.2.1, forge := { q.setEv k (g.evAt k - 1) with evFrom := u.2 }, value := (g.evAt k - 1).zeroExtend 64, remote := u.1 }
      else { agent := x.2.1, forge := q.setMx k (some (BitVec.ofNat 3 (slotOf x.2.1))), value := 0, remote := false })

/-- Waiters released, oldest first, one for each unit there is, at most `n`. -/
def State.releaseEv (s : State) (g : Nat) : Nat → State
  | 0 => s
  | n + 1 =>
    match (s.forgeAt g).nextWaiter with
    | none => s
    | some x =>
      ((s.mapForge g (fun _ => x.forge)).mapCore x.agent (fun c => c.grantWait (fun w => w == .event) (.granted x.value x.remote))).releaseEv g n

/-- EVWAIT by the present core on its own forge, its chunk settled; `k` gets the value. -/
def evWait (s : State) (sel : BitVec 8) (k : State → Word → Res) : Res :=
  let a := s.cur
  let g := forgeOf a
  if !selOk sel then .fault (.access 0)
  else if fld sel 6 2 = 2 then
    let n := BitVec.ofNat 5 (fld sel 0 5)
    barWaitThen s n false (fun t => k t (barWord (t.core.bar n)))
  else match s.core.wait with
    | some (.granted v remote) => k (if remote then s.acqEffect a else s) v
    | _ =>
      let s1 := if (s.forgeAt g).evWait.any (fun w => w.1 == a) then s
        else s.mapForge g (fun q => { q with evWait := q.evWait ++ [(a, sel)] })
      match (s1.forgeAt g).nextWaiter with
      | some x =>
        if x.agent = a then
          let s2 := s1.mapForge g (fun _ => x.forge)
          k (if x.remote then s2.acqEffect a else s2) x.value
        else .block .event s1
      | none => .block .event s1

/-- EVSIG by the present core, its chunk settled, to a forge. -/
def evSig (s : State) (sel : BitVec 8) (f : Nat) (named : Bool) (k : State → Res) : Res :=
  let a := s.cur
  if !selOk sel then .fault (.access 0)
  else match fld sel 6 2 with
    | 0 =>
      let remote := f / 16 != dieOf a
      let x : Signal := { forge := f, ev := BitVec.ofNat 4 (fld sel 0 4), sender := a, remote := remote }
      s.released remote (fun s1 => k { s1 with signals := s1.signals ++ [x] })
    | 1 =>
      let m := fld sel 0 5
      if named || (s.forgeAt (forgeOf a)).mxAt m != some (BitVec.ofNat 3 (slotOf a)) then .fault (.access 0)
      else k ((s.mapForge (forgeOf a) (fun g => g.setMx m none)).releaseEv (forgeOf a) 1)
    | _ => .fault (.access 0)

/-- EVWAIT (R357). -/
def execEvwait (d a : BitVec 5) (s : State) : Host.Outcome State Fault Refusal :=
  opCompute [sR a] [sR d] (fun s =>
    let t := s.settled
    evWait t ((t.core.readS a).truncate 8) (fun t v => .done (t.me (fun c => c.writeS d v)))) s
/-- EVSIG (R357): bit 6 of s[b] names another forge. -/
def execEvsig (a b : BitVec 5) (s : State) : Host.Outcome State Fault Refusal :=
  opCompute [sR a, sR b] [] (fun s =>
    let t := s.settled
    let y := t.core.readS b
    evSig t ((t.core.readS a).truncate 8) (if y.getLsbD 6 then fld y 0 6 else forgeOf t.cur) (y.getLsbD 6) .done) s

/-! ### Messages and counters (R349, R350) -/

/-- A descriptor that MSG accepts. -/
def State.msgOk (s : State) (x : Word) : Bool :=
  fld x 52 11 == 0 && fld x 42 6 == 0 && fld x 22 10 == 0 && fld x 0 3 == 0 && fld x 32 10 ≤ 519 &&
  (!x.getLsbD 63 || (fld x 32 10 < 512 && sramAssigned (s.coreAt (fld x 32 10)) (fld x 0 22)))

/-- MSG: checked, then sent behind the chunk's commit; a message to another die releases first. A poisoned operand, when UE_CONSUMED lets
the instruction go on, is not sent (R350). -/
def execMsg (a b : BitVec 5) (s : State) : Host.Outcome State Fault Refusal :=
  issue (Plan.closer [sR a, sR b] []) (fun s =>
    let x := s.core.readS a
    let t := s.settled
    if !s.msgOk x then .fault (.access 0)
    else if s.core.poisoned (sR a) || s.core.poisoned (sR b) then .done t
    else
      let to' := fld x 32 10
      let m : Msg := { sender := t.cur, target := to', cnt := BitVec.ofNat 4 (fld x 48 4),
                       word := if x.getLsbD 63 then some (fld x 0 22, t.core.readS b) else none }
      t.released (dieOf to' != dieOf t.cur) (fun u =>
        .done { u.me (fun c => if dieOf to' = dieOf t.cur then c else c.count 0x13 1) with msgs := u.msgs ++ [m] })) s
/-- CNTADD: at the commit of its chunk. -/
def execCntadd (n : BitVec 4) (a : BitVec 5) (s : State) : Host.Outcome State Fault Refusal :=
  issue { Plan.simple [sR a] [] with ahead := .noEffect } (fun s =>
    .done (s.me (fun c => c.mapChunk (fun k => { k with deferred := k.deferred ++ [.cntadd n (c.readS a)] })))) s
/-- CNTWAIT. -/
def execCntwait (n : BitVec 4) (a : BitVec 5) (s : State) : Host.Outcome State Fault Refusal :=
  issue { Plan.simple [sR a] [] with ahead := .ends } (fun s =>
    if fld (s.core.readS a) 0 32 ≤ (s.core.mcAt n).toNat then .done s else .wait .counter) s

end Sys2Proof.Machine
end

