-- ==== Sys2Proof/Machine/Debug.lean ====
section
/-! DEFINITION. The debug window of a compute core (15_error_tables R333, R334, 11_engine_queues R216, R225). -/

namespace Sys2Proof.Machine

/-! ### Parts of words and wide registers -/

/-- Doubleword `i` of a number. -/
def word64 (x i : Nat) : Word := wn (bits x (64 * i) 64)
/-- A number with doubleword `i` replaced. -/
def putWord64 (x i : Nat) (v : Word) : Nat := setBits x (64 * i) 64 v.toNat

/-! ### Queue status (11 R225) -/

/-- Started commands of a core from queue `e`. -/
def State.inProgress (s : State) (a e : Nat) : Nat :=
  let d := s.dieAt (dieOf a)
  let mine := fun (k : Cmd) => k.core == a
  match e with
  | 0 => ((s.forgeAt (forgeOf a)).started.filter mine).length
  | 1 => (d.tongs.filter (fun x => mine x.2.cmd)).length
  | 2 => ((s.colls.flatMap (fun o => o.2.map CollMember.cmd)).filter mine).length
  | _ => (d.swage.filter (fun x => mine x.2.cmd)).length
/-- The QSTAT word of queue `q`. -/
def State.qstat (s : State) (a q : Nat) : Word :=
  let c := s.coreAt a
  if q % 2 = 0 then wn (min (s.inProgress a (q / 2)) 255 * 2 ^ 24 + cmdDepth (q / 2) * 256 + (c.cmdQ (q / 2)).length)
  else
    let x := c.cplQ (Fin.ofNat 4 (q / 2))
    wn (x.held * 2 ^ 24 + 16 * 256 + x.words.length + x.reserved)

/-! ### Scoreboard entries (R334) -/

/-- Major and fn fields of an instruction word. -/
def iMajor (w : IWord) : Nat := fld w 26 6
def iFn (w : IWord) : Nat := fld w 4 7
def iFn4 (w : IWord) : Nat := fld w 7 4
/-- Whether field a of a multi-cycle instruction names a scalar register. -/
def aScalar (w : IWord) : Bool :=
  let m := iMajor w
  m == 0x01 || within m 0x12 14 || m == 0x21 || m == 0x24 || (m == 0x25) || (m == 0x26 && iFn w != 3) || within m 0x32 3 ||
  (m == 0x31 && (iFn4 w == 1 || iFn4 w == 3)) || (m == 0x35 && iFn4 w == 0)
/-- Whether field b names a scalar register. -/
def bScalar (w : IWord) : Bool :=
  let m := iMajor w
  m == 0x01 || m == 0x1E || m == 0x1F || m == 0x21 || m == 0x25 || m == 0x26 ||
  (m == 0x2F && within (iFn4 w) 1 5) || (m == 0x31 && iFn4 w < 4) || (m == 0x34 && iFn4 w < 2) ||
  (m == 0x35 && iFn4 w == 1)
def fieldD (w : IWord) : BitVec 5 := w.extractLsb' 21 5
def fieldA (w : IWord) : BitVec 5 := w.extractLsb' 16 5
def fieldB (w : IWord) : BitVec 5 := w.extractLsb' 11 5
/-- A captured scalar or checksum source. -/
def SbEntry.opnd (e : SbEntry) (r : RegName) : Word :=
  if e.sources.contains r then wn (({ Core.reset with regs := e.captured } : Core).regValue r) else 0
/-- OPA, OPB and OPD. -/
def SbEntry.opa (e : SbEntry) : Word := if aScalar e.word then e.opnd (sR (fieldA e.word)) else 0
def SbEntry.opb (e : SbEntry) : Word := if bScalar e.word then e.opnd (sR (fieldB e.word)) else 0
def SbEntry.opd (e : SbEntry) : Word :=
  if iMajor e.word = 0x26 then e.opnd (kR ((fieldD e.word).truncate 2))
  else if within (iMajor e.word) 0x19 4 || iMajor e.word = 0x1F || iMajor e.word = 0x21 || (iMajor e.word = 0x31 && iFn4 e.word % 2 == 0)
    then e.opnd (sR (fieldD e.word)) else 0
/-- Word `i` of an entry at index `k`. -/
def SbEntry.dbgWord (e : SbEntry) (k i : Nat) : Word :=
  match i with
  | 0 => wn (2 ^ 63 + b2n e.faulted * 2 ^ 62 + b2n e.srcClob * 2 ^ 61 + b2n e.completing * 2 ^ 60 + e.settle.toNat * 2 ^ 58 + k * 2 ^ 48 + e.word.toNat)
  | 1 => e.pc
  | 2 => match e.dests with
    | r :: _ => wn ((match r.file with | .s => 0 | .v => 1 | .p => 2 | .k => 3) * 32 + r.num.toNat)
    | [] => 0
  | 3 => if e.dests.any (fun r => r.file == .v) then 0 else e.result.truncate 64
  | 4 => e.opa
  | 5 => e.opb
  | 6 => e.opd
  | _ => e.faddr
/-- Whether an entry writes a register pair. -/
def SbEntry.pair (e : SbEntry) : Bool := 2 ≤ (e.dests.filter (fun r => r.file == .v)).length
/-- Vector slot `i` of an entry: the first and second source, the old destination, the result; a pair's results take the
last two. -/
def SbEntry.slot (e : SbEntry) (i : Nat) : Nat :=
  let v := fun (r : RegName) => ({ Core.reset with regs := e.captured } : Core).regValue r
  let dn := vR (fieldD e.word)
  let asD := (within (iMajor e.word) 0x33 1 || (iMajor e.word == 0x34 && iFn4 e.word % 2 == 1 && iFn4 e.word < 4))
  let srcs := e.sources.filter (fun r => r.file == .v)
  let srcs := if asD || (iMajor e.word ≤ 0x2D || iMajor e.word == 0x31) && e.dests.contains dn && srcs.getLast? == some dn && 2 ≤ srcs.length
    then srcs.filter (fun r => r != dn) else srcs
  match i with
  | 0 => match srcs with | r :: _ => v r | [] => 0
  | 1 => match srcs with | _ :: r :: _ => v r | _ => 0
  | 2 => if e.pair then e.vresult0.toNat else if asD || e.dests.contains dn then v dn else 0
  | _ => if e.pair then e.vresult1.toNat else e.vresult0.toNat
/-- The governing predicate captured at issue. -/
def SbEntry.predicate (e : SbEntry) : Nat :=
  match (e.sources.filter (fun r => r.file == .p)).getLast? with
  | some r => ({ Core.reset with regs := e.captured } : Core).regValue r
  | none => 0

/-- STATE (R333). -/
def Core.stateWord (c : Core) : Word :=
  let w := b2n (c.waiting != []) * 2 ^ 59
  match c.status with
  | .frozen k => wn (2 ^ 63 + w + k.toNat)
  | .halted => wn (2 ^ 62 + w + 0x17)
  | .idle => wn (2 ^ 60 + w)
  | .running | .faulted _ _ | .parked => wn (2 ^ 61 + w)

/-- Poison words (14 R323 offset 0x0140). -/
def Regs.poisonWord (r : Regs) (i : Nat) : Word :=
  match i with
  | 0 => r.sPoison.zeroExtend 64
  | 1 => r.vPoison.zeroExtend 64
  | 2 => wn (fld r.pPoison 1 7 + r.kPoison.toNat * 256)
  | _ => 0
def Regs.setPoisonWord (r : Regs) (i : Nat) (v : Word) : Regs :=
  match i with
  | 0 => { r with sPoison := v.truncate 32 &&& 0xFFFFFFFE }
  | 1 => { r with vPoison := v.truncate 32 }
  | 2 => { r with pPoison := BitVec.ofNat 8 (fld v 0 7 * 2), kPoison := BitVec.ofNat 4 (fld v 8 4) }
  | _ => r

/-- Link slots with their bits (14 R323 offset 0x0280). -/
def linkWord (l : Vector LinkSlot 4) (i : Nat) : Word :=
  if i < 4 then (nth LinkSlot.empty l.toList i).value
  else if i = 4 then
    wn (ofDigits 1 (l.toList.map (fun x => b2n x.full)) + 16 * ofDigits 1 (l.toList.map (fun x => b2n x.poison)))
  else 0
def setLinkWord (l : Vector LinkSlot 4) (i : Nat) (v : Word) : Vector LinkSlot 4 :=
  Vector.ofFn (fun k =>
    if i = k.val then { l[k] with value := v }
    else if i = 4 then { l[k] with full := v.getLsbD k.val, poison := v.getLsbD (4 + k.val) } else l[k])

/-- Word `i` of the signature of a set of lines (08 R172). -/
def signatureWord (l : List Nat) (i : Nat) : Word :=
  wn (ofDigits 1 (tab (fun k => b2n (l.any (fun x => (Config.signatureBits x).any (fun y => y.val == 64 * i + k)))) 0 64))

/-- The store buffer's word `i` of 4: VA, the low eight bytes of data, size in [15:0] and valid in [63] (log entry 13). -/
def BufStore.word (b : BufStore) (i : Nat) : Word :=
  match i with
  | 0 => b.va
  | 1 => wn (ofBytes ((b.cells.take 8).map Prod.snd))
  | 2 => wn (2 ^ 63 + b.size)
  | _ => 0

/-- Which command queue an offset in 0x8000–0x87FF lies in, and the word in it. -/
def dbgQueue (o : Nat) : Nat × Nat :=
  if o < 0x8200 then (0, (o - 0x8000) / 8) else if o < 0x8600 then (1, (o - 0x8200) / 8)
  else if o < 0x8700 then (2, (o - 0x8600) / 8) else (3, (o - 0x8700) / 8)

/-- A doubleword of a core's debug window. -/
def State.dbgRead (s : State) (a o : Nat) : Word :=
  let c := s.coreAt a
  let r := c.regs
  if o < 0x0100 then c.readS (BitVec.ofNat 5 (o / 8))
  else if within o 0x0100 0x40 then r.poisonWord ((o - 0x100) / 8)
  else if o = 0x0200 then r.pc
  else if o = 0x0208 then c.stateWord
  else if within o 0x0400 0x400 then
    match c.scoreboard[(o - 0x400) / 64]? with
    | some e => e.dbgWord ((o - 0x400) / 64) (o % 64 / 8)
    | none => 0
  else if o = 0x0800 then c.chunkWords.1
  else if o = 0x0808 then c.chunkWords.2
  else if within o 0x0840 0x80 then signatureWord (match c.chunk with | some k => k.reads | none => []) ((o - 0x840) / 8)
  else if within o 0x08C0 0x80 then
    signatureWord (match c.chunk with | some k => k.lines.map Prod.fst | none => []) ((o - 0x8C0) / 8)
  else if within o 0x0980 0x40 then s.qstat a ((o - 0x980) / 8)
  else if within o 0x0A00 0x400 then nth 0 (nth (Vector.replicate 8 0) c.records.toList ((o - 0xA00) / 64)).toList (o % 64 / 8)
  else if within o 0x0E00 0x200 then
    match c.storeBuf[(o - 0xE00) / 32]? with
    | some b => b.word (o % 32 / 8)
    | none => 0
  else if within o 0x1000 0x2000 then word64 (c.readV (BitVec.ofNat 5 ((o - 0x1000) / 256))).toNat (o % 256 / 8)
  else if within o 0x3000 0xE0 then word64 (c.readP (BitVec.ofNat 3 (1 + (o - 0x3000) / 32))).toNat (o % 32 / 8)
  else if within o 0x3100 0x20 then c.readK (BitVec.ofNat 2 ((o - 0x3100) / 8))
  else if within o 0x3200 0x40 then linkWord c.links ((o - 0x3200) / 8)
  else if o = 0x3400 then c.crdepth.zeroExtend 64
  else if within o 0x3408 0x20 then nth 0 c.crh.toList ((o - 0x3408) / 8)
  else if o = 0x3428 then c.crsyn
  else if within o 0x4000 0x4000 then s.csr a ((o - 0x4000) / 8)
  else if within o 0x8000 0x800 then
    match (c.cmdQ (dbgQueue o).1)[(dbgQueue o).2 / 4]? with
    | some k => tcwWord k.tcw ((dbgQueue o).2 % 4)
    | none => 0
  else if within o 0x8800 0x200 then nth 0 (c.cplQ (Fin.ofNat 4 ((o - 0x8800) / 128))).words (o % 128 / 8)
  else if within o 0x8A00 0x20 then wn (c.cplQ (Fin.ofNat 4 ((o - 0x8A00) / 8))).held
  else if within o 0x9000 0x800 then wttWord (c.entry ((o - 0x9000) / 64)) (o % 64 / 8)
  else if within o 0x9800 0x200 then
    match c.scoreboard[(o - 0x9800) / 32]? with
    | some e => word64 e.predicate (o % 32 / 8)
    | none => 0
  else if within o 0xC000 0x4000 then
    match c.scoreboard[(o - 0xC000) / 1024]? with
    | some e => word64 (e.slot (o % 1024 / 256)) (o % 256 / 8)
    | none => 0
  else 0

/-- A write to a queue of a frozen core (11 R216): an entry is replaced; a word that no longer names a command or a
completion (OP 0, V 0) removes it with the entries behind it (log entry 14). -/
def Core.dbgQueueWrite (c : Core) (o : Nat) (v : Word) : Core :=
  if o < 0x8800 then
    let e := (dbgQueue o).1
    let i := (dbgQueue o).2 / 4
    let l := c.cmdQ e
    match l[i]? with
    | none => c
    | some k =>
      let t : Tcw := BitVec.ofNat 256 (putWord64 k.tcw.toNat ((dbgQueue o).2 % 4) v)
      if tcwOp t = 0 then c.setCmdQ e (l.take i) else c.setCmdQ e (setNth l i { k with tcw := t })
  else
    let e := Fin.ofNat 4 ((o - 0x8800) / 128)
    let i := o % 128 / 8
    let q := c.cplQ e
    if q.words.length ≤ i ∨ i < q.held then c
    else if v.getLsbD 63 then c.setCplQ e { q with words := setNth q.words i v } else c.setCplQ e { q with words := q.words.take i }

/-- A doubleword of a core's debug window written: it lands only while the core is frozen, halted or idle (R333). -/
def State.dbgWrite (s : State) (a o : Nat) (v : Word) : State :=
  let c := s.coreAt a
  if !(c.status.stopped || c.status == .idle) then s
  else if within o 0x4000 0x4000 then
    let n := (o - 0x4000) / 8
    if within n 0x310 16 then s.mapCore a (fun c => { c with mc := vput c.mc (n - 0x310) (v.truncate 32) })
    else if csrAccess n = .rw ∨ csrAccess n = .rs then s.setCsr a n v v
    else if n = 0x204 then s.setCsr a n v v
    else s
  else s.mapCore a (fun c =>
    if o < 0x0100 then
      c.writeS (BitVec.ofNat 5 (o / 8)) v
    else if within o 0x0100 0x40 then c.mapRegs (fun r => r.setPoisonWord ((o - 0x100) / 8) v)
    else if o = 0x0200 then c.setPc (canon (v &&& 0xFFFFFFFFFFFFFFFC))
    else if within o 0x0400 0x400 then
      match c.scoreboard[(o - 0x400) / 64]? with
      | some e =>
        let e2 : SbEntry := match o % 64 / 8 with
          | 0 => { e with settle := BitVec.ofNat 2 (fld v 58 2) }
          | 3 => { e with result := v.zeroExtend 256 }
          | _ => e
        { c with scoreboard := setNth c.scoreboard ((o - 0x400) / 64) e2 }
      | none => c
    else if within o 0x1000 0x2000 then
      let n := BitVec.ofNat 5 ((o - 0x1000) / 256)
      c.mergeV n (BitVec.ofNat 2048 (putWord64 (c.readV n).toNat (o % 256 / 8) v))
    else if within o 0x3000 0xE0 then
      let n := 1 + (o - 0x3000) / 32
      c.mapRegs (fun r => { r with p := vput r.p n (BitVec.ofNat 256 (putWord64 (nth 0 r.p.toList n).toNat (o % 32 / 8) v)) })
    else if within o 0x3100 0x20 then c.writeK (BitVec.ofNat 2 ((o - 0x3100) / 8)) v
    else if within o 0x3200 0x40 then { c with links := setLinkWord c.links ((o - 0x3200) / 8) v }
    else if o = 0x3400 then { c with crdepth := v.truncate 3 }
    else if within o 0x3408 0x20 then { c with crh := vput c.crh ((o - 0x3408) / 8) v }
    else if o = 0x3428 then { c with crsyn := v }
    else if within o 0x8000 0xA00 then c.dbgQueueWrite o v
    else if within o 0xC000 0x4000 then
      match c.scoreboard[(o - 0xC000) / 1024]? with
      | some e =>
        let put := fun (x : VWord) => BitVec.ofNat 2048 (putWord64 x.toNat (o % 256 / 8) v)
        let e2 : SbEntry :=
          if o % 1024 / 256 = 3 then (if e.pair then { e with vresult1 := put e.vresult1 } else { e with vresult0 := put e.vresult0 })
          else if o % 1024 / 256 = 2 && e.pair then { e with vresult0 := put e.vresult0 } else e
        { c with scoreboard := setNth c.scoreboard ((o - 0xC000) / 1024) e2 }
      | none => c
    else c)

end Sys2Proof.Machine
end

