-- ==== Sys2Proof/Machine/Mmio.lean ====
section
/-! DEFINITION. The device's MMIO windows: what a doubleword at each offset reads and what a write of it does (17_outside
R365 to R368, and the chapters whose registers lie there). -/

namespace Sys2Proof.Machine

/-! ### Supervisor command ports and the notification queue (11 R235, R239) -/

/-- The migration port or the save port of a die. -/
def Die.port (d : Die) (save : Bool) : Port := if save then d.savePort else d.migPort
def Die.setPort (d : Die) (save : Bool) (p : Port) : Die := if save then { d with savePort := p } else { d with migPort := p }
/-- The head completion word popped; 0 when there is none. -/
def State.portPop (s : State) (die : Nat) (save : Bool) : State × Word :=
  match ((s.dieAt die).port save).cpl with
  | [] => (s, 0)
  | w :: t => (s.mapDie die (fun d => d.setPort save { d.port save with cpl := t }), w)
/-- A staged word. -/
def State.portStage (s : State) (die : Nat) (save : Bool) (who i : Nat) (v : Word) : State :=
  s.mapDie die (fun d =>
    let p := d.port save
    d.setPort save { p with stage := vput p.stage who (vput (nth (Vector.replicate 3 0) p.stage.toList who) i v) })
/-- Word 3: the assembled TCW enters the queue, or a rejected one leaves a BADOP word. `none` while the queue has no room,
or the completion words none for a rejected command. -/
def State.portSubmit (s : State) (die : Nat) (save : Bool) (who : Nat) (w3 : Word) : Option State :=
  let p := (s.dieAt die).port save
  let w := (nth (Vector.replicate 3 0) p.stage.toList who).toList
  let t := tcwOf (w ++ [w3])
  if tcwAccepted (if save then 5 else 4) t then
    if (if save then 4 else 16) ≤ p.queue.length then none
    else
      let k : Cmd := { tcw := t, core := 512 + who % 8, ctx := Ctx.zero, token := 0, id := s.serial, record := none, unwound := false }
      some ((s.mapDie die (fun d => d.setPort save { d.port save with queue := (d.port save).queue ++ [k] })).tick)
  else if 32 ≤ p.cpl.length then none
  else
    some (s.mapDie die (fun d => d.setPort save
      { d.port save with cpl := (d.port save).cpl ++ [cplWordOf (if save then 5 else 4) t (codeOf stBadop 0 0) 0] }))
/-- The head of the notification queue popped; 0 when it is empty. -/
def State.nqTake (s : State) (die : Nat) : State × Word :=
  match (s.dieAt die).nq with
  | [] => (s, 0)
  | w :: t => (s.mapDie die (fun d => { d with nq := t }), w)

/-! ### WTT windows (14 R304) and team launch (14 R305) -/

/-- The bits of word `i` of an entry that a window write sets: all but the RO fields COSTART and TEAM (R298, R7). -/
def wttMask (i : Nat) : Word :=
  match i with
  | 0 => 0xDFFFFFFFFFFFFFFF
  | 2 => 0x0000FFFFFFFFFFFF
  | _ => 0xFFFFFFFFFFFFFFFF
/-- A word with the bits of a mask written. -/
def putMask (old v m : Word) : Word := (old &&& ~~~m) ||| (v &&& m)
/-- A window POST: words 0–6 as they stand. -/
def State.windowPost (s : State) (a k : Nat) : State :=
  let e := (s.coreAt a).entry k
  if wttOpen e && imageOk a e.image then s.postEntry a k e.image else s
/-- A write of word `i` of an entry. -/
def State.wttWrite (s : State) (a k i : Nat) (v : Word) : State :=
  if i < 7 then
    s.mapCore a (fun c =>
      let e := c.entry k
      if wttOpen e then c.setEntry k { e with image := vput e.image i (putMask (nth 0 e.image.toList i) v (wttMask i)) } else c)
  else match fld v 0 3 with
    | 1 => s.windowPost a k
    | 2 => s.cancelEntry a k
    | 3 => s.killEntry a k
    | _ => s

/-- A write of LCMD: the image checked, the launch begun under the next team id (DESIGN CHOICE, log entry 128). -/
def State.launch (s : State) (v : Word) : State :=
  let g := s.pkg
  let img := g.limg.toList
  let forges := (tab id 0 64).filter (fun f => g.lmask.getLsbD f)
  let cores := forges.flatMap (fun f => tab id (8 * f) 8)
  let costart := v.getLsbD 8
  let w := imageOf img
  let ok := cores != [] && cores.all (fun a => imageOk a w) && !(costart && imageGmask w != 0)
  let team := g.lteam + 1
  if ok then
    let l : Launch := { image := g.limg, cores := cores, all := cores, idx := fld v 0 5, team := team, costart := costart }
    s.mapPkg (fun g => { g with lteam := team, lstatus := 0, launches := g.launches ++ [l] })
  else s.mapPkg (fun g => { g with lstatus := 1 })
/-- LSTAT. -/
def lstatWord (g : Package) : Word := wn (g.lteam.toNat * 65536 + g.lstatus.toNat * 256 + b2n (!g.launches.isEmpty))

/-! ### Islands (17 R378) -/

def Die.island (d : Die) (q : Nat) : Island := tget Island.reset d.islands q
def Die.setIsland (d : Die) (q : Nat) (i : Island) : Die := { d with islands := tset d.islands q i }
/-- FCUR: half the applied clock during a stretch. -/
def Island.fcur (i : Island) : Nat := if i.stretch then i.applied.toNat / 2 else i.applied.toNat
def islandWord (i : Island) : Word :=
  wn (i.vcur.toNat * 2 ^ 56 + i.fcur * 2 ^ 48 + b2n i.stretch * 2 ^ 40 + i.vset.toNat * 2 ^ 24 + b2n i.vfix * 512 + b2n i.droop * 256 +
    i.freq.toNat)
/-- The larger of two byte values. -/
def maxB (x y : BitVec 8) : BitVec 8 := if x < y then y else x
/-- A write of ISLCTL: a new clock is locked before it applies; with VFIX the voltage is VSET, raised to the minimum the
timing monitors require, a free value (log entry 5). -/
def State.islandWrite (s : State) (die q : Nat) (v : Word) : State :=
  (s.mapDie die (fun d =>
    let i := d.island q
    let f := let x := fld v 0 6; if x < 16 then 16 else if 48 < x then 48 else x
    let vset := BitVec.ofNat 8 (fld v 24 8)
    d.setIsland q
      { i with vset := vset, vfix := v.getLsbD 9, droop := v.getLsbD 8, freq := BitVec.ofNat 6 f,
               relock := i.relock || f != i.freq.toNat,
               vcur := if v.getLsbD 9 then maxB vset (loopVoltage s.fresh) else i.vcur })).used 1

/-! ### The die window -/

/-- A fault-buffer entry's word (11 R238). -/
def faultWord (e : FaultEntry) (i : Nat) : Word :=
  match i with
  | 0 => wn (b2n e.valid * 2 ^ 63 + e.asid.toNat * 2 ^ 48 + e.vpn.toNat * 2 ^ 12 + e.type.toNat)
  | 1 => e.req.truncate 64
  | 2 => (e.req >>> 64).truncate 64
  | _ => e.count.zeroExtend 64
/-- A migration-table entry's word (13 R288). -/
def migWord (e : MigEntry) (i : Nat) : Word :=
  match i with
  | 0 => wn (2 ^ 63 + e.phase.toNat * 2 ^ 61 + e.size.toNat * 2 ^ 59 + e.asid.toNat * 2 ^ 48 + e.va.toNat)
  | 1 => wn e.src
  | 2 => wn e.dst
  | 3 => wn (e.pois * 2 ^ 32 + e.next)
  | _ => 0
/-- A word of a table of eight-word entries. -/
def tableWord (t : Table (Vector Word 8)) (o : Nat) : Word := nth 0 (tget (Vector.replicate 8 0) t (o / 64)).toList (o % 64 / 8)
/-- The bits of word `i` of a context-table entry that are not RSVD (13 R269, R8). -/
def ctxMask (i : Nat) : Word :=
  match i with
  | 0 => 0x000FFFFFFFFFF001
  | 1 => 0x000FFFFFFFFFF000
  | 5 => 1
  | 6 | 7 => 0
  | _ => 0xFFFFFFFFFFFFFFFF
/-- The bits of word `i` of a stripe-table entry that are not RSVD (13 R280, R8). -/
def stripeMask (i : Nat) : Word :=
  match i with
  | 0 => 0xC0000000000000FF
  | 6 | 7 => 0
  | _ => 0xFFFFFFFFFFFFFFFF
/-- A word of a table written: the bits of its mask; the others read 0. -/
def setTableWord (mask : Nat → Word) (t : Table (Vector Word 8)) (o : Nat) (v : Word) : Table (Vector Word 8) :=
  tset t (o / 64) (vput (tget (Vector.replicate 8 0) t (o / 64)) (o % 64 / 8) (v &&& mask (o % 64 / 8)))
/-- A ring register (15 R332). -/
def ringWord (r : RingRegs) (o : Nat) : Word := match o with | 0 => r.base | 8 => r.head.zeroExtend 64 | 16 => r.tail.zeroExtend 64 | _ => 0

/-- Who makes an access: a core, or the host. -/
def stageOf (who : Option Nat) : Option Nat :=
  match who with
  | none => some 8
  | some a => if isSup a then some (a - 512) else none

/-- A doubleword of a die window below the forge windows. -/
def State.dieRead (s : State) (die o : Nat) : State × Word :=
  let d := s.dieAt die
  if within o 0x2000 0x100 then (s, faultWord (nth FaultEntry.empty d.faults.toList ((o - 0x2000) / 32)) (o % 32 / 8))
  else if o = 0x3000 then s.nqTake die
  else if o = 0x4020 then s.portPop die false
  else if o = 0x4060 then s.portPop die true
  else if within o 0x5000 0x1000 then
    (s, match tfind d.migs ((o - 0x5000) / 64) with | some e => migWord e (o % 64 / 8) | none => 0)
  else if within o 0x6000 0x80 then (s, ringWord (nth RingRegs.zero d.rings.toList ((o - 0x6000) / 64)) (o % 64))
  else if o = 0x6100 then (s, d.partmap)
  else if within o 0x6800 0x80 then (s, (nth 0 d.sev.toList ((o - 0x6800) / 8)).zeroExtend 64)
  else if within o 0x7000 0x1000 then (s, nth 0 (tget (Vector.replicate 4 0) d.log ((o - 0x7000) / 32)).toList (o % 32 / 8))
  else if within o 0x8000 0x100 then (s, islandWord (d.island ((o - 0x8000) / 8)))
  else if within o 0x10000 0x8000 then (s, tableWord d.ctxs (o - 0x10000))
  else if within o 0x18000 0x4000 then (s, tableWord d.stripes (o - 0x18000))
  else if within o 0x20000 0x40000 then
    (s, wttWord ((s.coreAt (128 * die + (o - 0x20000) / 0x800)).entry (o % 0x800 / 64)) (o % 64 / 8))
  else if within o 0x100000 0x800000 then (s, s.dbgRead (128 * die + (o - 0x100000) / 0x10000) (o % 0x10000))
  else (s, 0)

/-- A doubleword of a die window written; `none` while it waits for room. -/
def State.dieWrite (s : State) (who : Option Nat) (die o : Nat) (v : Word) : Option State :=
  if within o 0x4000 0x20 || within o 0x4040 0x20 then
    let save := decide (0x4040 ≤ o)
    match stageOf who with
    | none => some s
    | some k => if o % 64 < 0x18 then some (s.portStage die save k (o % 64 / 8) v) else s.portSubmit die save k v
  else if within o 0x6000 0x80 then
    some (s.mapDie die (fun d =>
      let i := (o - 0x6000) / 64
      let r := nth RingRegs.zero d.rings.toList i
      let r2 : RingRegs := match o % 64 with
        | 0 => { r with base := v &&& 0x000FFFFFFFFFF001 }
        | 8 => { r with head := v.truncate 6 }
        | _ => r
      { d with rings := vput d.rings i r2 }))
  else if o = 0x6100 then some (s.mapDie die (fun d => { d with partmap := v }))
  else if within o 0x6800 0x80 then
    some (s.mapDie die (fun d => { d with sev := vput d.sev ((o - 0x6800) / 8) (sevWrite (nth 0 d.sev.toList ((o - 0x6800) / 8)) v) }))
  else if within o 0x8000 0x100 then some (s.islandWrite die ((o - 0x8000) / 8) v)
  else if within o 0x10000 0x8000 then some (s.mapDie die (fun d => { d with ctxs := setTableWord ctxMask d.ctxs (o - 0x10000) v }))
  else if within o 0x18000 0x4000 then some (s.mapDie die (fun d => { d with stripes := setTableWord stripeMask d.stripes (o - 0x18000) v }))
  else if within o 0x20000 0x40000 then
    some (s.wttWrite (128 * die + (o - 0x20000) / 0x800) (o % 0x800 / 64) (o % 64 / 8) v)
  else if within o 0x100000 0x800000 then some (s.dbgWrite (128 * die + (o - 0x100000) / 0x10000) (o % 0x10000) v)
  else some s

/-! ### The forge window (12 R253, R256, 15 R345, 16 R357, R359, 06 R139) -/

/-- A directory entry's word. -/
def dirWord (e : DirEntry) (i : Nat) : Word :=
  if i = 0 then wn (b2n e.valid * 2 ^ 63 + e.ctx.asid.toNat * 2 ^ 48 + e.va.toNat) else wn (e.age.toNat * 65536 + e.id.toNat)
/-- Whether an offset lies in the event-unit range whose accesses act as EVWAIT and EVSIG. -/
def isEvRange (o : Nat) : Bool := within o 0x0C00 0x800

/-- A doubleword of a forge window; `cls` is the arbiter class of a slot's head (R255, R256). -/
def State.forgeRead (s : State) (cls : Nat → Nat) (f o : Nat) : Word :=
  let g := s.forgeAt f
  if within o 0x0800 0x40 then
    let k := (o - 0x800) / 8
    let c := s.coreAt (8 * f + k)
    let recs := (c.records.toList.filter (fun r => r[0].getLsbD 63)).length
    wn ((nth [] g.holding.toList k).length * 4096 + min recs 15 * 256 + b2n (recs == 16) * 128 + cls k * 16 + (nth 0 g.ages.toList k).toNat)
  else if within o 0x0900 0x100 then dirWord (nth DirEntry.empty g.dir.toList ((o - 0x900) / 16)) (o % 16 / 8)
  else if o = 0x0A00 then g.iftIvl.zeroExtend 64 <<< 16
  else if within o 0x0A40 0x40 then word64 g.homes.toNat ((o - 0xA40) / 8)
  else if within o 0x0A80 0x80 then word64 g.pkgs.toNat ((o - 0xA80) / 8)
  else if within o 0x1400 0x80 then (g.evAt ((o - 0x1400) / 8)).zeroExtend 64
  else if within o 0x1480 0x40 then
    match g.mxAt ((o - 0x1480) / 8) with | some q => wn (2 ^ 63 + q.toNat) | none => 0
  else if within o 0x2000 0x4000 && csrForge ((o - 0x2000) / 8) then g.csr ((o - 0x2000) / 8)
  else 0
/-- A doubleword of a forge window written. -/
def State.forgeWrite (s : State) (f o : Nat) (v : Word) : State :=
  s.mapForge f (fun g =>
    if o = 0x0A00 then { g with iftIvl := BitVec.ofNat 32 (fld v 16 32), iftWant := g.iftWant || v.getLsbD 0 }
    else if o = 0x0B00 then (if v.getLsbD 0 then { g with hist := Vector.replicate 32 0 } else g)
    else if within o 0x2000 0x4000 && csrForge ((o - 0x2000) / 8) then g.setCsr ((o - 0x2000) / 8) v v
    else g)

/-! ### The memory-port window (10 R203, R206, 13 R293, 16 R361) -/

def State.portRead (s : State) (p o : Nat) : Word :=
  let h := s.homeAt p
  match o with
  | 0x00 => h.latstall
  | 0x08 => h.scrSteps
  | 0x10 => h.scrCe
  | 0x18 => h.scrUe
  | 0x20 => h.demCe
  | 0x28 => h.rfmCnt
  | 0x30 => h.fabCnt
  | 0x38 => wn (ofDigits 4 (h.postpone.toList.map BitVec.toNat))
  | 0x40 => h.hrHit
  | 0x48 => h.hrMiss
  | 0x100 => wn (h.hotRows.length * 2 ^ 40 + h.curivl.toNat * 65536 + b2n h.fixed)
  | _ =>
    if within o 0x0200 0x200 then
      match tfind h.hotRows ((o - 0x200) / 8) with
      | some r => wn (2 ^ 63 + b2n r.retq * 2 ^ 62 + r.score.toNat * 2 ^ 32 + r.row.toNat)
      | none => 0
    else if within o 0x4000 0x4000 then
      match tfind h.hot ((o - 0x4000) / 8) with
      | some r => wn (2 ^ 63 + b2n r.queued * 2 ^ 62 + b2n r.pending * 2 ^ 61 + r.count.toNat * 2 ^ 40 + r.region.toNat)
      | none => 0
    else 0
def State.portWrite (s : State) (p o : Nat) (v : Word) : State :=
  if o = 0 then s.mapHome p (fun h => { h with latstall := v })
  else if o = 0x100 then s.mapHome p (fun h => { h with fixed := v.getLsbD 0 })
  else s

/-! ### The global block (17 R366 to R382) -/

/-- MC14 of supervisor 512 moved on by a host doorbell. -/
def State.hostBell (s : State) : State :=
  s.mapCore 512 (fun c => { c with mc := c.mc.set 14 (satAdd c.mc[14] 1) })
/-- Parked supervisors released. -/
def State.releaseSups (s : State) (v : Word) : State :=
  s.each (tab id 0 8) (fun t i =>
    if v.getLsbD i && (t.coreAt (512 + i)).status == .parked then
      t.mapCore (512 + i) (fun c => { c with status := .running, wait := none })
    else t)

def bootWord (g : Package) : Word :=
  wn (g.bootCode.toNat * 2 ^ 32 + g.bootSvn.toNat * 2 ^ 24 + g.bootSlot.toNat * 256 + g.bootStage.toNat)
def pwrWord (g : Package) : Word := wn (b2n g.pwrHold * 2 ^ 33 + b2n g.capping * 2 ^ 32 + g.pwrPeak.toNat * 65536 + g.pwrAvg.toNat)
/-- Whether a forge is in quench: in the mode of the pass in flight, or, with none, in that of the next (01 R20, R21). -/
def Forge.inQuench (g : Forge) : Bool := match g.drains.getLast? with | some p => p.quench | none => g.hotQuench || g.qmode == 1
/-- The largest of some byte values. -/
def maxBytes (l : List (BitVec 8)) : Nat := (l.map BitVec.toNat).foldl max 0
/-- THERMSTAT (R382): the hottest converter row and junction by what was last reported of each (log entry 87). -/
def State.thermWord (s : State) : Word :=
  let gs := s.forges.map Prod.snd
  let is := (s.dies.map Prod.snd).flatMap (fun (d : Die) => d.islands.map Prod.snd)
  wn (b2n s.pkg.trip * 2 ^ 63 + maxBytes (gs.map Forge.rowTemp) * 2 ^ 40 + maxBytes (s.pkg.tripTemp :: is.map Island.junction) * 2 ^ 32 +
    (gs.filter Forge.inQuench).length * 65536 + min (is.filter Island.hot).length 255)
def atfWord (g : Package) (k : Nat) : Word :=
  let p := tget AtfPort.reset g.atf k
  wn (b2n p.up * 2 ^ 63 + b2n p.degraded * 2 ^ 62 + b2n p.retrain * 2 ^ 61 + p.waves.toNat * 2 ^ 48 + g.pkgId.toNat * 2 ^ 32 +
    p.retrains.toNat * 65536 + p.replays.toNat)

/-- A byte of the quote, its parts in the order R375 lists them (log entry 85). -/
def Package.quoteByte (g : Package) (i : Nat) : Byte :=
  match g.quote with
  | none => 0
  | some q =>
    if i < 32 then nth 0 (q.nonce.toList.flatMap (fun w => toBytes 8 w.toNat)) i
    else if i < 64 then nth 0 (toBytes 32 Config.romDigest.toNat) (i - 32)
    else if i < 96 then nth 0 (toBytes 32 q.digest.toNat) (i - 64)
    else if i < 128 then nth 0 (toBytes 32 Config.certDigest.toNat) (i - 96)
    else if i < 136 then nth 0 (toBytes 8 q.feat.toNat) (i - 128)
    else if i < 144 then nth 0 (toBytes 8 q.boot.toNat) (i - 136)
    else if i < 2564 then Config.quoteByte q.n i
    else 0

def State.globalRead (s : State) (o : Nat) : Word :=
  let g := s.pkg
  if o < 0x20 then featWord g (o / 8)
  else if o = 0x40 then bootWord g
  else if o = 0x50 then g.pwrcap.zeroExtend 64
  else if o = 0x58 then pwrWord g
  else if o = 0x60 then s.thermWord
  else if within o 0x100 0x80 then atfWord g ((o - 0x100) / 8)
  else if within o 0x200 0x40 then nth 0 g.limg.toList ((o - 0x200) / 8)
  else if o = 0x240 then g.lmask
  else if o = 0x250 then lstatWord g
  else if within o 0x300 0x40 then nth 0 g.hmsg.toList ((o - 0x300) / 8)
  else if within o 0x380 0x40 then nth 0 g.smsg.toList ((o - 0x380) / 8)
  else if o = 0x3C0 then g.hnqBase
  else if o = 0x3C8 then g.hnqHead.zeroExtend 64
  else if o = 0x3D0 then g.hnqTail.zeroExtend 64
  else if within o 0x1000 0x1000 then wn (ofBytes (tab g.quoteByte (o - 0x1000) 8))
  else if o = 0x2008 then g.fwstat.zeroExtend 64
  else 0

/-- PWRCAP, clamped to its range (R380). -/
def capWrite (v : Word) : BitVec 16 := let x := fld v 0 16; if x < 600 then 600 else if 1500 < x then 1500 else BitVec.ofNat 16 x

def State.globalWrite (s : State) (who : Option Nat) (o : Nat) (v : Word) : State :=
  if o = 0x48 then
    (if 1 ≤ fld v 0 4 ∧ fld v 0 4 ≤ 4 then s.mapPkg (fun g => { g with cmds := g.cmds ++ [.host (BitVec.ofNat 4 (fld v 0 4)) g.nonce] }) else s)
  else if o = 0x50 then s.mapPkg (fun g => { g with pwrcap := capWrite v })
  else if o = 0x58 then
    s.mapPkg (fun g => { g with pwrHold := g.pwrHold && !v.getLsbD 33, pwrPeak := g.pwrPeak &&& ~~~(BitVec.ofNat 16 (fld v 16 16)) })
  else if within o 0x200 0x40 then s.mapPkg (fun g => { g with limg := vput g.limg ((o - 0x200) / 8) v })
  else if o = 0x240 then s.mapPkg (fun g => { g with lmask := v })
  else if o = 0x248 then s.launch v
  else if within o 0x300 0x40 then s.mapPkg (fun g => { g with hmsg := vput g.hmsg ((o - 0x300) / 8) v })
  else if o = 0x340 then s.hostBell
  else if within o 0x380 0x40 then
    match who with
    | some a =>
      if isSup a then
        let t := s.mapPkg (fun g => { g with smsg := vput g.smsg ((o - 0x380) / 8) v })
        if o = 0x3B8 then t.toHost [.msix 2] else t
      else s
    | none => s
  else if o = 0x3C0 then s.mapPkg (fun g => { g with hnqBase := v &&& 0xFFFFFFFFFFFFF001 })
  else if o = 0x3C8 then s.mapPkg (fun g => { g with hnqHead := v.truncate 6 })
  else if o = 0x3D8 then (if who.isNone then s.releaseSups v else s)
  else if within o 0x400 0x20 then s.mapPkg (fun g => { g with nonce := vput g.nonce ((o - 0x400) / 8) v })
  else if o = 0x2000 then s.mapPkg (fun g => { g with fwctl := v.getLsbD 0 })
  else if within o 0x100000 0x100000 then s.mapPkg (fun g => { g with staging := tset g.staging ((o - 0x100000) / 8) v })
  else s

/-! ### The whole map (R365) -/

/-- Which window an offset of the MMIO space lies in, with the offset in it. -/
inductive MmioAt where
  | die (d o : Nat)
  | forge (f o : Nat)
  | port (p o : Nat)
  | global (o : Nat)
  | nothing
  deriving DecidableEq, Repr

def mmioAt (off : Nat) : MmioAt :=
  if off < 0x4000000 then
    let d := off / 0x1000000
    let o := off % 0x1000000
    if o < 0xA00000 then .die d o
    else if o < 0xB00000 then .forge (16 * d + (o - 0xA00000) / 0x10000) (o % 0x10000)
    else if within o 0xC00000 0x400000 then .port (128 * d + (o - 0xC00000) / 0x8000) (o % 0x8000)
    else .nothing
  else if within off 0x4000000 0x200000 then .global (off - 0x4000000)
  else .nothing

/-- A doubleword read at an 8-aligned offset, with what the read does. -/
def State.mmioRead (s : State) (cls : Nat → Nat → Nat) (off : Nat) : State × Word :=
  match mmioAt off with
  | .die d o => s.dieRead d o
  | .forge f o => (s, s.forgeRead (cls f) f o)
  | .port p o => (s, s.portRead p o)
  | .global o => (s, s.globalRead o)
  | .nothing => (s, 0)

/-- A doubleword written at an 8-aligned offset; `none` while the target waits for room. -/
def State.mmioWrite (s : State) (who : Option Nat) (off : Nat) (v : Word) : Option State :=
  match mmioAt off with
  | .die d o => s.dieWrite who d o v
  | .forge f o => some (s.forgeWrite f o v)
  | .port p o => some (s.portWrite p o v)
  | .global o => some (s.globalWrite who o v)
  | .nothing => some s

/-- The event-unit selector an offset names (16 R357). -/
def evSelector (off : Nat) : Option (BitVec 8) :=
  match mmioAt off with
  | .forge _ o => if isEvRange o then some (BitVec.ofNat 8 ((o - 0xC00) / 8)) else none
  | _ => none

end Sys2Proof.Machine
end

