-- ==== Sys2Proof/Machine/LoadStore.lean ====
section
/-! DEFINITION. The scalar loads and stores, majors 0x12 to 0x1C, and their accesses to the MMIO windows (07_memories
R155 to R158, 16_counters R357, 17_outside R365). -/

namespace Sys2Proof.Machine

/-! ### MMIO accesses (R155) -/

/-- The physical address of an access that reaches an MMIO window, and the state with its translation (13 R282). -/
def State.mmioOf (s : State) (kind : Kind) (va : Word) (n : Nat) : Option (State × Nat) :=
  match s.locate s.cur kind va n with
  | .ok (s1, t) => if t.mmio then t.cells.head?.map (fun x => (s1, x.1)) else none
  | .error _ => none

/-- A single-access chunk that has ended. -/
def State.endAlone (s : State) : State := s.countCommit s.cur 1 false

/-- What every MMIO access meets first: it ends run-ahead unperformed, must be naturally aligned, and leaves the open chunk,
which commits before it; `k` performs it. -/
def State.mmioAccess (s : State) (va : Word) (pa n : Nat) (k : State → Nat → Res) : Res :=
  if (s.coreAt s.cur).ahead.isSome then .held s
  else if pa % n ≠ 0 then .fault (.access va)
  else if !s.core.scoreboard.isEmpty then .wait .scoreboard
  else match (s.me Core.leaveChunk).selfHit with
    | some t => .held t
    | none =>
      let t := (s.me Core.leaveChunk).settled
      if t.incomplete s.cur then .wait .switch else k t (pa - mmioBase)

/-- The bytes of a doubleword that a load names, extended. -/
def pickBytes (ext : Nat → Word) (v : Word) (off n : Nat) : Word := ext (fld v (8 * (off % 8)) (8 * n))

/-- A load from a window: the doubleword that holds it, with every effect of its read; a load in the event-unit range waits
as EVWAIT does. -/
def State.mmioLoad (s : State) (d : BitVec 5) (va : Word) (pa n : Nat) (ext : Nat → Word) : Res :=
  s.mmioAccess va pa n (fun t off =>
    match evSelector off with
    | some sel =>
      if isSup t.cur then .fault (.access va)
      else evWait t sel (fun u v => .after (u.endAlone.me (fun c => c.writeS d (pickBytes ext v off n))) id)
    | none =>
      let r := t.mmioRead t.slotClass (off / 8 * 8)
      .after (r.1.endAlone.me (fun c => c.writeS d (pickBytes ext r.2 off n))) id)

/-- A store to a window: a narrow one changes nothing and faults late; one in the event-unit range acts as EVSIG. -/
def State.mmioStore (s : State) (va : Word) (pa n : Nat) (v : Word) : Res :=
  s.mmioAccess va pa n (fun t off =>
    if n < 8 then .late (.access va) t
    else match evSelector off with
      | some sel => if isSup t.cur then .fault (.access va) else evSig t sel (forgeOf t.cur) false (fun u => .done u.endAlone)
      | none =>
        match t.mmioWrite (some t.cur) off v with
        | some u => .done u.endAlone
        | none => .block .port t)

/-! ### The members (R157) -/

/-- A loaded value, or 0 and poison when a byte was poisoned (R156). -/
def Core.loadS (c : Core) (d : BitVec 5) (x : Word) (poison : Bool) : Core := if poison then c.poisonS d 0 else c.writeS d x

/-- A load of `n` bytes. -/
def scalarLoad (d a : BitVec 5) (o : BitVec 12) (l : BitVec 4) (n : Nat) (ext : Nat → Word) :
    State → Host.Outcome State Fault Refusal :=
  issue (Plan.memory [sR a] [sR d] l) (fun s =>
    let va := s.core.memAddr a o n
    match s.mmioOf .load va n with
    | some (t, pa) => t.mmioLoad d va pa n ext
    | none =>
      s.loads [(va, n)] (fun t r =>
        .done (t.me (fun c => c.loadS d (ext (ofBytes (r.flatMap Prod.fst))) (r.any Prod.snd)))))

/-- A store of the low `n` bytes of s[d]. -/
def scalarStore (d a : BitVec 5) (o : BitVec 12) (l : BitVec 4) (n : Nat) : State → Host.Outcome State Fault Refusal :=
  issue (Plan.memory [sR d, sR a] [] l) (fun s =>
    let va := s.core.memAddr a o n
    match s.mmioOf .store va n with
    | some (t, pa) => t.mmioStore va pa n (s.core.readS d)
    | none => s.stores [(va, toBytes n (s.core.readS d).toNat)] .done)

/-- Sign extension of the low `w` bits. -/
def signExt (w x : Nat) : Word := wi (sxt w x)

/-- LB. -/
def execLb (d a : BitVec 5) (o : BitVec 12) (l : BitVec 4) (s : State) : Host.Outcome State Fault Refusal :=
  scalarLoad d a o l 1 (signExt 8) s
/-- LH. -/
def execLh (d a : BitVec 5) (o : BitVec 12) (l : BitVec 4) (s : State) : Host.Outcome State Fault Refusal :=
  scalarLoad d a o l 2 (signExt 16) s
/-- LW. -/
def execLw (d a : BitVec 5) (o : BitVec 12) (l : BitVec 4) (s : State) : Host.Outcome State Fault Refusal :=
  scalarLoad d a o l 4 (signExt 32) s
/-- LD. -/
def execLd (d a : BitVec 5) (o : BitVec 12) (l : BitVec 4) (s : State) : Host.Outcome State Fault Refusal :=
  scalarLoad d a o l 8 wn s
/-- LBU. -/
def execLbu (d a : BitVec 5) (o : BitVec 12) (l : BitVec 4) (s : State) : Host.Outcome State Fault Refusal :=
  scalarLoad d a o l 1 wn s
/-- LHU. -/
def execLhu (d a : BitVec 5) (o : BitVec 12) (l : BitVec 4) (s : State) : Host.Outcome State Fault Refusal :=
  scalarLoad d a o l 2 wn s
/-- LWU. -/
def execLwu (d a : BitVec 5) (o : BitVec 12) (l : BitVec 4) (s : State) : Host.Outcome State Fault Refusal :=
  scalarLoad d a o l 4 wn s
/-- SB. -/
def execSb (d a : BitVec 5) (o : BitVec 12) (l : BitVec 4) (s : State) : Host.Outcome State Fault Refusal :=
  scalarStore d a o l 1 s
/-- SH. -/
def execSh (d a : BitVec 5) (o : BitVec 12) (l : BitVec 4) (s : State) : Host.Outcome State Fault Refusal :=
  scalarStore d a o l 2 s
/-- SW. -/
def execSw (d a : BitVec 5) (o : BitVec 12) (l : BitVec 4) (s : State) : Host.Outcome State Fault Refusal :=
  scalarStore d a o l 4 s
/-- SD. -/
def execSd (d a : BitVec 5) (o : BitVec 12) (l : BitVec 4) (s : State) : Host.Outcome State Fault Refusal :=
  scalarStore d a o l 8 s

end Sys2Proof.Machine
end

