-- ==== Sys2Proof/Machine/Fe.lean ====
section
/-! DEFINITION. LDS and the full/empty group, majors 0x1D and 0x1E (07_memories R156, R159 to R161, 08_consistency R175,
15_error_tables R327). -/

namespace Sys2Proof.Machine

/-- The storage address of an aligned word of FE memory. -/
def State.feWord (s : State) (va : Word) : Option Nat :=
  if va.toNat % 8 = 0 ∧ lwb ≤ va.toNat then s.localAddr s.cur va.toNat else none
/-- An access to such a word. -/
def feTarget (w : Nat) : Target :=
  { Target.empty with cells := tab (fun x => (x, sramAttr)) w 8, kinds := [16] }

/-- Poison met by an access that is performed late (R156, R175): under ignore or log the instruction goes on with the
stored bits. -/
def State.orLate (s : State) (poisoned : Bool) (va : Word) (k : State → Res) : Res :=
  if !poisoned then k s
  else if (s.dieAt (dieOf s.cur)).action 2 0 ≤ 1 then k (s.raise (dieOf s.cur) (consumedRaise s.cur s.core.regs.pc va))
  else .late (.consumed va) s

/-- LDS. -/
def execLds (d a : BitVec 5) (o : BitVec 12) (l : BitVec 4) (s : State) : Host.Outcome State Fault Refusal :=
  issue { Plan.memory [sR a] [sR d] l with cls := .first, ahead := .ends } (fun s =>
    let va := s.core.memAddr a o 8
    match s.feWord va with
    | none => .fault (.access va)
    | some w =>
      if !s.isFull w then .wait (.ldsFull w)
      else
        (s.readOne s.cur (feTarget w)).1.orLate (s.ownPoison s.cur w .sram) va (fun t =>
          .done (t.me (fun c => c.writeS d (wn (ofBytes (tab (fun x => s.ownByte s.cur x .sram) w 8))))))) s

/-! ### Waiters (R161) -/

/-- A full/empty bit written: a write of its word for the signatures of the die (R159). -/
def State.feSet (s0 : State) (w : Nat) (b : Bool) : State :=
  let s := s0.touch (dieOf (sramCore w)) none [lineOf w]
  (s.setFull w b).meetAll (dieOf (sramCore w)) [lineOf w]
/-- LDSE's access: the value, and the word empty. -/
def State.feTake (s0 : State) (w : Nat) : Word × State :=
  let s := s0.touch (dieOf (sramCore w)) none [lineOf w]
  (wn (ofBytes (memBytes s.mem w 8)), s.feSet w false)
/-- STF's access: the word written whole, and full. -/
def State.fePut (s : State) (w : Nat) (v : Word) : State := (s.sramPut w (toBytes 8 v.toNat)).feSet w true

/-- A core's place among the waiters taken, and given up. -/
def State.feJoin (s : State) (w : Nat) : State :=
  if s.feWaiters.any (fun x => x.2 == s.cur) then s else { s with feWaiters := s.feWaiters ++ [(w, s.cur)] }
def State.feLeave (s : State) (a : Nat) : State := { s with feWaiters := s.feWaiters.filter (fun x => x.2 != a) }
/-- A waiter of a word that its present state lets go, while its core runs. -/
def State.feReady (s : State) (w a : Nat) : Bool :=
  let c := s.coreAt a
  c.status == .running && c.waiting.any (fun x => (x == .feFull w && s.isFull w) || (match x with | .feEmpty y _ => y == w && !s.isFull w | _ => false))
/-- The oldest waiter of a word that may go. -/
def State.feFirst (s : State) (w : Nat) : Option Nat := (s.feWaiters.find? (fun x => x.1 == w && s.feReady w x.2)).map Prod.snd

/-- A member of the group with a wait: behind the chunk's commit, in the order of waiting, `go` when it is this core's
turn at the word. -/
def feMember (s : State) (va : Word) (want : Nat → Wait) (go : State → Nat → Res) (granted : State → Word → Res) : Res :=
  match s.feWord va with
  | none => .fault (.access va)
  | some w =>
    let t := s.settled
    match s.core.wait with
    | some (.granted v _) => granted t v
    | _ =>
      let u := (t.feJoin w).me (fun c => { c with wait := some (want w) })
      if u.feFirst w = some u.cur then
        (u.feLeave u.cur).orLate (u.poison.contains w) va (fun u => go u w)
      else .block (want w) u

/-- A plan of the group. -/
def fePlan (srcs dsts : List RegName) (l : BitVec 4) : Plan := { Plan.memory srcs dsts l with cls := .alone, ahead := .ends }

/-- LDSE. -/
def execLdse (d a : BitVec 5) (l : BitVec 4) (s : State) : Host.Outcome State Fault Refusal :=
  issue (fePlan [sR a] [sR d] l) (fun s =>
    let fin := fun (t : State) (v : Word) => Res.done (t.endAlone.me (fun c => c.writeS d v))
    feMember s (s.core.readS a) .feFull (fun t w => fin (t.feTake w).2 (t.feTake w).1) fin) s
/-- STF. -/
def execStf (a b : BitVec 5) (l : BitVec 4) (s : State) : Host.Outcome State Fault Refusal :=
  issue (fePlan [sR a, sR b] [] l) (fun s =>
    let v := s.core.readS b
    feMember s (s.core.readS a) (fun w => .feEmpty w v) (fun t w => .done (t.fePut w v).endAlone)
      (fun t _ => .done t.endAlone)) s

/-- FECLR and FESET: at once. -/
def feMark (a : BitVec 5) (l : BitVec 4) (b : Bool) : State → Host.Outcome State Fault Refusal :=
  issue (fePlan [sR a] [] l) (fun s =>
    let va := s.core.readS a
    match s.feWord va with
    | none => .fault (.access va)
    | some w => s.settled.orLate (s.settled.poison.contains w) va (fun t => .done (t.feSet w b).endAlone))
/-- FECLR. -/
def execFeclr (a : BitVec 5) (l : BitVec 4) (s : State) : Host.Outcome State Fault Refusal := feMark a l false s
/-- FESET. -/
def execFeset (a : BitVec 5) (l : BitVec 4) (s : State) : Host.Outcome State Fault Refusal := feMark a l true s

/-- FEQ: an ordinary read of the chunk; it reaches one word, whose poison it consumes (R156, log entry 17). -/
def execFeq (d a : BitVec 5) (l : BitVec 4) (s : State) : Host.Outcome State Fault Refusal :=
  issue (Plan.memory [sR a] [sR d] l) (fun s =>
    let va := s.core.readS a
    match s.feWord va with
    | none => .fault (.access va)
    | some w =>
      let r := s.readOne s.cur (feTarget w)
      r.1.orLate (s.ownPoison s.cur w .sram) va (fun t =>
        .done (t.me (fun c => c.writeS d (wn (ofDigits 1 (tab (fun k => b2n (t.isFull (w / 128 * 128 + 8 * k))) 0 16))))))) s

/-- The wait of a core for a word. -/
def Wait.fe (w : Nat) : Wait → Bool
  | .feFull x | .feEmpty x _ => x == w
  | _ => false
/-- FE_WAIT_RELEASE: the oldest waiter of a word that may go performs its access; one that meets poison does so at its
core's turn. -/
def execFeWaitRelease (w : Nat) (s : State) : Host.Outcome State Fault Refusal :=
  match s.feFirst w with
  | none => .next s
  | some a =>
    if s.poison.contains w then .next s
    else
      let t := s.feLeave a
      let r := match (s.coreAt a).waiting.find? (Wait.fe w) with
        | some (.feEmpty _ v) => ((0 : Word), t.fePut w v)
        | _ => t.feTake w
      .next (r.2.mapCore a (fun c => c.grantWait (Wait.fe w) (.granted r.1 false)))

end Sys2Proof.Machine
end

