-- ==== Sys2Proof/Machine/Amo.lean ====
section
/-! DEFINITION. Atomics and reductions, major 0x21 (09_atomics R188 to R200, 08_consistency R182, R183). -/

namespace Sys2Proof.Machine

/-! ### The operations (R190 to R193) -/

/-- Member number and size of fn[6:0]. -/
def amoSize (fn : BitVec 7) : Nat := if fn.getLsbD 6 then 4 else 8
def amoMember (fn : BitVec 7) : Nat := fld fn 0 6
/-- What memory becomes, or `none` when nothing is stored; and the flags. All are numbers of `w` bits. -/
def amoNew (fn : BitVec 7) (old b e : Nat) : Option Nat × FFl :=
  let w := 8 * amoSize fn
  let less := fun (x y : Nat) => decide (sxt w x < sxt w y)
  match amoMember fn with
  | 0 => (some b, flNone)
  | 1 | 14 => (some ((old + b) % 2 ^ w), flNone)
  | 2 => (some (old &&& b), flNone)
  | 3 | 18 => (some (old ||| b), flNone)
  | 4 => (some (old ^^^ b), flNone)
  | 5 | 15 => (some (if less b old then b else old), flNone)
  | 6 | 16 => (some (if less old b then b else old), flNone)
  | 7 => (some (if b < old then b else old), flNone)
  | 8 => (some (if old < b then b else old), flNone)
  | 9 => (if old = e then some b else none, flNone)
  | 10 => (if less e old then some b else none, flNone)
  | 11 => (if old = e then some ((bits old 48 16 + 1) % 2 ^ 16 * 2 ^ 48 + bits b 0 48) else none, flNone)
  | 12 => (if bits old 56 8 = bits e 56 8 then some b else none, flNone)
  | _ => let r := fadd fmtF64 0 old b; (some r.1, r.2)
/-- The value a returning member writes. -/
def amoReturn (fn : BitVec 7) (old : Word) : Word :=
  if amoSize fn = 8 then old
  else if amoMember fn = 7 ∨ amoMember fn = 8 then wn (fld old 0 32) else wi (sxt 32 old.toNat)
/-- A reduction, which writes no register. -/
def amoReduces (fn : BitVec 7) : Bool := 14 ≤ amoMember fn

/-! ### Performing a request (R195, R196, R198) -/

/-- The committed dirty bytes of a line of every cache of a die written back, and every copy dropped. -/
def State.recallLine (s : State) (die line : Nat) : State :=
  let s1 := s.landLine line
  let s2 := s1.each (s1.liveAgents die) (fun t a => (t.cleanLine a true line).cleanLine a false line)
  s2.killCopies die line fullMask none

/-- The notices that a home sends for a line (08 R183). -/
def State.sendNotices (s : State) (line : Nat) : State := { s with notices := s.notices ++ tab (fun d => (d, line)) 0 4 }

/-- A descriptor's delivery (R194). -/
def deliveryOf (a : Nat) (old d : Word) : Delivery :=
  { issuer := a, target := dieOf a * 128 + fld d 40 7,
    word := if d.getLsbD 63 then some (fld d 0 22, old) else none,
    bar := if d.getLsbD 62 then some (BitVec.ofNat 5 (fld d 48 5)) else none }

/-- The bytes written at the place of performance, with the writes' consequences there. -/
def State.amoWrite (s : State) (r : AtomicReq) (old : Nat) (new : Option Nat) : State :=
  let z := amoSize r.fn
  let line := lineOf r.addr
  if isSram r.addr then
    let s1 := match new with | some v => s.sramPut r.addr (toBytes z v) | none => s
    s1.meetAll (dieOf r.agent) [line]
  else
    let t : Table Byte := ((tab (fun i => r.addr + i) 0 z).zip (toBytes z (new.getD old))).foldl (fun t x => tset t x.1 x.2) []
    let d := lineBytes t line
    let s1 := if new.isSome then s.homeArrive line d.1 d.2 false r.attr.hot r.attr.heap
      else (if r.attr.hot then s.hotRequest r.addr else s).homeTouch line
    let s2 := s1.meetAll (dieOf r.agent) [line]
    let s3 := if homeOf r.addr / 128 = dieOf r.agent then s2 else s2.sendNotices line
    s3.suspect r.agent [line]

/-- What performing a request on an old value gave. -/
def amoDone (r : AtomicReq) (old : Word) : AtomicDone :=
  let z := amoSize r.fn
  let n := amoNew r.fn (fld old 0 (8 * z)) (fld r.b 0 (8 * z)) r.d.toNat
  { old := old, flags := if amoMember r.fn = 13 then n.2 else 0, bad := false, gone := false }
/-- The delivery that a reduction asks for, on its way (R195). -/
def State.sendDelivery (s : State) (r : AtomicReq) (old : Word) : State :=
  if amoReduces r.fn && r.d != 0 then { s with deliveries := s.deliveries ++ [deliveryOf r.agent old r.d] } else s

/-- A request performed at its bank or its home: what it gave, and the state, with the delivery on its way. -/
def State.amoPerform (s : State) (r : AtomicReq) : State × AtomicDone :=
  let z := amoSize r.fn
  let die := dieOf r.agent
  let sram := isSram r.addr
  let s1 := if sram then s else s.recallLine die (lineOf r.addr)
  let bad := if sram then s1.poison.contains (poisonUnit r.addr) else s1.homePoison (lineOf r.addr)
  let old := ofBytes (tab (fun i => if sram then memGet s1.mem i else s1.homeByte i) r.addr z)
  if within r.addr cxlBase (cxlTop - cxlBase) && !cxlPresent s.pkg r.addr then
    (s, { old := 0, flags := 0, bad := false, gone := true })
  else if bad then (s1, { old := wn old, flags := 0, bad := true, gone := false })
  else
    let n := amoNew r.fn old (fld r.b 0 (8 * z)) r.d.toNat
    ((s1.amoWrite r old n.1).sendDelivery r (wn old), amoDone r (wn old))

/-- The first request of a list that may be performed on this package. -/
def nextLocal : List AtomicReq → Option (List AtomicReq × AtomicReq × List AtomicReq)
  | [] => none
  | r :: t =>
    if !r.remote && r.done.isNone then some ([], r, t)
    else match nextLocal t with
      | some (a, x, b) => some (r :: a, x, b)
      | none => none

/-- Whether the home of a request can not perform it now: it can not serve the line, or a write on its way to the line can not land (10
R208). -/
def State.amoHeld (s : State) (r : AtomicReq) : Bool :=
  !isSram r.addr && (s.writeHeld (lineOf r.addr) r.attr.heap || (s.landLine (lineOf r.addr)).pushes.any (fun p => p.line == lineOf r.addr))
/-- The oldest request that waits on this package performed; one whose core has gone is forgotten with it. -/
def State.amoNext (s : State) : State :=
  match nextLocal s.atomics with
  | none => s
  | some (a, r, b) =>
    if s.amoHeld r then s else
    let x := s.amoPerform r
    { x.1 with atomics := a ++ (if r.dropped then [] else [{ r with done := some x.2 }]) ++ b }

/-- ATOMIC_PERFORM. -/
def execAtomicPerform (s : State) : Host.Outcome State Fault Refusal := .next s.amoNext

/-! ### Deliveries (R195) -/

/-- One delivery: the word written and set full, then the arrival; a word that is no longer FE memory is not written, and
its reduction ends with an access error. -/
def State.deliver (s : State) (x : Delivery) : State :=
  let s1 := match x.word with
    | none => s
    | some (off, v) =>
      if sramAssigned (s.coreAt x.target) off then s.fePut (sramBase x.target + off) v
      else { s with atomics := s.atomics.map (fun r =>
        if r.agent = x.issuer ∧ !r.dropped then { r with done := r.done.map (fun d => { d with gone := true }) } else r) }
  match x.bar with
  | some n => s1.mapCore x.target (fun c => c.setBar n (c.bar n).arrive)
  | none => s1

/-- REDUCTION_DELIVERY: the oldest delivery arrives. -/
def execReductionDelivery (s : State) : Host.Outcome State Fault Refusal :=
  match s.deliveries with
  | [] => .next s
  | x :: t => .next (({ s with deliveries := t } : State).deliver x)

/-- Every delivery of a core's reduction arrives. -/
def State.deliverOwn (s : State) (a : Nat) : State :=
  (s.deliveries.filter (fun x => x.issuer == a)).foldl State.deliver
    { s with deliveries := s.deliveries.filter (fun x => x.issuer != a) }

/-! ### The instruction (R189, R197) -/

/-- A descriptor that R194 accepts. -/
def State.redirectOk (s : State) (d : Word) : Bool :=
  d == 0 ||
  ((d.getLsbD 63 || d.getLsbD 62) && fld d 53 9 == 0 && fld d 47 1 == 0 && fld d 22 18 == 0 && fld d 0 3 == 0 &&
    (!d.getLsbD 63 || sramAssigned (s.coreAt (dieOf s.cur * 128 + fld d 40 7)) (fld d 0 22)))

/-- Whether a leaf's stripe is marked for reduction (R199, 13 R280). -/
def State.inRedWindow (s : State) (va : Word) : Bool :=
  match s.leafFor (dieOf s.cur) (some s.cur) s.core.ctx va with
  | .ok h => pteTier h.leaf == 3 && (tget (Vector.replicate 8 0) (s.dieAt (dieOf s.cur)).stripes (fld h.leaf 12 8))[0].getLsbD 62
  | .error _ => false

/-- Whether the page of an atomic is an MMIO window, whatever it permits. -/
def State.amoMmio (s : State) (va : Word) : Bool :=
  match s.leafFor (dieOf s.cur) (some s.cur) s.core.ctx va with
  | .ok h => pteTier h.leaf != 3 && isMmio (ptePa h.leaf + fld va 0 (12 + 9 * h.level))
  | .error _ => false

/-- Where an atomic goes: aligned, through no view window, to no MMIO window; with whether it leaves the package, and whether it
lies in the reduction window. -/
def State.amoLocate (s : State) (va : Word) (z : Nat) : Except XFault (State × Nat × LineAttr × Bool × Bool) :=
  if va.toNat % z ≠ 0 then .error (.access va)
  else match s.withViews s.cur va with
    | .error f => .error f
    | .ok (s1, views) =>
      let row := rowOf s1.core.ctx views va.toNat
      match row with
      | .view _ => .error (.access va)
      | _ =>
        if row == .table && s1.amoMmio va then .error (.access va)
        else match s1.locate s1.cur .atomic va z with
        | .error f => .error f
        | .ok (s2, t) =>
          match t.cells with
          | [] => .error (.access va)
          | c :: _ =>
            if t.mmio then .error (.access va)
            else
              let red := row == .table && s2.inRedWindow va && !s2.inMotion (lineOf c.1)
              .ok (s2, c.1, c.2, red || c.2.cache == .peer, red)

/-- A reduction that a switch performs: its instruction has ended with its acceptance (R197). -/
def AtomicReq.accepted (r : AtomicReq) : Bool := r.window && amoReduces r.fn
/-- The core's own request for the present instruction. -/
def State.ownAtomic (s : State) : Option AtomicReq :=
  s.atomics.find? (fun r => r.agent == s.cur && !r.dropped && !r.accepted && r.pc == s.core.regs.pc && r.iword == s.ir)
def State.forgetAtomic (s : State) (r : AtomicReq) : State := { s with atomics := s.atomics.filter (fun x => x != r) }
/-- Requests of the core for other instructions, which nothing waits for any more; reductions accepted by the switches stay until
they are answered. -/
def State.dropOthers (s : State) : State :=
  let marked := s.atomics.map (fun r =>
    if r.agent = s.cur ∧ !r.accepted ∧ !(r.pc == s.core.regs.pc && r.iword == s.ir) then { r with dropped := true } else r)
  { s with atomics := marked.filter (fun r => !(r.dropped && r.done.isSome)) }

/-- The end of an atomic from what performing it gave (R197, R198; log entry 18). -/
def amoEnd (s : State) (fn : BitVec 7) (d : BitVec 5) (va : Word) (x : AtomicDone) : Res :=
  let t := s.endAlone
  let fin := fun (t : State) =>
    Res.done (t.me (fun c => (if amoReduces fn then c else c.writeS d (amoReturn fn x.old)).raiseFl x.flags))
  if x.gone then .late (.access va) t else t.orLate x.bad va fin

/-- Where an atomic goes when every check of R189 but the poison of its operands lets it: a nonzero descriptor that R194 does not
accept is refused. -/
def State.amoAccept (s : State) (fn : BitVec 7) (d : BitVec 5) (va : Word) : Except XFault (State × Nat × LineAttr × Bool × Bool) :=
  match s.amoLocate va (amoSize fn) with
  | .error f => .error f
  | .ok x =>
    let dv := s.core.readS d
    if amoReduces fn && (!s.redirectOk dv || (dv != 0 && x.2.2.2.2)) then .error (.access va) else .ok x

/-- LINK_DOWN for a request: it names the port that the request's address selects and the access, and the core when a switch was to
perform it (15 R325, R331; log entry 108). -/
def AtomicReq.linkDown (r : AtomicReq) (port : Nat) : Raise :=
  { Raise.bare 7 5 with agent := if r.window then some r.agent else none, port := some port, pc := r.pc, addr := r.va, detail := port, behalf := some r.agent }
/-- The port that an address selects among all sixteen. -/
def atfPortOf (pa : Nat) : Nat := Config.atfinHash pa % 16

/-- A request sent, behind the chunk's commit. A remote one needs a port to the fabric; without one, LINK_DOWN is raised
and the instruction ends with an access error: R198 says so of a returning member, and a reduction that no port accepts ends in the
same way (DESIGN CHOICE, log entry 108). -/
def amoSend (s : State) (fn : BitVec 7) (b d : BitVec 5) (va : Word) (k : State → AtomicReq → Res) : Res :=
  match s.amoAccept fn d va with
  | .error f => .fault f.asIssue
  | .ok (s1, pa, at', remote, window) =>
    let t := ((s1.settled.dropOthers).me (fun c => if !remote && ((if isSram pa then sramCore pa else homeOf pa) / 128 != dieOf s.cur) then c.count 0x13 1 else c))
    let r : AtomicReq :=
      { agent := s.cur, pc := s.core.regs.pc, iword := s.ir, addr := pa, attr := at', va := va, remote := remote, window := window, fn := fn,
        b := s.core.readS b, d := s.core.readS d, done := none, dropped := false }
    if remote then
      if !s1.pkg.fabricUp then .late (.linkDown va (r.linkDown (atfPortOf pa))) t
      else
        let u : State := { t.mapPkg (fun g => g.sendFlit pa) with atomics := t.atomics ++ [r] }
        if r.accepted then .done u.endAlone else k u r
    else k { t with atomics := t.atomics ++ [r] } r

/-- A request taken up again, or driven to its end at once: a local one is performed when the core's turn is not an
`issue`. -/
def amoDrive (s : State) (fn : BitVec 7) (d : BitVec 5) (va : Word) (r : AtomicReq) : Res :=
  let s1 := if r.remote || r.done.isSome || s.leave || s.amoHeld r then s
    else
      let x := s.amoPerform r
      { x.1 with atomics := x.1.atomics.map (fun y => if y = r then { y with done := some x.2 } else y) }
  let s2 := if s.leave then s1 else s1.deliverOwn s1.cur
  match s2.ownAtomic with
  | some q =>
    match q.done with
    | some x => if s2.deliveries.any (fun y => y.issuer == s2.cur) then .block .delivery s2 else amoEnd (s2.forgetAtomic q) fn d va x
    | none => .block .switch s2
  | none => .block .switch s2

/-- What a member reads and writes. -/
def amoPlan (fn : BitVec 7) (reads : Bool) (d a b : BitVec 5) (l : BitVec 4) : Plan :=
  fePlan ([sR a, sR b] ++ if reads then [sR d] else []) (if amoReduces fn then [] else [sR d]) l
/-- Whether a check of R189 fails, which comes before the poison of the operands. -/
def State.amoRefused (s : State) (fn : BitVec 7) (p : Plan) (d a : BitVec 5) : Bool :=
  !s.core.tokenBlocks p && s.ownAtomic.isNone && (match s.amoAccept fn d (s.core.readS a) with | .error .held => false | .error _ => true | .ok _ => false)
/-- A member of the group. -/
def amo (fn : BitVec 7) (reads : Bool) (d a b : BitVec 5) (l : BitVec 4) : State → Host.Outcome State Fault Refusal := fun s =>
  let p := amoPlan fn reads d a b l
  issue (p.unless (s.amoRefused fn p d a)) (fun s =>
    let va := s.core.readS a
    match s.ownAtomic with
    | some r => amoDrive s fn d va r
    | none => amoSend s fn b d va (fun t r => amoDrive t fn d va r)) s

/-- AMOSWAP. -/
def execAmoswap (d a b : BitVec 5) (l : BitVec 4) (s : State) : Host.Outcome State Fault Refusal := amo 0 false d a b l s
/-- AMOADD. -/
def execAmoadd (d a b : BitVec 5) (l : BitVec 4) (s : State) : Host.Outcome State Fault Refusal := amo 1 false d a b l s
/-- AMOAND. -/
def execAmoand (d a b : BitVec 5) (l : BitVec 4) (s : State) : Host.Outcome State Fault Refusal := amo 2 false d a b l s
/-- AMOOR. -/
def execAmoor (d a b : BitVec 5) (l : BitVec 4) (s : State) : Host.Outcome State Fault Refusal := amo 3 false d a b l s
/-- AMOXOR. -/
def execAmoxor (d a b : BitVec 5) (l : BitVec 4) (s : State) : Host.Outcome State Fault Refusal := amo 4 false d a b l s
/-- AMOMIN. -/
def execAmomin (d a b : BitVec 5) (l : BitVec 4) (s : State) : Host.Outcome State Fault Refusal := amo 5 false d a b l s
/-- AMOMAX. -/
def execAmomax (d a b : BitVec 5) (l : BitVec 4) (s : State) : Host.Outcome State Fault Refusal := amo 6 false d a b l s
/-- AMOMINU. -/
def execAmominu (d a b : BitVec 5) (l : BitVec 4) (s : State) : Host.Outcome State Fault Refusal := amo 7 false d a b l s
/-- AMOMAXU. -/
def execAmomaxu (d a b : BitVec 5) (l : BitVec 4) (s : State) : Host.Outcome State Fault Refusal := amo 8 false d a b l s
/-- AMOSWAP.I32. -/
def execAmoswapI32 (d a b : BitVec 5) (l : BitVec 4) (s : State) : Host.Outcome State Fault Refusal := amo 64 false d a b l s
/-- AMOADD.I32. -/
def execAmoaddI32 (d a b : BitVec 5) (l : BitVec 4) (s : State) : Host.Outcome State Fault Refusal := amo 65 false d a b l s
/-- AMOAND.I32. -/
def execAmoandI32 (d a b : BitVec 5) (l : BitVec 4) (s : State) : Host.Outcome State Fault Refusal := amo 66 false d a b l s
/-- AMOOR.I32. -/
def execAmoorI32 (d a b : BitVec 5) (l : BitVec 4) (s : State) : Host.Outcome State Fault Refusal := amo 67 false d a b l s
/-- AMOXOR.I32. -/
def execAmoxorI32 (d a b : BitVec 5) (l : BitVec 4) (s : State) : Host.Outcome State Fault Refusal := amo 68 false d a b l s
/-- AMOMIN.I32. -/
def execAmominI32 (d a b : BitVec 5) (l : BitVec 4) (s : State) : Host.Outcome State Fault Refusal := amo 69 false d a b l s
/-- AMOMAX.I32. -/
def execAmomaxI32 (d a b : BitVec 5) (l : BitVec 4) (s : State) : Host.Outcome State Fault Refusal := amo 70 false d a b l s
/-- AMOMINU.I32. -/
def execAmominuI32 (d a b : BitVec 5) (l : BitVec 4) (s : State) : Host.Outcome State Fault Refusal := amo 71 false d a b l s
/-- AMOMAXU.I32. -/
def execAmomaxuI32 (d a b : BitVec 5) (l : BitVec 4) (s : State) : Host.Outcome State Fault Refusal := amo 72 false d a b l s
/-- CAS. -/
def execCas (d a b : BitVec 5) (l : BitVec 4) (s : State) : Host.Outcome State Fault Refusal := amo 9 true d a b l s
/-- CASGT. -/
def execCasgt (d a b : BitVec 5) (l : BitVec 4) (s : State) : Host.Outcome State Fault Refusal := amo 10 true d a b l s
/-- CASVER. -/
def execCasver (d a b : BitVec 5) (l : BitVec 4) (s : State) : Host.Outcome State Fault Refusal := amo 11 true d a b l s
/-- CASTAG. -/
def execCastag (d a b : BitVec 5) (l : BitVec 4) (s : State) : Host.Outcome State Fault Refusal := amo 12 true d a b l s
/-- AMOFADD. -/
def execAmofadd (d a b : BitVec 5) (l : BitVec 4) (s : State) : Host.Outcome State Fault Refusal := amo 13 false d a b l s
/-- REDADD. -/
def execRedadd (d a b : BitVec 5) (l : BitVec 4) (s : State) : Host.Outcome State Fault Refusal := amo 14 true d a b l s
/-- REDMIN. -/
def execRedmin (d a b : BitVec 5) (l : BitVec 4) (s : State) : Host.Outcome State Fault Refusal := amo 15 true d a b l s
/-- REDMAX. -/
def execRedmax (d a b : BitVec 5) (l : BitVec 4) (s : State) : Host.Outcome State Fault Refusal := amo 16 true d a b l s
/-- REDFADD. -/
def execRedfadd (d a b : BitVec 5) (l : BitVec 4) (s : State) : Host.Outcome State Fault Refusal := amo 17 true d a b l s
/-- REDOR. -/
def execRedor (d a b : BitVec 5) (l : BitVec 4) (s : State) : Host.Outcome State Fault Refusal := amo 18 true d a b l s

end Sys2Proof.Machine
end

