-- ==== Sys2Proof/Machine/Drain.lean ====
section
/-! DEFINITION. The arithmetic of the anvil's drain: correction, exponent rows, checks, the result block and the retry
record (02_formats R41 to R45, 06_special_registers R134, 12_anvil_queue R257 to R261, 15_error_tables R339). -/

namespace Sys2Proof.Machine

/-! ### Rounding of exact quotients -/

/-- `n / d` to nearest, ties to even. -/
def rneDiv (n : Int) (d : Nat) : Int :=
  let q := n / (d : Int)
  let r := (n % (d : Int)).toNat
  if d < 2 * r ∨ (2 * r = d ∧ q % 2 = 1) then q + 1 else q
/-- The ceiling of `n / d`. -/
def ceilDiv (n d : Nat) : Nat := (n + d - 1) / d
/-- The ceiling of the square root. -/
def ceilSqrt (n : Nat) : Nat := let r := isqrt n 8 0; if r * r = n then r else r + 1

/-! ### Tolerances (R45) -/

/-- The least `t` below `2^n` that meets a condition which, once met, stays met. -/
def leastBelow (p : Nat → Bool) : Nat → Nat → Nat
  | 0, lo => lo
  | n + 1, lo => if p (lo + 2 ^ n - 1) then leastBelow p n lo else leastBelow p n (lo + 2 ^ n)
/-- `ceil(2^(13 − D/16) · r)`. -/
def autoTol (d r : Nat) : Nat :=
  if d ≤ 208 then leastBelow (fun t => r ^ 16 * 2 ^ (208 - d) ≤ t ^ 16) 20 0
  else leastBelow (fun t => r ^ 16 ≤ t ^ 16 * 2 ^ (d - 208)) 20 0
/-- The tolerance of a register for `n` terms under DEB field `d`. -/
def tolOf (reg : Word) (d n : Nat) : Nat :=
  if reg.getLsbD 24 then autoTol d (ceilSqrt n) else fld reg 0 16 + ceilDiv (fld reg 16 8 * ceilSqrt n) 16

/-! ### Mantissas (R39, R44, R258) -/

/-- The mantissa a byte drives: −128 as −127. -/
def driven (b : Byte) : Int := if b.toInt = -128 then -127 else b.toInt
/-- Vector `j` of a block, as driven. -/
def driveRow (block : List Byte) (j : Nat) : List Int := (block.drop (64 * j)).take 64 |>.map driven
/-- The sum of integers. -/
def sumI (l : List Int) : Int := l.foldl (· + ·) 0
/-- The check symbol. -/
def checkSymbol (rows : List (List Int)) : List Int :=
  tab (fun p => rneDiv (sumI (rows.map (fun r => nth 0 r p))) rows.length) 0 64

/-- A code corrected, and whether that sets SAT. -/
def correct (adc : BitVec 32) (code : BitVec 10) : Int × Bool :=
  let off := ((adc.truncate 16 : BitVec 16)).toInt
  let m := rneDiv ((64 * code.toInt - off) * Int.ofNat (fld adc 16 16)) (2 ^ 20)
  let k := clampI (-511) 511 m
  (k, code.toInt == -512 || code.toInt == 511 || k != m)

/-! ### Residuals (R44) -/

/-- A row residual: `m / 2^k`, or no finite number. -/
inductive Residual where
  | fin (m : Int) (k : Nat)
  | inf (neg : Bool)
  | nan
  deriving DecidableEq, Repr

/-- The row reference's sum in FP32. -/
def rowSum (c : List (BitVec 32)) (row : List Int) : Nat :=
  let prod := fun (x : BitVec 32 × Int) => (fmul fmtF32 0 x.1.toNat (intToF fmtF32 0 x.2).1).1
  match c.zip row with
  | [] => 0
  | x :: t => t.foldl (fun acc y => (fadd fmtF32 0 acc (prod y)).1) (prod x)
/-- The residual of a row: its reference less the sum of its outputs. -/
def residual (c : List (BitVec 32)) (row : List Int) (shift : Int) (outs : Int) : Residual :=
  match funpack fmtF32 (rowSum c row) with
  | .nan _ => .nan
  | .inf n => .inf n
  | .fin n m e =>
    let x : Int := if n then -(m : Int) else m
    let q := e + shift
    if 0 ≤ q then .fin (x * 2 ^ q.toNat - outs) 0 else .fin (x - outs * 2 ^ (-q).toNat) (-q).toNat
/-- Whether a residual exceeds a tolerance. -/
def Residual.exceeds (r : Residual) (tol : Nat) : Bool :=
  match r with | .fin m k => tol * 2 ^ k < m.natAbs | _ => true
/-- Whether one residual's magnitude is above another's. -/
def Residual.above (a b : Residual) : Bool :=
  match a, b with
  | .fin m k, .fin n j => n.natAbs * 2 ^ k < m.natAbs * 2 ^ j
  | .inf _, .fin _ _ => true
  | _, _ => false
/-- The first of the largest residuals, with its row. -/
def largest : List (Nat × Residual) → Option (Nat × Residual)
  | [] => none
  | x :: t => some (t.foldl (fun (b : Nat × Residual) y => if y.2.above b.2 then y else b) x)
/-- RMAX and RRES of a residual. -/
def Residual.words (r : Residual) : Nat × Int :=
  match r with
  | .fin m k => (min 0xFFFF (ceilDiv m.natAbs (2 ^ k)), clampI (-(2 ^ 31)) (2 ^ 31 - 1) (rneDiv (16 * m) (2 ^ k)))
  | .inf n => (0xFFFF, if n then -(2 ^ 31) else 2 ^ 31 - 1)
  | .nan => (0, 0)

/-! ### A pass drained (R260) -/

/-- What the drain finds. -/
structure Drained where
  rows    : List (List Int)
  sat     : Bool
  nanin   : Bool
  ey      : BitVec 8
  rowmask : Nat
  colmask : Nat
  ridx    : Nat
  rmax    : Nat
  rres    : Int
  cidx    : Nat
  cmax    : Nat
  cres    : Int
  tolRow  : Nat
  tolCol  : Nat
  deriving DecidableEq, Repr

/-- One element after injection (06 R134). -/
def injectAt (m : List (List Int)) (i j : Nat) (mag : Int) : List (List Int) × Bool :=
  match m[j]? with
  | none => (m, false)
  | some row =>
    let v := nth 0 row i + mag
    let k := clampI (-511) 511 v
    (setNth m j (setNth row i k), k != v)
/-- ANVINJ applied to the vectors' mantissas. -/
def inject (inj : Word) (m : List (List Int)) : List (List Int) × Bool :=
  if inj.getLsbD 63 then
    let mag := sxt 16 (fld inj 32 16)
    let a := injectAt m (fld inj 0 6) (fld inj 6 6) mag
    if fld inj 61 2 = 2 then
      let b := injectAt a.1 (fld inj 12 6) (fld inj 18 6) mag
      (b.1, a.2 || b.2)
    else a
  else (m, false)

/-- A mask from the indices of a list. -/
def maskOf (l : List Nat) : Nat := l.foldl (fun m i => m ||| 2 ^ i) 0

/-- The drain of a pass. `fresh` counts the free values. The checks of a NANIN pass are skipped (R42, R260); its header then holds 0 in
the summaries of rows and columns and the computed tolerances, which the rules leave open (DESIGN CHOICE, log entry 103). -/
def drainPass (x : PassResult) (fresh : Nat) : Drained :=
  let b := x.nvec
  let fixed := tab (fun j => tab (fun i => correct (nth 0 x.adc i) (nth 0 x.codes (64 * j + i))) 0 64) 0 (b + 1)
  let vals := fixed.map (fun r => r.map Prod.fst)
  let sat0 := fixed.any (fun r => r.any Prod.snd) || x.block.any (fun y => y.toInt == -128)
  let ij := inject x.inj (vals.take b)
  let m := ij.1
  let chk := nth [] vals b
  let ey := x.esum.map (fun e => e + Int.ofNat x.gain.toNat - 9)
  let nanin := ey.isNone
  let e := ey.getD 0
  let tolRow := tolOf x.tol x.deb.toNat 64
  let tolCol := tolOf x.tol x.deb.toNat b
  let drive := tab (driveRow x.block) 0 b
  let res := if nanin then [] else
    ((tab id 0 b).filter (fun j => !x.poisoned.contains j)).map (fun j =>
      (j, residual x.c.toList (nth [] drive j) (9 - Int.ofNat x.gain.toNat - x.ew.toInt) (sumI (nth [] m j))))
  let cols := if nanin || !x.poisoned.isEmpty then [] else
    tab (fun i => Int.ofNat b * nth 0 chk i - sumI (m.map (fun r => nth 0 r i))) 0 64
  let big := (tab id 0 64).foldl (fun k i => if (nth 0 cols k).natAbs < (nth 0 cols i).natAbs then i else k) 0
  let free := Config.nanSummary fresh
  let top := if res.any (fun r => r.2 == .nan) then (fld free 0 6, fld free 6 16, sxt 32 (fld free 22 32))
    else match largest res with
      | some r => (r.1, r.2.words.1, r.2.words.2)
      | none => (0, 0, 0)
  { rows :=
      if nanin then m.map (fun r => r.map (fun _ => 0))
      else if e < -127 then m.map (fun r => r.map (fun v => rneDiv v (2 ^ (-127 - e).toNat)))
      else m,
    sat := sat0 || ij.2 || (!nanin && decide (127 < e)),
    nanin := nanin,
    ey := if nanin || decide (127 < e) then 0x80 else if e < -127 then BitVec.ofInt 8 (-127) else BitVec.ofInt 8 e,
    rowmask := maskOf ((res.filter (fun r => r.2.exceeds tolRow)).map Prod.fst),
    colmask := maskOf ((tab id 0 64).filter (fun i => b * (tolCol + 1) < (nth 0 cols i).natAbs)),
    ridx := top.1, rmax := top.2.1, rres := top.2.2,
    cidx := big, cmax := min 0xFFFF (ceilDiv (16 * (nth 0 cols big).natAbs) b), cres := nth 0 cols big,
    tolRow := min 0xFFFF tolRow,
    tolCol := if x.poisoned.isEmpty then min 0xFFFF (tolCol + 1) else 0 }

/-- The four header words (R41). -/
def mrbHeader (x : PassResult) (d : Drained) (fclass : Nat) : List Word :=
  [wn (x.billet.toNat * 2 ^ 40 + x.nvec * 2 ^ 32 + fclass * 2 ^ 29 + b2n x.fast * 2 ^ 28 + x.gain.toNat * 2 ^ 24 +
      b2n (d.colmask != 0) * 2 ^ 22 + b2n (d.rowmask != 0) * 2 ^ 21 + b2n d.nanin * 2 ^ 20 + b2n x.stale * 2 ^ 19 +
      b2n x.quench * 2 ^ 18 + b2n d.sat * 2 ^ 17 + b2n (d.rowmask != 0 || d.colmask != 0) * 2 ^ 16 + x.deb.toNat * 256 +
      d.ey.toNat),
   wn (d.ridx * 2 ^ 48 + d.rmax * 2 ^ 32 + x.seq.toNat),
   wn (d.tolCol * 2 ^ 48 + d.tolRow * 2 ^ 32 + d.cidx * 65536 + d.cmax),
   0]
/-- The bytes of the header, and those of row `j`. -/
def headerBytes (x : PassResult) (d : Drained) (fclass : Nat) : List Byte := (mrbHeader x d fclass).flatMap (fun w => toBytes 8 w.toNat)
def rowBytes (d : Drained) (j : Nat) : List Byte := (nth [] d.rows j).flatMap (fun v => toBytes 2 (lowBits 16 v))

/-- AUX of a pass (R251), record aside. -/
def passAux (x : PassResult) (d : Drained) : Nat :=
  b2n (d.rowmask != 0 || d.colmask != 0) * 2 ^ 15 + b2n d.sat * 2 ^ 14 + b2n x.quench * 2 ^ 13 + b2n x.stale * 2 ^ 12 +
    b2n d.nanin * 2 ^ 11

end Sys2Proof.Machine
end

