-- ==== Sys2Proof/Machine/Optics.lean ====
section
/-! DEFINITION. What the codes of a billet mean: the rotation of an MZI, the arrangement of the stages, the represented
matrix, the outputs it gives, and the bounds that the rules put on what an anvil digitises and on what a swage engine
writes (02_formats R42 to R44, R50 to R52, R413). Angles and matrices are computed in 1/2^96 (log entry 104). -/

namespace Sys2Proof.Machine

/-! ### A choice the rules bound and leave open -/

/-- The least number below `n` that a condition accepts. -/
def firstBelow (p : Nat → Bool) : Nat → Option Nat
  | 0 => none
  | n + 1 => (firstBelow p n).orElse (fun _ => if p n then some n else none)
/-- A free choice below `n` that a rule bounds: the free value where it keeps the bound, else the first number that does;
where no number does, the free value. -/
def chosen (p : Nat → Bool) (n free : Nat) : Nat := if p free then free else (firstBelow p n).getD free

/-! ### MZIs and stages (R50, R51) -/

/-- 2π in units of 2^-96. -/
def fullTurn : Int := 497805226624462170461043889244
/-- Terms of the series of cosine and sine from the `k`th on, the `k`th being `t`. -/
def circleSeries (x : Int) : Nat → Nat → Int → Int × Int → Int × Int
  | 0, _, _, r => r
  | n + 1, k, t, r =>
    circleSeries x n (k + 1) (t * x / 2 ^ 96 / (k + 1 : Nat))
      (match k % 4 with | 0 => (r.1 + t, r.2) | 1 => (r.1, r.2 + t) | 2 => (r.1 - t, r.2) | _ => (r.1, r.2 - t))
/-- Cosine and sine of the phase that a θ code represents: code · 2π / 65536 (R50). -/
def cosSin (code : Nat) : Int × Int := circleSeries (code * fullTurn / 65536) 72 0 (2 ^ 96) (0, 0)

/-- An MZI on modes `m` and `m + 1` (R50). -/
def mzi (x : List Int) (m theta phi : Nat) : List Int :=
  let r := cosSin theta
  let u := (r.1 * nth 0 x m - r.2 * nth 0 x (m + 1)) / 2 ^ 96
  let v := (r.2 * nth 0 x m + r.1 * nth 0 x (m + 1)) / 2 ^ 96
  setNth (setNth x m (if phi = 0x8000 then -u else u)) (m + 1) v

/-- The first mode of each MZI of a stage, in index order: column by column, top to bottom (R51). -/
def stageModes : List Nat := (tab id 0 64).flatMap (fun c => tab (fun t => c % 2 + 2 * t) 0 (32 - c % 2))
/-- A stage applied to the modes: column 0 acts first (R51). -/
def stageApply (theta phi : Nat → Nat) (x : List Int) : List Int :=
  (stageModes.zip (tab id 0 2016)).foldl (fun x k => mzi x k.1 (theta k.2) (phi k.2)) x
/-- `S_U · diag(a) / 65535 · S_V` applied to the modes (R52); stage 0 is V and stage 1 is U. -/
def meshApply (att : Nat → Nat) (theta phi : Nat → Nat → Nat) (x : List Int) : List Int :=
  let v := stageApply (theta 0) (phi 0) x
  stageApply (theta 1) (phi 1) (tab (fun k => nth 0 v k * (att k : Nat) / 65535) 0 64)

/-- A number of `n` bytes at an offset of an image. -/
def imageField (image : Nat) (o n : Nat) : Nat := bits image (8 * o) (8 * n)
/-- The matrix Ŵ of a billet image applied to a vector, in units of 2^-96 (07 R167). -/
def billetApply (image : Nat) (x : List Int) : List Int :=
  meshApply (fun k => imageField image (0x40 + 2 * k) 2) (fun s k => imageField image (0x200 + 0x1000 * s + 2 * k) 2)
    (fun s k => imageField image (0x2200 + 0x1000 * s + 2 * k) 2) (x.map (fun v => v * 2 ^ 96))

/-! ### What a pass digitises (R42 to R44) -/

/-- The exact outputs of a vector in result LSBs, in units of 2^-96: the ADC maps Ŵ · m with the factor 2^(9 − G) (R42). -/
def idealOutputs (image gain : Nat) (x : List Int) : List Int := (billetApply image x).map (fun y => y * 2 ^ 9 / 2 ^ gain)
/-- The RMS bound of R43 on errors in units of 2^-96: `12 · Σ e² · 2^(D/8) ≤ n · 2^20`. -/
def promiseKept (deb : Nat) (errs : List Int) : Bool :=
  decide ((12 * sumI (errs.map (fun e => e * e))).toNat ^ 8 * 2 ^ deb ≤ (errs.length * 2 ^ 212) ^ 8)
/-- Code of output `i` of vector `j` in a packed list of codes. -/
def codeOfPass (n j i : Nat) : BitVec 10 := BitVec.ofNat 10 (bits n (10 * (64 * j + i)) 10)
/-- The code whose mantissa is nearest an exact output; with `never`, among those that do not clip. -/
def nearestCode (adc : BitVec 32) (never : Bool) (x : Int) : BitVec 10 :=
  let err := fun (k : BitVec 10) => ((correct adc k).1 * 2 ^ 96 - x).natAbs
  ((tab (BitVec.ofNat 10) 0 1024).filter (fun k => !never || !(correct adc k).2)).foldl (fun b k => if err k < err b then k else b) 0
/-- Gain code 10 never clips (R42), nor does a code above it. -/
def neverClips (gain : Nat) : Bool := decide (10 ≤ gain)
/-- The errors of a vector's outputs, without those that clip because their exact value lies beyond the converter. -/
def outputErrors (gain : Nat) (adc : List (BitVec 32)) (n j : Nat) (ideal : List Int) : List Int :=
  ((tab id 0 64).filter (fun i => !((correct (nth 0 adc i) (codeOfPass n j i)).2 &&
    (correct (nth 0 adc i) (nearestCode (nth 0 adc i) (neverClips gain) (nth 0 ideal i))).2))).map (fun i =>
      (correct (nth 0 adc i) (codeOfPass n j i)).1 * 2 ^ 96 - nth 0 ideal i)
/-- Whether vectors with these exact outputs may digitise to these codes: the promise of R43, and no clip at a gain code of
10 (R42; log entry 100). -/
def codesOk (gain : Nat) (adc : List (BitVec 32)) (deb : Nat) (ideals : List (List Int)) (n : Nat) : Bool :=
  promiseKept deb ((tab (fun j => outputErrors gain adc n j (nth [] ideals j)) 0 ideals.length).flatMap id) &&
  (!neverClips gain || (tab id 0 ideals.length).all (fun j => (tab id 0 64).all (fun i =>
    !(correct (nth 0 adc i) (codeOfPass n j i)).2)))
/-- The codes nearest the exact outputs, packed. -/
def nearestCodes (gain : Nat) (adc : List (BitVec 32)) (ideals : List (List Int)) : Nat :=
  ofDigits 10 ((ideals.flatMap (fun x => tab (fun i => nearestCode (nth 0 adc i) (neverClips gain) (nth 0 x i)) 0 64)).map BitVec.toNat)
/-- The codes that vectors with these exact outputs digitise to, packed: the free ones where they keep R42 and R43, else
the nearest or the first that do, and the nearest where none does. -/
def digitise (gain : Nat) (adc : List (BitVec 32)) (deb : Nat) (ideals : List (List Int)) (free : Nat) : Nat :=
  let ok := codesOk gain adc deb ideals
  chosen ok (2 ^ (640 * ideals.length)) (if ok free then free else nearestCodes gain adc ideals)
/-- The codes of a pass over `rows`, the mantissas as driven, from the codes that are free values: the vectors keep R43
together, and the check symbol, which R43 leaves out, does alone (log entry 100). -/
def passCodes (image gain deb : Nat) (adc : List (BitVec 32)) (rows : List (List Int)) (free : List (BitVec 10)) : List (BitVec 10) :=
  let pack := fun (l : List (BitVec 10)) => ofDigits 10 (l.map BitVec.toNat)
  let v := digitise gain adc deb (rows.map (idealOutputs image gain)) (pack (free.take (64 * rows.length)))
  let c := digitise gain adc deb [idealOutputs image gain (checkSymbol rows)] (pack (free.drop (64 * rows.length)))
  tab (codeOfPass v 0) 0 (64 * rows.length) ++ tab (codeOfPass c 0) 0 64

/-! ### Singular values (R52, R413) -/

/-- The sum of the products of two lists. -/
def dot (a b : List Int) : Int := sumI (List.zipWith (· * ·) a b)
/-- The columns of a matrix of 64 columns. -/
def columns (a : List (List Int)) : List (List Int) := tab (fun q => a.map (fun r => nth 0 r q)) 0 64
/-- The product of two square matrices. -/
def matMul (a b : List (List Int)) : List (List Int) :=
  let c := columns b
  a.map (fun r => c.map (dot r))
/-- A matrix with a multiple of the identity added. -/
def addDiag (a : List (List Int)) (c : Int) : List (List Int) :=
  tab (fun p => tab (fun q => nth 0 (nth [] a p) q + if p = q then c else 0) 0 64) 0 64
/-- The trace. -/
def trace (a : List (List Int)) : Int := sumI (tab (fun p => nth 0 (nth [] a p) p) 0 64)
/-- The coefficients of the characteristic polynomial of `b` behind the leading 1, by the method of Faddeev and
LeVerrier. -/
def leverrier (b : List (List Int)) : Nat → Nat → List (List Int) → List Int
  | 0, _, _ => []
  | n + 1, k, m =>
    let c := -(trace m) / (k : Nat)
    c :: leverrier b n (k + 1) (matMul b (addDiag m c))
/-- Changes of sign along a list of numbers that are not 0. -/
def signChanges : List Int → Nat
  | x :: y :: t => (if (x < 0) = (y < 0) then 0 else 1) + signChanges (y :: t)
  | _ => 0
/-- Zeros at the head of a list. -/
def leadingZeros : List Int → Nat
  | x :: t => if x = 0 then 1 + leadingZeros t else 0
  | [] => 0
/-- How many eigenvalues of a symmetric matrix lie above `n / d`, and how many equal it: all of them are real, so the rule
of signs counts them exactly. -/
def eigenAbove (g : List (List Int)) (n d : Nat) : Nat × Nat :=
  let b := addDiag (g.map (fun r => r.map (fun x => x * (d : Nat)))) (-(n : Int))
  let p := 1 :: leverrier b 64 1 b
  (signChanges (p.filter (fun x => x != 0)), leadingZeros p.reverse)
/-- The matrix `AᵀA`. -/
def gram (a : List (List Int)) : List (List Int) :=
  let c := columns a
  c.map (fun x => c.map (dot x))
/-- Whether the `k`th singular value, from the largest, is at least `n / d`. -/
def sigmaAtLeast (g : List (List Int)) (k n d : Nat) : Bool :=
  let x := eigenAbove g (n * n) (d * d)
  decide (k + 1 ≤ x.1 + x.2)

/-- A tile as whole numbers and the power of two they are multiples of. -/
structure ScaledTile where
  rows  : List (List Int)
  scale : Int
  deriving DecidableEq, Repr

/-- An element as a multiple of `2 ^ s`. -/
def scaledElem (s : Int) : FVal → Int
  | .fin n m e => (if n then -1 else 1) * ((m * 2 ^ (e - s).toNat : Nat) : Int)
  | _ => 0
/-- A tile of finite elements in row order. -/
def scaleTile (vs : List FVal) : ScaledTile :=
  let s := vs.foldl (fun (a : Int) v => match v with | .fin _ m e => if m ≠ 0 ∧ e < a then e else a | _ => a) 1024
  { rows := tab (fun r => tab (fun q => scaledElem s (nth (.fin false 0 0) vs (64 * r + q))) 0 64) 0 64, scale := s }
/-- `2 ^ e` in the units of a tile, as a quotient. -/
def ScaledTile.power (t : ScaledTile) (e : Int) : Nat × Nat :=
  if t.scale ≤ e then (2 ^ (e - t.scale).toNat, 1) else (1, 2 ^ (t.scale - e).toNat)

/-- An E_w that R52 gives to singular values known to one part in 2^50 (R413): σ_0 lies above half of it and not above it. -/
def ScaledTile.exponentOk (t : ScaledTile) (g : List (List Int)) (e : Int) : Bool :=
  let p := t.power e
  !sigmaAtLeast g 0 (p.1 * (2 ^ 50 + 1)) (p.2 * 2 ^ 50) && sigmaAtLeast g 0 (p.1 * (2 ^ 50 - 1)) (p.2 * 2 ^ 51)
/-- E_w: the engine's where R413 leaves it two values, else `ceil(log2 σ_0)`; `lo` is that of the largest element. -/
def ScaledTile.exponent (t : ScaledTile) (g : List (List Int)) (lo free : Int) : Int :=
  if t.exponentOk g free then free
  else
    ((tab (fun k => lo + (k : Nat)) 0 8).find? (fun e =>
      let p := t.power e
      (eigenAbove g (p.1 * p.1) (p.2 * p.2)).1 == 0)).getD lo
/-- Whether `a` is `rne(σ_k / 2^E_w · 65535)` for a singular value known to one part in 2^50 (R52, R413). -/
def ScaledTile.attenuatorOk (t : ScaledTile) (g : List (List Int)) (ew : Int) (k a : Nat) : Bool :=
  let p := t.power ew
  sigmaAtLeast g k (p.1 * (a * 2 ^ 34 - 2 ^ 33 - 1)) (p.2 * 65535 * 2 ^ 34) &&
  !sigmaAtLeast g k (p.1 * (a * 2 ^ 34 + 2 ^ 33 + 1)) (p.2 * 65535 * 2 ^ 34)
/-- Attenuator code `k`: the engine's at a rounding edge, else the rounded singular value. -/
def ScaledTile.attenuator (t : ScaledTile) (g : List (List Int)) (ew : Int) (k free : Nat) : Nat :=
  let p := t.power ew
  if t.attenuatorOk g ew k free then free
  else leastBelow (fun a => !sigmaAtLeast g k (p.1 * (2 * a + 1)) (p.2 * 2 * 65535)) 16 0

/-! ### Phases (R413) -/

/-- θ and φ codes of a packed choice: stage and MZI index. -/
def thetaOf (n s k : Nat) : Nat := bits n (16 * (2016 * s + k)) 16
def phiOf (n s k : Nat) : Nat := 0x8000 * bits n (64512 + 2016 * s + k) 1
/-- The choice that packs θ and φ codes. -/
def packPhases (theta : Nat → Nat → BitVec 16) (phi : Nat → Nat → Bool) : Nat :=
  let each := fun {α : Type} (f : Nat → Nat → α) => tab (f 0) 0 2016 ++ tab (f 1) 0 2016
  ofDigits 16 ((each theta).map BitVec.toNat) + 2 ^ 64512 * ofDigits 1 ((each phi).map b2n)
/-- Whether every element of the represented matrix lies within 2^(E_w − 10) of the tile's (R413). -/
def ScaledTile.phasesOk (t : ScaledTile) (ew : Int) (att : List Nat) (n : Nat) : Bool :=
  (tab id 0 64).all (fun p =>
    let y := meshApply (nth 0 att) (thetaOf n) (phiOf n) (tab (fun k => if k = p then 2 ^ 96 else 0) 0 64)
    (tab id 0 64).all (fun i =>
      let w := nth 0 (nth [] t.rows i) p
      let x := if ew ≤ t.scale + 96 then w * 2 ^ (t.scale + 96 - ew).toNat else w / 2 ^ (ew - t.scale - 96).toNat
      decide ((nth 0 y i - x).natAbs ≤ 2 ^ 86)))
/-- The phases of a billet: the engine's choice among those that keep R413's bound. -/
def ScaledTile.phases (t : ScaledTile) (ew : Int) (att : List Nat) (free : Nat) : Nat :=
  chosen (t.phasesOk ew att) (2 ^ 68544) free

end Sys2Proof.Machine
end

