-- ==== Sys2Proof/Machine/Anvil.lean ====
section
/-! DEFINITION. The anvil of a forge: its commands, passes and drains, probe sets and batch boundaries
(12_anvil_queue R242 to R264, 06_special_registers R136). -/

namespace Sys2Proof.Machine

/-! ### The execution list -/

/-- The first command of the execution list that has not begun, with those before it. -/
def splitStarted : List AnvilCmd → Option (List AnvilCmd × AnvilCmd × List AnvilCmd)
  | [] => none
  | x :: t =>
    if x.stage = .started then some ([], x, t)
    else match splitStarted t with
      | some (a, y, b) => some (x :: a, y, b)
      | none => none

/-- The next command of a forge to execute, when it is of opcode `op`: what stands before it, itself, and what stands
behind it. -/
def State.nextExec (s : State) (f op : Nat) : Option (List AnvilCmd × AnvilCmd × List AnvilCmd) :=
  match splitStarted (s.forgeAt f).execs with
  | some (a, x, b) => if f < 64 ∧ tcwOp x.cmd.tcw = op then some (a, x, b) else none
  | none => none

/-- The banks exchanged (R248). -/
def Forge.swapBanks (g : Forge) : Forge := { g with active := g.shadow, shadow := g.active }
/-- A bank holds a billet. -/
def Bank.holds (b : Bank) (id : BitVec 16) : Bool := b.valid && b.id == id

/-! ### MAPPLY and MCOLSUM up to symbol 0 (R243, R245, R246) -/

/-- The A block of a pass as the feed reads it, and the vectors that hold a poisoned word. -/
def State.feed (s : State) (k : Cmd) : List Byte × NatSet :=
  if tcwOp k.tcw = 2 then (List.replicate 64 127, [])
  else
    let base := sramBase k.core + passAoff k.tcw
    (memBytes s.mem base (64 * passB k.tcw),
     (tab id 0 (passB k.tcw)).filter (fun j => (tab (fun w => base + 64 * j + 8 * w) 0 8).any s.poison.contains))

/-- A pass command executed: found in a bank, with an implicit swap when it lies in the shadow bank, and staged; or ended
NOBILLET behind every earlier pass. It waits while the exchange condition or a transfer of its billet holds it (R242). -/
def State.stagePass (s : State) (f : Nat) (a : List AnvilCmd) (x : AnvilCmd) (b : List AnvilCmd) : State :=
  let g := s.forgeAt f
  let id := passBillet x.cmd.tcw
  let stage := fun (g : Forge) =>
    let d := s.feed x.cmd
    { g with execs := a ++ { x with stage := .staged, block := d.1, poisoned := d.2 } :: b }
  if g.active.holds id then s.mapForge f stage
  else if g.transfer.any (fun t => t.bank.id == id) then s
  else if g.shadow.holds id then
    if a.isEmpty && g.transfer.isNone then s.mapForge f (fun g => stage g.swapBanks) else s
  else if !a.isEmpty then s
  else (s.mapForge f (fun g => { g with execs := b })).anvilDrop x.cmd (codeOf stNobillet 0 0) 0

/-- MAPPLY. -/
def execMapply (f : Nat) (s : State) : Host.Outcome State Fault Refusal :=
  match s.nextExec f 1 with
  | some (a, x, b) => .next (s.stagePass f a x b)
  | none => .next s
/-- MCOLSUM. -/
def execMcolsum (f : Nat) (s : State) : Host.Outcome State Fault Refusal :=
  match s.nextExec f 2 with
  | some (a, x, b) => .next (s.stagePass f a x b)
  | none => .next s

/-! ### MLOADB, MSWAPB, MROTB, MPROBE (R247 to R250) -/

/-- A doubleword of an image. -/
def imageWord (l : List Byte) (o n : Nat) : Nat := ofBytes ((l.drop o).take n)
/-- An image that MLOADB accepts (07 R168). -/
def billetOk (l : List Byte) : Bool :=
  imageWord l 0 2 == 1 && imageWord l 2 1 != 0x80 &&
  (tab id 0 2016).all (fun k =>
    (imageWord l (0x2200 + 2 * k) 2 == 0 || imageWord l (0x2200 + 2 * k) 2 == 0x8000) &&
    (imageWord l (0x3200 + 2 * k) 2 == 0 || imageWord l (0x3200 + 2 * k) 2 == 0x8000))
/-- The bank that an image fills. -/
def bankOf (l : List Byte) (id : BitVec 16) (va : BitVec 48) (ctx : Ctx) : Bank :=
  { valid := true, id := id, ew := BitVec.ofNat 8 (imageWord l 2 1),
    c := Vector.ofFn (fun (q : Fin 64) => BitVec.ofNat 32 (imageWord l (0xC0 + 4 * q.val) 4)),
    image := BitVec.ofNat 147456 (ofBytes l), va := va, ctx := ctx }

/-- What reading an image gives: the bank, or the code the command ends with; none while the read must wait. -/
def State.readBillet (s : State) (k : Cmd) (id : BitVec 16) (va : Word) : Option (State × Bank × Word) :=
  let x := s.tableFor k va
  match x.1.engineRead x.2 va 18432 with
  | .error e => if e.held then none else some (x.1.engineWalk x.2 e, { Bank.invalid with id := id }, e.code)
  | .ok (t, l) =>
    if l.any Prod.snd then some (t, { Bank.invalid with id := id }, codeOf stPoisoned 0 0)
    else
      let bytes := l.map Prod.fst
      if billetOk bytes then some (t, bankOf bytes id (va.truncate 48) k.ctx, 0)
      else some (t, { Bank.invalid with id := id }, codeOf stBadop 0 0)

/-- An MPROBE whose set has not ended: a command that is no pass does not overlap it (R242, R264). -/
def Forge.probing (g : Forge) : Bool :=
  match g.probe with | .reference _ k => k.isSome | .update _ k _ _ => k.isSome | .none => false
/-- MLOADB, and the implicit reload: behind every earlier started command, with no transfer under way. Whether its billet is resident was
settled at its start (R247). -/
def execMloadb (f : Nat) (s : State) : Host.Outcome State Fault Refusal :=
  match s.nextExec f 3 with
  | some ([], x, b) =>
    let g := s.forgeAt f
    let w := loadOf g x.cmd.tcw
    if g.transfer.isSome || g.probing then .next s
    else
      match (s.mapForge f (fun g => { g with execs := b })).readBillet x.cmd w.1 w.2 with
      | none => .next s
      | some r => .next (r.1.mapForge f (fun g =>
        { g with shadow := { g.shadow with valid := false },
                 transfer := some { bank := r.2.1, cmd := if x.reload.isSome then none else some x.cmd, code := r.2.2, reload := x.reload } }))
  | _ => .next s

/-- SHADOW_TRANSFER_END: the bank becomes valid and is recorded, or stays invalid. AUX of a load that failed is 0 (DESIGN CHOICE, log
entry 115). -/
def execShadowTransferEnd (f : Nat) (s : State) : Host.Outcome State Fault Refusal :=
  let g := s.forgeAt f
  match g.transfer with
  | none => .next s
  | some t =>
    let s1 := s.mapForge f (fun g =>
      if t.code = 0 then
        ({ g with shadow := t.bank, transfer := none } : Forge).dirPut t.bank.id t.bank.va t.bank.ctx
      else
        let g1 : Forge := { g with shadow := Bank.invalid, transfer := none }
        match t.reload with
        | some e => if (g1.dirAt e).id = t.bank.id then g1.setDir e DirEntry.empty else g1
        | none => g1)
    .next (match t.cmd with
      | some k => s1.anvilEnd k t.code (if t.code = 0 then t.bank.id.toNat else 0)
      | none => s1)

/-- MSWAPB. -/
def execMswapb (f : Nat) (s : State) : Host.Outcome State Fault Refusal :=
  match s.nextExec f 4 with
  | some ([], x, b) =>
    if (s.forgeAt f).transfer.isSome || (s.forgeAt f).probing then .next s
    else
      let t := s.mapForge f (fun g => ({ g with execs := b } : Forge).swapBanks)
      let g := t.forgeAt f
      .next (t.anvilEnd x.cmd 0 (if g.active.valid then g.active.id.toNat else 0))
  | _ => .next s

/-- MROTB. -/
def execMrotb (f : Nat) (s : State) : Host.Outcome State Fault Refusal :=
  match s.nextExec f 5 with
  | some ([], x, b) =>
    let g := s.forgeAt f
    let swapin := (tcwWord x.cmd.tcw 0).getLsbD 32
    if g.transfer.isSome || g.probing then .next s
    else if !g.active.valid then .next ((s.mapForge f (fun g => { g with execs := b })).anvilEnd x.cmd (codeOf stBadop 0 0) 0)
    else if !(s.forgeAt (ringNext f)).shadowFree then .next s
    else
      let s1 := s.mapForge (ringNext f) (fun n => { n with transfer := some { bank := g.active, cmd := none, code := 0, reload := none } })
      let s2 := s1.mapForge f (fun g =>
        let g1 : Forge := { g with execs := b, active := Bank.invalid }
        if swapin then g1.swapBanks else g1)
      .next (s2.anvilEnd x.cmd 0 g.active.id.toNat)
  | _ => .next s

/-- MPROBE: a probe set begins at its place. -/
def execMprobe (f : Nat) (s : State) : Host.Outcome State Fault Refusal :=
  match s.nextExec f 6 with
  | some ([], x, b) =>
    let g := s.forgeAt f
    if g.probe ≠ .none ∨ g.transfer.isSome then .next s
    else if !g.active.valid then .next ((s.mapForge f (fun g => { g with execs := b })).anvilEnd x.cmd (codeOf stBadop 0 0) 0)
    else .next (s.mapForge f (fun g => { g with execs := b, probe := .reference g.fast (some x.cmd) }))
  | _ => .next s

/-! ### Passes (R257 to R262) -/

/-- The pending copies of trims and tables taken over, between passes (06 R127). -/
def Forge.applyPending (g : Forge) : Forge :=
  { g with trim := g.trimPend.foldl (fun t x => tset t x.1 x.2) g.trim, trimPend := [],
           adc := g.adcPend.foldl (fun t x => tset t x.1 x.2) g.adc, adcPend := [] }
/-- The ADC table of a forge. -/
def adcTable (f : Nat) (g : Forge) : List (BitVec 32) :=
  tab (fun i => match tfind g.adc i with | some e => e | none => Config.bootAdc f i) 0 64

/-- The trim code of an MZI of a forge: that of the boot calibration until a loop or a write has changed it (06 R127). -/
def trimCode (f : Nat) (g : Forge) (i : Nat) : BitVec 16 := match tfind g.trim i with | some t => t | none => Config.bootTrim f i

/-- A pass as symbol 0 latches it, with its digitised codes. -/
def passOf (s : State) (f : Nat) (x : AnvilCmd) : PassResult :=
  let g := s.forgeAt f
  let c := s.coreAt x.cmd.core
  let t := x.cmd.tcw
  let b := passB t
  let esum : Option Int :=
    if passKeep t then (if c.skx.toInt = -512 then none else some c.skx.toInt)
    else if passEa t = 0x80 then none
    else some ((passEa t).toInt + g.active.ew.toInt)
  { cmd := x.cmd, colsum := tcwOp t == 2, nvec := b, block := x.block, poisoned := x.poisoned,
    codes := passCodes g.active.image.toNat (passGain t).toNat g.debcur.toNat (adcTable f g) (tab (driveRow x.block) 0 b)
      (tab (fun i => Config.adcCode (s.fresh + i)) 0 (64 * (b + 1))), adc := adcTable f g,
    tol := (nth 0 g.tol.toList (passClass t)).zeroExtend 64, gain := passGain t, esum := esum, ew := g.active.ew,
    c := g.active.c, inj := if tcwOp t = 1 then c.anvinj else 0, deb := g.debcur, stale := g.stale, fast := g.fast,
    quench := g.qmode == 1 || g.hotQuench, billet := g.active.id, seq := g.seq + 1, written := 0 }

/-- ANVIL_PASS: the staged pass at the head runs; a stale forge first drives a probe set (R263). The command gives up its entry of the
execution list here, where its symbols begin; a transfer or a probe set does so at its own begin (DESIGN CHOICE, log entry 114). -/
def execAnvilPass (f : Nat) (s : State) : Host.Outcome State Fault Refusal :=
  let s0 := s.mapForge f Forge.applyPending
  let g := s0.forgeAt f
  match (s.forgeAt f).execs with
  | x :: rest =>
    if x.stage ≠ .staged ∨ 64 ≤ f ∨ (g.stale ∧ g.probe = .none) then .next s
    else
      let p := passOf s0 f x
      let a := x.cmd.core
      let warn := g.stale && !g.staleRaised
      let s1 := (s0.mapForge f (fun g =>
        { g with execs := rest, drains := g.drains ++ [p], seq := p.seq, fastact := p.fast, qact := p.quench,
                 qnch := if p.quench then satAdd g.qnch 1 else g.qnch, staleRaised := g.staleRaised || g.stale })).used (64 * (p.nvec + 1))
      let s2 := if p.inj.getLsbD 63 then s1.mapCore a (fun c => { c with anvinj := putBit c.anvinj 63 false }) else s1
      .next (if warn then
          s2.raise (f / 16) { Raise.bare 5 1 with agent := some a, forge := some f, pc := (s2.coreAt a).regs.pc }
        else s2)
  | [] => .next s

/-- The retry record of a mismatch (15 R339). -/
def recordOf (x : PassResult) (d : Drained) : RetryRecord :=
  let t := x.cmd.tcw
  #v[wn (3 * 2 ^ 62 + (x.nvec - 1) * 2 ^ 48 + (passEa t).toNat * 2 ^ 40 + passClass t * 2 ^ 37 + b2n (passKeep t) * 2 ^ 36 +
      (passGain t).toNat * 2 ^ 32 + (passBillet t).toNat * 65536 + tcwF t 3 0 16),
     wn d.rowmask, wn d.colmask, wn (passDoff t * 2 ^ 20 + passAoff t),
     wn (d.tolRow * 2 ^ 48 + d.tolCol * 2 ^ 32 + x.seq.toNat),
     wn (b2n x.quench * 2 ^ 17 + b2n d.sat * 65536 + x.deb.toNat * 256 + d.ey.toNat),
     wn (lowBits 32 d.rres * 2 ^ 32 + lowBits 32 d.cres),
     wn (d.ridx * 2 ^ 48 + d.cidx * 2 ^ 32 + tcwTag t * 65536)]

/-- The words of row `j` of a result block at `base`, and those of the header. -/
def rowWords (base j : Nat) : NatSet := tab (fun w => base + 32 + 128 * j + 8 * w) 0 16
def headerWords (base : Nat) : NatSet := tab (fun w => base + 8 * w) 0 4
/-- Words of a result block written by the drain: poisoned where it says so, and set full (R259). -/
def State.drainPut (s : State) (f at' : Nat) (l : List Byte) (poisoned full : NatSet) : State :=
  ((s.sramPut at' l).poisonUnits poisoned).tagFull (f / 16) full

/-- A pass whose rows are written ends: the header, the histogram and the retry record; its command ends, or its word waits. Under
action interrupt ABFT_MISMATCH freezes the core only once the command has ended (R261). AUX[7:4] is 0 without a record (DESIGN CHOICE,
log entry 115), and DETAIL of a mismatch that fills no record is 0 (DESIGN CHOICE, log entry 124). -/
def State.endPass (s : State) (f : Nat) (x : PassResult) (rest : List PassResult) : State :=
  let k := x.cmd
  let d := drainPass x s.fresh
  let base := sramBase k.core + passDoff k.tcw
  let all := headerWords base ++ (if k.unwound then (tab (rowWords base) 0 x.nvec).flatMap id else [])
  let failed := d.rowmask != 0 || d.colmask != 0
  let mismatch := failed && !k.unwound
  let s1 := (((if failed then s.mapCore k.core (fun c => c.count 0x10 1) else s).used 1).mapForge f (fun g =>
    { g with drains := rest,
             hist := Vector.ofFn (fun (i : Fin 32) =>
               if i.val = ((d.ey.toInt + 128) / 8).toNat then satAdd g.hist[i] 1 else g.hist[i]) }))
  let s2 := s1.drainPut f base (headerBytes x d (passClass k.tcw)) (if k.unwound then all else []) all
  let code := if x.poisoned.isEmpty then 0 else codeOf stPoisoned 0 0
  let fills := x.poisoned.isEmpty && !x.colsum
  let detail := if fills then (k.record.getD 0).toNat else 0
  let freeze := if mismatch && (s2.dieAt (f / 16)).action 3 1 == 2 && !s2.endsNow k code then some detail else none
  let s3 := match k.record with
    | some r =>
      if mismatch && fills then
        (s2.mapCore k.core (fun c => { c with records := c.records.set r.toNat (recordOf x d) r.isLt })).anvilFinish k code
          (passAux x d + 2 ^ 10 + r.toNat * 16) false freeze
      else s2.anvilFinish k code (passAux x d) true freeze
    | none => s2.anvilFinish k code (passAux x d) false freeze
  let r := s3.mismatchRaise k.core detail
  if !mismatch then s3 else if freeze.isSome then s3.logError (f / 16) r 2 false else s3.raise (f / 16) r

/-- PASS_DRAIN: the oldest pass's next row is written, and behind the last of them the pass ends (R259, 08 R181; log entry 97). -/
def execPassDrain (f : Nat) (s : State) : Host.Outcome State Fault Refusal :=
  match (s.forgeAt f).drains with
  | [] => .next s
  | x :: rest =>
    let base := sramBase x.cmd.core + passDoff x.cmd.tcw
    let j := x.written
    if j < x.nvec then
      let ws := rowWords base j
      .next ((s.mapForge f (fun g => { g with drains := { x with written := j + 1 } :: rest })).drainPut f (base + 32 + 128 * j)
        (rowBytes (drainPass x s.fresh) j) (if x.cmd.unwound || x.poisoned.contains j then ws else []) ws)
    else .next (s.endPass f x rest)

/-! ### Probe sets (R263, R264) -/

/-- A pass is staged and would drive its symbol 0 next. -/
def Forge.passStaged (g : Forge) : Bool := match g.execs with | x :: _ => x.stage == .staged | [] => false
/-- PROBE_SET: the anvil inserts a set between passes; a staged pass goes first unless the forge is stale (R268). -/
def execProbeSet (f : Nat) (s : State) : Host.Outcome State Fault Refusal :=
  let g := s.forgeAt f
  if f < 64 ∧ g.active.valid ∧ g.probe = .none ∧ (g.passStaged = false ∨ g.stale) then
    .next (s.mapForge f (fun g => { g with probe := .reference g.fast none }))
  else .next s

/-- The ENOB that a set measures: a free value up to 151/16 bits, the most for which whole mantissas can keep the promise of
R43 whatever the exact outputs (DESIGN CHOICE, log entry 100). -/
def measuredEnob (n : Nat) : BitVec 8 := if Config.probeEnob n ≤ 151 then Config.probeEnob n else 151
/-- PROBE_REFERENCE_END: ENOB and PHERR are known, both free values. -/
def execProbeReferenceEnd (f : Nat) (s : State) : Host.Outcome State Fault Refusal :=
  match (s.forgeAt f).probe with
  | .reference fast k =>
    .next ((s.mapForge f (fun g => { g with probe := .update fast k (measuredEnob s.fresh) (Config.probePherr s.fresh) })).used 1)
  | _ => .next s

/-- D of an ENOB (R264). -/
def debOf (enob : BitVec 8) : BitVec 8 := if enob < 4 then 0 else enob - 4

/-- DRIFT_EXCESS of a forge, which latches DRIFT (06 R133). -/
def State.raiseDrift (s : State) (f detail : Nat) : State :=
  (s.mapForge f (fun g => { g with driftCnt := satAdd g.driftCnt 1, drift := true })).raise (f / 16)
    { Raise.bare 4 1 with forge := some f, detail := detail }

/-- PROBE_UPDATE: the update of a set, at a pass boundary, all together. -/
def execProbeUpdate (f : Nat) (s : State) : Host.Outcome State Fault Refusal :=
  match (s.forgeAt f).probe with
  | .update fast k enob pherr =>
    let d := debOf enob
    let n := s.fresh
    let s1 := (s.mapForge f (fun g =>
      let g1 := g.applyPending
      { g1 with probe := .none, enob := enob, debcur := d, pherr := pherr, probeSeq := g1.probeSeq + 1, stale := false,
                staleRaised := false, probeCnt := satAdd g1.probeCnt 1,
                trim := if g1.tfrz then g1.trim else tab (fun i => (i, Config.temperTrim n i)) 0 4032,
                adc := if g1.afrz then g1.adc else tab (fun i => (i, Config.thresholdAdc n i)) 0 64 })).used 1
    let s2 := if (s.forgeAt f).driftLim < pherr then s1.raiseDrift f 0 else s1
    let s3 := if d.toNat < (if fast then 96 else 120) then (s2.mapForge f (fun g => { g with lowdeb := true })).raiseDrift f 1 else s2
    .next (match k with
      | some c => s3.anvilEnd c 0 (enob.toNat * 256 + d.toNat)
      | none => s3)
  | _ => .next s

/-- PROBE_STALE_TIMEOUT: PROBEIVL has passed with no completed set. -/
def execProbeStaleTimeout (f : Nat) (s : State) : Host.Outcome State Fault Refusal :=
  if f < 64 ∧ !(s.forgeAt f).stale then .next (s.mapForge f (fun g => { g with stale := true, staleRaised := false }))
  else .next s

/-! ### Batch boundaries (06 R136) -/

/-- The numbers of the commands of a forge whose drain is not finished, those that a save has taken along among them. -/
def State.undrained (s : State) (f : Nat) : NatSet :=
  let g := s.forgeAt f
  let queued := (tab (fun x => x) (8 * f) 8).flatMap (fun a => (s.coreAt a).q0)
  let probing := match g.probe with | .reference _ (some k) => [k] | .update _ (some k) _ _ => [k] | _ => []
  let moving := match g.transfer with | some t => t.cmd.toList | none => []
  let away := (tab (fun x => x) (8 * f) 8).flatMap (fun a =>
    ((s.coreAt a).wtt.toList.filter (fun e => e.state == .preempted)).flatMap (fun e => e.kept.flatMap Kept.cmds))
  ((queued ++ away ++ g.execs.map AnvilCmd.cmd ++ moving ++ g.drains.map PassResult.cmd ++ probing).map Cmd.id).foldl ninsert []

/-- BATCH_BOUNDARY: the oldest open boundary completes once its before set has drained. -/
def execBatchBoundary (f : Nat) (s : State) : Host.Outcome State Fault Refusal :=
  match (s.forgeAt f).bounds with
  | [] => .next s
  | b :: rest =>
    let live := s.undrained f
    if b.before.any live.contains then .next s
    else .next (s.mapForge f (fun g =>
      { g with bounds := rest, batchSeq := b.seq, cur := if g.pend then g.tgt else g.cur, pend := false }))

end Sys2Proof.Machine
end

