-- ==== Sys2Proof/Machine/BitField.lean ====
section
/-! DEFINITION. Bit fields and funnel shifts, majors 0x20 and 0x27 (04_scalar_registers R87, R88). -/

namespace Sys2Proof.Machine

/-- The length a len6 field names: 0 stands for 64. -/
def fieldLen (n : BitVec 6) : Nat := if n = 0 then 64 else n.toNat
/-- The amount min(x[6:0], 64). -/
def lenOf (x : Word) : Nat := min (fld x 0 7) 64
/-- The mask of `l` bits from bit `p` upwards, bits 63:0. -/
def fieldMask (p l : Nat) : Word := wn ((2 ^ l - 1) * 2 ^ p)
/-- The field of `l` bits from bit `p`; bits beyond 63 read 0. -/
def fieldGet (x : Word) (p l : Nat) : Word := wn (bits x.toNat p l)
/-- `x` with the field of `l` bits from bit `p` replaced by the low bits of `y`. -/
def fieldPut (x y : Word) (p l : Nat) : Word := (x &&& ~~~(fieldMask p l)) ||| (y <<< p &&& fieldMask p l)
/-- The 128 bits of a funnel shift, `x` high. -/
def funnel (x y : Word) : Nat := x.toNat * 2 ^ 64 + y.toNat

/-- The position x[5:0]. -/
def shiftBy (x : Word) : Nat := fld x 0 6

/-- BEXT (R87). -/
def execBext (d a : BitVec 5) (p n : BitVec 6) (s : State) : Host.Outcome State Fault Refusal :=
  opR d a (fun x => fieldGet x p.toNat (fieldLen n)) s

/-- BEXTS: bit L − 1 of the field is the sign (R87). -/
def execBexts (d a : BitVec 5) (p n : BitVec 6) (s : State) : Host.Outcome State Fault Refusal :=
  opR d a (fun x => wi (sxt (fieldLen n) (fieldGet x p.toNat (fieldLen n)).toNat)) s

/-- BINS: reads s[d] (R87). -/
def execBins (d a : BitVec 5) (p n : BitVec 6) (s : State) : Host.Outcome State Fault Refusal :=
  opS [sR a, sR d] d (fun c => fieldPut (c.readS d) (c.readS a) p.toNat (fieldLen n)) s

/-- FSHL: bits 127:64 after the shift to the left (R88). -/
def execFshl (d a b c : BitVec 5) (s : State) : Host.Outcome State Fault Refusal :=
  opS [sR a, sR b, sR c] d
    (fun x => wn (funnel (x.readS a) (x.readS b) * 2 ^ fld (x.readS c) 0 7 / 2 ^ 64)) s

/-- FSHR: bits 63:0 after the shift to the right (R88). -/
def execFshr (d a b c : BitVec 5) (s : State) : Host.Outcome State Fault Refusal :=
  opS [sR a, sR b, sR c] d
    (fun x => wn (funnel (x.readS a) (x.readS b) / 2 ^ fld (x.readS c) 0 7)) s

/-- BEXTV (R88). -/
def execBextv (d a b c : BitVec 5) (s : State) : Host.Outcome State Fault Refusal :=
  opS [sR a, sR b, sR c] d (fun x => fieldGet (x.readS a) (shiftBy (x.readS b)) (lenOf (x.readS c))) s

/-- BINSV: reads s[d] (R88). -/
def execBinsv (d a b c : BitVec 5) (s : State) : Host.Outcome State Fault Refusal :=
  opS [sR a, sR b, sR c, sR d] d
    (fun x => fieldPut (x.readS d) (x.readS a) (shiftBy (x.readS b)) (lenOf (x.readS c))) s

end Sys2Proof.Machine
end

