-- ==== Sys2Proof/Machine/Branch.lean ====
section
/-! DEFINITION. Branches and jumps, majors 0x0A to 0x11 (04_scalar_registers R89 to R92). -/

namespace Sys2Proof.Machine

/-- A conditional branch of one core; a taken branch to a non-canonical target is an access fault at itself (R91). What a
gang makes of the outcome is `State.gangIssued`. -/
def branch (a b : BitVec 5) (o : BitVec 16) (taken : Word → Word → Bool) : State → Host.Outcome State Fault Refusal :=
  issue { Plan.simple [sR a, sR b] [] with ahead := .branches } (fun s =>
    let pc := s.core.regs.pc
    if taken (s.core.readS a) (s.core.readS b) then
      if canonical (branchTo pc o) then .jump s (branchTo pc o) else .fault (.access (branchTo pc o))
    else .done s)

/-- BEQ (R89). -/
def execBeq (a b : BitVec 5) (o : BitVec 16) (s : State) : Host.Outcome State Fault Refusal :=
  branch a b o (fun x y => x == y) s

/-- BNE (R89). -/
def execBne (a b : BitVec 5) (o : BitVec 16) (s : State) : Host.Outcome State Fault Refusal :=
  branch a b o (fun x y => x != y) s

/-- BLT: signed (R89). -/
def execBlt (a b : BitVec 5) (o : BitVec 16) (s : State) : Host.Outcome State Fault Refusal :=
  branch a b o (fun x y => x.slt y) s

/-- BGE: signed (R89). -/
def execBge (a b : BitVec 5) (o : BitVec 16) (s : State) : Host.Outcome State Fault Refusal :=
  branch a b o (fun x y => !x.slt y) s

/-- BLTU: unsigned (R89). -/
def execBltu (a b : BitVec 5) (o : BitVec 16) (s : State) : Host.Outcome State Fault Refusal :=
  branch a b o (fun x y => x.ult y) s

/-- BGEU: unsigned (R89). -/
def execBgeu (a b : BitVec 5) (o : BitVec 16) (s : State) : Host.Outcome State Fault Refusal :=
  branch a b o (fun x y => !x.ult y) s

/-- JAL: links into s1 (R90). -/
def execJal (o : BitVec 26) (s : State) : Host.Outcome State Fault Refusal :=
  issue { Plan.simple [] [sR 1] with ahead := .branches } (fun s =>
    let pc := s.core.regs.pc
    if canonical (jumpTo pc o) then .jump (s.me (fun c => c.writeS 1 (pc + 4))) (jumpTo pc o)
    else .fault (.access (jumpTo pc o))) s

/-- JALR: the target is read before the link is written; a target that is no multiple of 4 or not canonical is an access
fault (R90). -/
def execJalr (d a : BitVec 5) (i : BitVec 16) (s : State) : Host.Outcome State Fault Refusal :=
  issue { Plan.simple [sR a] [sR d] with ahead := .branches } (fun s =>
    let t := s.core.readS a + sx16 i
    if fld t 0 2 = 0 && canonical t then .jump (s.me (fun c => c.writeS d (c.regs.pc + 4))) t
    else .fault (.access t)) s

end Sys2Proof.Machine
end

