-- ==== Sys2Proof/Machine/VecInt.lean ====
section
/-! DEFINITION. Vector integer arithmetic, majors 0x28 to 0x2A (05_vector_registers R103, R106). -/

namespace Sys2Proof.Machine

/-- A result of `w` bits without flags, from a signed number. -/
def wrapI (w : Nat) (x : Int) : FRes := quiet (lowBits w x)
def vAdd (w : Nat) (x y : Nat) : FRes := quiet ((x + y) % 2 ^ w)
def vSub (w : Nat) (x y : Nat) : FRes := wrapI w (Int.ofNat x - Int.ofNat y)
def vMul (w : Nat) (x y : Nat) : FRes := quiet (x * y % 2 ^ w)
def vMac (w : Nat) (x y z : Nat) : FRes := quiet ((z + x * y) % 2 ^ w)
/-- Signed minimum or maximum. -/
def vMinMax (w : Nat) (max : Bool) (x y : Nat) : FRes := quiet (if decide (sxt w x < sxt w y) != max then x else y)
/-- Unsigned minimum or maximum. -/
def vMinMaxU (max : Bool) (x y : Nat) : FRes := quiet (if decide (x < y) != max then x else y)
def vAbs (w : Nat) (x : Nat) : FRes := wrapI w (Int.ofNat (sxt w x).natAbs)
def vNeg (w : Nat) (x : Nat) : FRes := wrapI w (-(Int.ofNat x))
def vShl (w : Nat) (x n : Nat) : FRes := quiet (if w ≤ n then 0 else x * 2 ^ n % 2 ^ w)
def vShr (w : Nat) (x n : Nat) : FRes := quiet (if w ≤ n then 0 else x / 2 ^ n)
/-- An amount of `w` or more acts as w − 1. -/
def vSra (w : Nat) (x n : Nat) : FRes := wrapI w (sxt w x / 2 ^ (if w ≤ n then w - 1 else n))
/-- The comparisons: equal, signed less, unsigned less. -/
def vEq (x y : Nat) : Bool × FFl := (x == y, flNone)
def vLt (w : Nat) (x y : Nat) : Bool × FFl := (decide (sxt w x < sxt w y), flNone)
def vLtu (x y : Nat) : Bool × FFl := (decide (x < y), flNone)

/-- VADD.I32 (R103). -/
def execVaddI32 (d a b : BitVec 5) (p : BitVec 3) (l : BitVec 4) (s : State) : Host.Outcome State Fault Refusal :=
  opVV d a b p l 32 (fun _ => vAdd 32) s

/-- VSUB.I32 (R103). -/
def execVsubI32 (d a b : BitVec 5) (p : BitVec 3) (l : BitVec 4) (s : State) : Host.Outcome State Fault Refusal :=
  opVV d a b p l 32 (fun _ => vSub 32) s

/-- VMUL.I32 (R103). -/
def execVmulI32 (d a b : BitVec 5) (p : BitVec 3) (l : BitVec 4) (s : State) : Host.Outcome State Fault Refusal :=
  opVV d a b p l 32 (fun _ => vMul 32) s

/-- VMAC.I32: D + A · B (R103). -/
def execVmacI32 (d a b : BitVec 5) (p : BitVec 3) (l : BitVec 4) (s : State) : Host.Outcome State Fault Refusal :=
  opVVD d a b p l 32 (fun _ => vMac 32) s

/-- VMIN.I32 (R103). -/
def execVminI32 (d a b : BitVec 5) (p : BitVec 3) (l : BitVec 4) (s : State) : Host.Outcome State Fault Refusal :=
  opVV d a b p l 32 (fun _ => vMinMax 32 false) s

/-- VMAX.I32 (R103). -/
def execVmaxI32 (d a b : BitVec 5) (p : BitVec 3) (l : BitVec 4) (s : State) : Host.Outcome State Fault Refusal :=
  opVV d a b p l 32 (fun _ => vMinMax 32 true) s

/-- VMINU.I32 (R103). -/
def execVminuI32 (d a b : BitVec 5) (p : BitVec 3) (l : BitVec 4) (s : State) : Host.Outcome State Fault Refusal :=
  opVV d a b p l 32 (fun _ => vMinMaxU false) s

/-- VMAXU.I32 (R103). -/
def execVmaxuI32 (d a b : BitVec 5) (p : BitVec 3) (l : BitVec 4) (s : State) : Host.Outcome State Fault Refusal :=
  opVV d a b p l 32 (fun _ => vMinMaxU true) s

/-- VABS.I32 (R103). -/
def execVabsI32 (d a : BitVec 5) (p : BitVec 3) (l : BitVec 4) (s : State) : Host.Outcome State Fault Refusal :=
  opVU d a p l 32 (fun _ => vAbs 32) s

/-- VNEG.I32 (R103). -/
def execVnegI32 (d a : BitVec 5) (p : BitVec 3) (l : BitVec 4) (s : State) : Host.Outcome State Fault Refusal :=
  opVU d a p l 32 (fun _ => vNeg 32) s

/-- VSHL.I32 (R103). -/
def execVshlI32 (d a b : BitVec 5) (p : BitVec 3) (l : BitVec 4) (s : State) : Host.Outcome State Fault Refusal :=
  opVV d a b p l 32 (fun _ => vShl 32) s

/-- VSHR.I32 (R103). -/
def execVshrI32 (d a b : BitVec 5) (p : BitVec 3) (l : BitVec 4) (s : State) : Host.Outcome State Fault Refusal :=
  opVV d a b p l 32 (fun _ => vShr 32) s

/-- VSRA.I32 (R103). -/
def execVsraI32 (d a b : BitVec 5) (p : BitVec 3) (l : BitVec 4) (s : State) : Host.Outcome State Fault Refusal :=
  opVV d a b p l 32 (fun _ => vSra 32) s

/-- VCEQ.I32 (R106). -/
def execVceqI32 (d : BitVec 3) (a b : BitVec 5) (p : BitVec 3) (l : BitVec 4) (s : State) : Host.Outcome State Fault Refusal :=
  opVC d a b p l 32 (vEq) s

/-- VCLT.I32 (R106). -/
def execVcltI32 (d : BitVec 3) (a b : BitVec 5) (p : BitVec 3) (l : BitVec 4) (s : State) : Host.Outcome State Fault Refusal :=
  opVC d a b p l 32 (vLt 32) s

/-- VCLTU.I32 (R106). -/
def execVcltuI32 (d : BitVec 3) (a b : BitVec 5) (p : BitVec 3) (l : BitVec 4) (s : State) : Host.Outcome State Fault Refusal :=
  opVC d a b p l 32 (vLtu) s

/-- VADD.I16 (R103). -/
def execVaddI16 (d a b : BitVec 5) (p : BitVec 3) (l : BitVec 4) (s : State) : Host.Outcome State Fault Refusal :=
  opVV d a b p l 16 (fun _ => vAdd 16) s

/-- VSUB.I16 (R103). -/
def execVsubI16 (d a b : BitVec 5) (p : BitVec 3) (l : BitVec 4) (s : State) : Host.Outcome State Fault Refusal :=
  opVV d a b p l 16 (fun _ => vSub 16) s

/-- VMUL.I16 (R103). -/
def execVmulI16 (d a b : BitVec 5) (p : BitVec 3) (l : BitVec 4) (s : State) : Host.Outcome State Fault Refusal :=
  opVV d a b p l 16 (fun _ => vMul 16) s

/-- VMAC.I16: D + A · B (R103). -/
def execVmacI16 (d a b : BitVec 5) (p : BitVec 3) (l : BitVec 4) (s : State) : Host.Outcome State Fault Refusal :=
  opVVD d a b p l 16 (fun _ => vMac 16) s

/-- VMIN.I16 (R103). -/
def execVminI16 (d a b : BitVec 5) (p : BitVec 3) (l : BitVec 4) (s : State) : Host.Outcome State Fault Refusal :=
  opVV d a b p l 16 (fun _ => vMinMax 16 false) s

/-- VMAX.I16 (R103). -/
def execVmaxI16 (d a b : BitVec 5) (p : BitVec 3) (l : BitVec 4) (s : State) : Host.Outcome State Fault Refusal :=
  opVV d a b p l 16 (fun _ => vMinMax 16 true) s

/-- VMINU.I16 (R103). -/
def execVminuI16 (d a b : BitVec 5) (p : BitVec 3) (l : BitVec 4) (s : State) : Host.Outcome State Fault Refusal :=
  opVV d a b p l 16 (fun _ => vMinMaxU false) s

/-- VMAXU.I16 (R103). -/
def execVmaxuI16 (d a b : BitVec 5) (p : BitVec 3) (l : BitVec 4) (s : State) : Host.Outcome State Fault Refusal :=
  opVV d a b p l 16 (fun _ => vMinMaxU true) s

/-- VABS.I16 (R103). -/
def execVabsI16 (d a : BitVec 5) (p : BitVec 3) (l : BitVec 4) (s : State) : Host.Outcome State Fault Refusal :=
  opVU d a p l 16 (fun _ => vAbs 16) s

/-- VNEG.I16 (R103). -/
def execVnegI16 (d a : BitVec 5) (p : BitVec 3) (l : BitVec 4) (s : State) : Host.Outcome State Fault Refusal :=
  opVU d a p l 16 (fun _ => vNeg 16) s

/-- VSHL.I16 (R103). -/
def execVshlI16 (d a b : BitVec 5) (p : BitVec 3) (l : BitVec 4) (s : State) : Host.Outcome State Fault Refusal :=
  opVV d a b p l 16 (fun _ => vShl 16) s

/-- VSHR.I16 (R103). -/
def execVshrI16 (d a b : BitVec 5) (p : BitVec 3) (l : BitVec 4) (s : State) : Host.Outcome State Fault Refusal :=
  opVV d a b p l 16 (fun _ => vShr 16) s

/-- VSRA.I16 (R103). -/
def execVsraI16 (d a b : BitVec 5) (p : BitVec 3) (l : BitVec 4) (s : State) : Host.Outcome State Fault Refusal :=
  opVV d a b p l 16 (fun _ => vSra 16) s

/-- VCEQ.I16 (R106). -/
def execVceqI16 (d : BitVec 3) (a b : BitVec 5) (p : BitVec 3) (l : BitVec 4) (s : State) : Host.Outcome State Fault Refusal :=
  opVC d a b p l 16 (vEq) s

/-- VCLT.I16 (R106). -/
def execVcltI16 (d : BitVec 3) (a b : BitVec 5) (p : BitVec 3) (l : BitVec 4) (s : State) : Host.Outcome State Fault Refusal :=
  opVC d a b p l 16 (vLt 16) s

/-- VCLTU.I16 (R106). -/
def execVcltuI16 (d : BitVec 3) (a b : BitVec 5) (p : BitVec 3) (l : BitVec 4) (s : State) : Host.Outcome State Fault Refusal :=
  opVC d a b p l 16 (vLtu) s

/-- VADD.I8 (R103). -/
def execVaddI8 (d a b : BitVec 5) (p : BitVec 3) (l : BitVec 4) (s : State) : Host.Outcome State Fault Refusal :=
  opVV d a b p l 8 (fun _ => vAdd 8) s

/-- VSUB.I8 (R103). -/
def execVsubI8 (d a b : BitVec 5) (p : BitVec 3) (l : BitVec 4) (s : State) : Host.Outcome State Fault Refusal :=
  opVV d a b p l 8 (fun _ => vSub 8) s

/-- VMUL.I8 (R103). -/
def execVmulI8 (d a b : BitVec 5) (p : BitVec 3) (l : BitVec 4) (s : State) : Host.Outcome State Fault Refusal :=
  opVV d a b p l 8 (fun _ => vMul 8) s

/-- VMAC.I8: D + A · B (R103). -/
def execVmacI8 (d a b : BitVec 5) (p : BitVec 3) (l : BitVec 4) (s : State) : Host.Outcome State Fault Refusal :=
  opVVD d a b p l 8 (fun _ => vMac 8) s

/-- VMIN.I8 (R103). -/
def execVminI8 (d a b : BitVec 5) (p : BitVec 3) (l : BitVec 4) (s : State) : Host.Outcome State Fault Refusal :=
  opVV d a b p l 8 (fun _ => vMinMax 8 false) s

/-- VMAX.I8 (R103). -/
def execVmaxI8 (d a b : BitVec 5) (p : BitVec 3) (l : BitVec 4) (s : State) : Host.Outcome State Fault Refusal :=
  opVV d a b p l 8 (fun _ => vMinMax 8 true) s

/-- VMINU.I8 (R103). -/
def execVminuI8 (d a b : BitVec 5) (p : BitVec 3) (l : BitVec 4) (s : State) : Host.Outcome State Fault Refusal :=
  opVV d a b p l 8 (fun _ => vMinMaxU false) s

/-- VMAXU.I8 (R103). -/
def execVmaxuI8 (d a b : BitVec 5) (p : BitVec 3) (l : BitVec 4) (s : State) : Host.Outcome State Fault Refusal :=
  opVV d a b p l 8 (fun _ => vMinMaxU true) s

/-- VABS.I8 (R103). -/
def execVabsI8 (d a : BitVec 5) (p : BitVec 3) (l : BitVec 4) (s : State) : Host.Outcome State Fault Refusal :=
  opVU d a p l 8 (fun _ => vAbs 8) s

/-- VNEG.I8 (R103). -/
def execVnegI8 (d a : BitVec 5) (p : BitVec 3) (l : BitVec 4) (s : State) : Host.Outcome State Fault Refusal :=
  opVU d a p l 8 (fun _ => vNeg 8) s

/-- VSHL.I8 (R103). -/
def execVshlI8 (d a b : BitVec 5) (p : BitVec 3) (l : BitVec 4) (s : State) : Host.Outcome State Fault Refusal :=
  opVV d a b p l 8 (fun _ => vShl 8) s

/-- VSHR.I8 (R103). -/
def execVshrI8 (d a b : BitVec 5) (p : BitVec 3) (l : BitVec 4) (s : State) : Host.Outcome State Fault Refusal :=
  opVV d a b p l 8 (fun _ => vShr 8) s

/-- VSRA.I8 (R103). -/
def execVsraI8 (d a b : BitVec 5) (p : BitVec 3) (l : BitVec 4) (s : State) : Host.Outcome State Fault Refusal :=
  opVV d a b p l 8 (fun _ => vSra 8) s

/-- VCEQ.I8 (R106). -/
def execVceqI8 (d : BitVec 3) (a b : BitVec 5) (p : BitVec 3) (l : BitVec 4) (s : State) : Host.Outcome State Fault Refusal :=
  opVC d a b p l 8 (vEq) s

/-- VCLT.I8 (R106). -/
def execVcltI8 (d : BitVec 3) (a b : BitVec 5) (p : BitVec 3) (l : BitVec 4) (s : State) : Host.Outcome State Fault Refusal :=
  opVC d a b p l 8 (vLt 8) s

/-- VCLTU.I8 (R106). -/
def execVcltuI8 (d : BitVec 3) (a b : BitVec 5) (p : BitVec 3) (l : BitVec 4) (s : State) : Host.Outcome State Fault Refusal :=
  opVC d a b p l 8 (vLtu) s

end Sys2Proof.Machine
end

