-- ==== Sys2Proof/Machine/VecPerm.lean ====
section
/-! DEFINITION. Permutes and reductions, major 0x2F (05_vector_registers R109 to R112, 02_formats R49). -/

namespace Sys2Proof.Machine

/-! ### Permutes (R109, R110) -/

/-- A permute of bytes: `f c i` is what destination byte `i` becomes. -/
def opBytes (srcs : List RegName) (d : BitVec 5) (p : BitVec 3) (l : BitVec 4) (f : Core → Nat → Nat) :
    State → Host.Outcome State Fault Refusal := opV srcs d p l 8 (fun c k => quiet (f c k))

/-- VPERM: byte `vb.byte[i]` of v[a] (R109). -/
def execVperm (d a b : BitVec 5) (p : BitVec 3) (l : BitVec 4) (s : State) : Host.Outcome State Fault Refusal :=
  opBytes [vR a, vR b] d p l (fun c i => elem 8 (c.readV a) (elem 8 (c.readV b) i)) s
/-- VEXT: 256 bytes from byte s[b][8:0] of v[a + 1 mod 32] : v[a], zeros beyond (R109). -/
def execVext (d a b : BitVec 5) (p : BitVec 3) (l : BitVec 4) (s : State) : Host.Outcome State Fault Refusal :=
  opBytes [vR a, vR (a + 1), sR b] d p l (fun c i =>
    let n := fld (c.readS b) 0 9 + i
    if n < 256 then elem 8 (c.readV a) n else if n < 512 then elem 8 (c.readV (a + 1)) (n - 256) else 0) s
/-- VSLUP: bytes below min(s[b], 256) keep their value (R109). -/
def execVslup (d a b : BitVec 5) (p : BitVec 3) (l : BitVec 4) (s : State) : Host.Outcome State Fault Refusal :=
  issue (Plan.multi [vR a, sR b, pR p] [vR d] l) (fun s => .done (s.me (fun c =>
    let n := min (c.readS b).toNat 256
    let q := c.readP p
    let x := vtab 8 (fun i => if active q 8 i && n ≤ i then elem 8 (c.readV a) (i - n) else elem 8 (c.readV d) i)
    if n = 0 && q == BitVec.allOnes 256 then c.writeV d x else c.mergeV d x))) s
/-- VSLDN: zeros from byte 256 − min(s[b], 256) (R109). -/
def execVsldn (d a b : BitVec 5) (p : BitVec 3) (l : BitVec 4) (s : State) : Host.Outcome State Fault Refusal :=
  opBytes [vR a, sR b] d p l (fun c i =>
    let n := min (c.readS b).toNat 256
    if i + n < 256 then elem 8 (c.readV a) (i + n) else 0) s
/-- VBCAST: every element becomes element s[b] mod N of v[a] (R110). -/
def execVbcast (d a b : BitVec 5) (w : BitVec 3) (l : BitVec 4) (s : State) : Host.Outcome State Fault Refusal :=
  let n := widthW w.toNat
  opW [vR a, sR b] d l (fun _ => true)
    (fun c => (vtab n (fun _ => elem n (c.readV a) ((c.readS b).toNat % lanes n)), flNone)) s
/-- VINS: element s[b] mod N becomes element 0 of v[a] (R110). -/
def execVins (d a b : BitVec 5) (w : BitVec 3) (l : BitVec 4) (s : State) : Host.Outcome State Fault Refusal :=
  let n := widthW w.toNat
  opW [vR a, sR b] d l (fun _ => false)
    (fun c => (setElem n (c.readV d) ((c.readS b).toNat % lanes n) (elem n (c.readV a) 0), flNone)) s

/-! ### VIOTA and VCOMPR (R111) -/

/-- The elements of `w` bits that a predicate activates, in rising order. -/
def activeList (w : Nat) (q : PWord) : List Nat := (tab id 0 (lanes w)).filter (active q w)

/-- VIOTA: element k counts the active elements before it. -/
def execViota (d e : BitVec 5) (p : BitVec 3) (l : BitVec 4) (s : State) : Host.Outcome State Fault Refusal :=
  let w := widthE e.toNat
  opW [pR p] d l (fun _ => true)
    (fun c => (vtab w (fun k => ((activeList w (c.readP p)).filter (fun j => j < k)).length), flNone)) s
/-- VCOMPR: the active elements of v[a] packed from element 0 on. -/
def execVcompr (d a e : BitVec 5) (p : BitVec 3) (l : BitVec 4) (s : State) : Host.Outcome State Fault Refusal :=
  let w := widthE e.toNat
  opW [vR a, pR p] d l (fun c => (activeList w (c.readP p)).length == lanes w) (fun c =>
    let l := activeList w (c.readP p)
    (vtab w (fun k => if k < l.length then elem w (c.readV a) (nth 0 l k) else elem w (c.readV d) k), flNone)) s

/-! ### Reductions (R112) -/

/-- One level of the pairwise tree: adjacent results combined, the lower index first (02 R49). -/
def pairUp (f : Nat → Nat → FRes) : List Nat → List Nat × FFl
  | x :: y :: t => let r := f x y; let q := pairUp f t; (r.1 :: q.1, r.2 ||| q.2)
  | l => (l, flNone)
/-- The pairwise tree of `n` levels. -/
def treeFold (f : Nat → Nat → FRes) : Nat → List Nat → FRes
  | 0, l => (nth 0 l 0, flNone)
  | n + 1, l => let q := pairUp f l; let r := treeFold f n q.1; (r.1, r.2 ||| q.2)
/-- Levels of the tree over `n` elements, a power of two. -/
def treeLevels (w : Nat) : Nat := Nat.log2 (lanes w)

/-- The format of an element code 3 to 5. -/
def fmtE (e : Nat) : Fmt := match e with | 3 => fmtF32 | 4 => fmtBF16 | _ => fmtF16

/-- A reduction into element 0: the rest of v[d] stays. -/
def reduce (d a e : BitVec 5) (p : BitVec 3) (l : BitVec 4) (f : Core → List (Option Nat) → FRes) :
    State → Host.Outcome State Fault Refusal :=
  let w := widthE e.toNat
  opW [vR a, pR p] d l (fun _ => false) (fun c =>
    let xs := tab (fun k => if active (c.readP p) w k then some (elem w (c.readV a) k) else none) 0 (lanes w)
    let r := f c xs
    (setElem w (c.readV d) 0 r.1, r.2))

/-- VREDI: the sum, wrapping; inactive elements count as 0. -/
def execVredi (d a e : BitVec 5) (p : BitVec 3) (l : BitVec 4) (s : State) : Host.Outcome State Fault Refusal :=
  reduce d a e p l (fun _ xs => quiet (xs.foldl (fun n x => n + x.getD 0) 0)) s
/-- VREDF: the pairwise tree in FRM; inactive elements enter as −0. -/
def execVredf (d a e : BitVec 5) (p : BitVec 3) (l : BitVec 4) (s : State) : Host.Outcome State Fault Refusal :=
  let g := fmtE e.toNat
  reduce d a e p l
    (fun c xs => treeFold (fadd g c.regs.frm) (treeLevels (fmtWidth g)) (xs.map (fun x => x.getD (fmtSign g true)))) s

/-- The shared part of VREDMX and VREDMN: integers from the format's bound, floating point by the tree with NaN for an
inactive element. -/
def redMinMax (max : Bool) (e : Nat) (xs : List (Option Nat)) : FRes :=
  if e < 3 then
    let w := widthE e
    let start := if max then 2 ^ (w - 1) else 2 ^ (w - 1) - 1
    xs.foldl (fun r x => match x with | some y => vMinMax w max r.1 y | none => r) (quiet start)
  else
    let g := fmtE e
    treeFold (fminmax max g) (treeLevels (fmtWidth g)) (xs.map (fun x => x.getD (fmtNan g)))

/-- VREDMX. -/
def execVredmx (d a e : BitVec 5) (p : BitVec 3) (l : BitVec 4) (s : State) : Host.Outcome State Fault Refusal :=
  reduce d a e p l (fun _ => redMinMax true e.toNat) s
/-- VREDMN. -/
def execVredmn (d a e : BitVec 5) (p : BitVec 3) (l : BitVec 4) (s : State) : Host.Outcome State Fault Refusal :=
  reduce d a e p l (fun _ => redMinMax false e.toNat) s

end Sys2Proof.Machine
end

