-- ==== Sys2Proof/Machine/Check.lean ====
section
/-! DEFINITION. The checksum accumulators, major 0x26 (05_vector_registers R120, R121). -/

namespace Sys2Proof.Machine

/-- An instruction that changes k[d]. -/
def opK (srcs : List RegName) (d : BitVec 2) (l : BitVec 4) (f : Core → Word × FFl) :
    State → Host.Outcome State Fault Refusal :=
  issue (Plan.multi srcs [kR d] l) (fun s => .done (s.me (fun c => (c.writeK d (f c).1).raiseFl (f c).2)))

/-- A binary64 addition to an accumulator, RNE whatever FRM holds. -/
def ckAdd (k : Word × FFl) (x : Nat) : Word × FFl :=
  let r := fadd fmtF64 0 k.1.toNat x
  (wn r.1, k.2 ||| r.2)

/-- CKACC: k + s[a]. -/
def execCkacc (k : BitVec 2) (a : BitVec 5) (l : BitVec 4) (s : State) : Host.Outcome State Fault Refusal :=
  opK [sR a, kR k] k l (fun c => (c.readK k + c.readS a, flNone)) s
/-- CKACCX: rol(k, 1) ^ s[a]. -/
def execCkaccx (k : BitVec 2) (a : BitVec 5) (l : BitVec 4) (s : State) : Host.Outcome State Fault Refusal :=
  opK [sR a, kR k] k l (fun c => ((c.readK k).rotateLeft 1 ^^^ c.readS a, flNone)) s
/-- CKACCF: k + s[a] as binary64. -/
def execCkaccf (k : BitVec 2) (a : BitVec 5) (l : BitVec 4) (s : State) : Host.Outcome State Fault Refusal :=
  opK [sR a, kR k] k l (fun c => ckAdd (c.readK k, flNone) (c.readS a).toNat) s
/-- CKACCV: the elements of v[a] as integers, or each converted to binary64 and added in rising order. -/
def execCkaccv (k : BitVec 2) (a e : BitVec 5) (l : BitVec 4) (s : State) : Host.Outcome State Fault Refusal :=
  opK [vR a, kR k] k l (fun c =>
    let w := widthE e.toNat
    let xs := tab (elem w (c.readV a)) 0 (lanes w)
    if e.toNat < 3 then (wi (xs.foldl (fun n x => n + sxt w x) (Int.ofNat (c.readK k).toNat)), flNone)
    else xs.foldl (fun r x =>
      let y := fcvt (fmtE e.toNat) fmtF64 0 x
      let z := ckAdd r y.1
      (z.1, z.2 ||| y.2)) (c.readK k, flNone)) s
/-- CKCLR. -/
def execCkclr (k : BitVec 2) (s : State) : Host.Outcome State Fault Refusal :=
  issue (Plan.simple [] [kR k]) (fun s => .done (s.me (fun c => c.writeK k 0))) s
/-- CKRD. -/
def execCkrd (d : BitVec 5) (k : BitVec 2) (s : State) : Host.Outcome State Fault Refusal :=
  opS [kR k] d (fun c => c.readK k) s

/-- The comparison of CKCHK: whether it fails (R121). -/
def ckFails (k a b : Word) : Bool := decide (Int.ofNat b.toNat < Int.ofNat (k.toInt - a.toInt).natAbs)
/-- Whether the exact absolute difference of two finite data is at most a third datum. -/
def finNear (n1 : Bool) (m1 : Nat) (e1 : Int) (n2 : Bool) (m2 : Nat) (e2 : Int) (t : FVal) : Bool :=
  match finAdd 0 n1 m1 e1 (!n2) m2 e2 with
  | .fin _ m e => valCmp (.fin false m e) t ≤ 0
  | _ => false
/-- The comparison of CKCHKF on exact values: whether it fails, with its flags. An infinite difference is at most no
tolerance but +∞; the difference of like infinities is no number. -/
def ckFailsF (k a b : Word) : Bool × FFl :=
  let x := funpack fmtF64 k.toNat
  let y := funpack fmtF64 a.toNat
  let t := funpack fmtF64 b.toNat
  let ok := match x, y with
    | .nan _, _ | _, .nan _ => false
    | .inf n, .inf m => n != m && valCmp (.inf false) t ≤ 0
    | .inf _, _ | _, .inf _ => decide (valCmp (.inf false) t ≤ 0)
    | .fin n1 m1 e1, .fin n2 m2 e2 => finNear n1 m1 e1 n2 m2 e2 t
  (t.isNan || !ok, flSnan [x, y, t])

/-- A failing check raises CHECK_FAIL, source core, once the check has ended, with k in the packet's address: under
interrupt the core then freezes; the packet's PC names the check, and RESUME continues behind it (R121). -/
def ckRaise (s : State) (k : Word) : Res :=
  let a := s.cur
  .after s (fun t =>
    t.raise (dieOf a) { Raise.bare 9 0 with agent := some a, pc := s.core.regs.pc, addr := k })

/-- CKCHK. -/
def execCkchk (k : BitVec 2) (a b : BitVec 5) (l : BitVec 4) (s : State) : Host.Outcome State Fault Refusal :=
  issue (Plan.multi [kR k, sR a, sR b] [] l) (fun s =>
    let c := s.core
    if ckFails (c.readK k) (c.readS a) (c.readS b) then ckRaise s (c.readK k) else .done s) s
/-- CKCHKF: a signalling NaN raises NV. -/
def execCkchkf (k : BitVec 2) (a b : BitVec 5) (l : BitVec 4) (s : State) : Host.Outcome State Fault Refusal :=
  issue (Plan.multi [kR k, sR a, sR b] [] l) (fun s =>
    let c := s.core
    let r := ckFailsF (c.readK k) (c.readS a) (c.readS b)
    let t := s.me (fun c => c.raiseFl r.2)
    if r.1 then ckRaise t (c.readK k) else .done t) s

end Sys2Proof.Machine
end

