-- ==== Sys2Proof/Machine/VecQuant.lean ====
section
/-! DEFINITION. Quantisation and block floating point, major 0x31 (05_vector_registers R114 to R118, 02_formats R33 to
R40, 08_consistency R184). -/

namespace Sys2Proof.Machine

/-! ### Register pairs and codes (R114, R32) -/

/-- The even and the odd register of a pair. -/
def pairLo (a : BitVec 4) : BitVec 5 := a ++ (0 : BitVec 1)
def pairHi (a : BitVec 4) : BitVec 5 := a ++ (1 : BitVec 1)
/-- The 128 FP32 elements of a pair. -/
def Core.readPair (c : Core) (a : BitVec 4) : List Nat :=
  tab (elem 32 (c.readV (pairLo a))) 0 64 ++ tab (elem 32 (c.readV (pairHi a))) 0 64
/-- A pair written, with poison when a loaded byte was poisoned. -/
def Core.writePair (c : Core) (d : BitVec 4) (l : List Nat) (poison : Bool) : Core :=
  let x := ofElems 32 (l.take 64)
  let y := ofElems 32 (l.drop 64)
  if poison then (c.poisonV (pairLo d) x).poisonV (pairHi d) y else (c.writeV (pairLo d) x).writeV (pairHi d) y
/-- Code bytes of the 128 elements. -/
def packCodes (w : Nat) (l : List Nat) : List Byte := toBytes (16 * w) (ofDigits w l)
/-- Element codes of code bytes. -/
def unpackCodes (w : Nat) (l : List Byte) : List Nat := tab (fun k => bits (ofBytes l) (w * k) w) 0 128
/-- Consecutive runs of `n` elements; `k` of them. -/
def runs {α : Type} (n : Nat) : Nat → List α → List (List α)
  | 0, _ => []
  | k + 1, l => l.take n :: runs n k (l.drop n)

/-- The two addresses checked (R114): the code address to its length, the parameter address to 16 bytes. -/
def pairAligned (c p : Word) (n : Nat) : Option Word :=
  if c.toNat % n ≠ 0 then some c else if p.toNat % 16 ≠ 0 then some p else none

/-- A scaled-group store: codes at C and `m` parameter bytes at P. -/
def groupStore (s : State) (c p : Word) (codes params : List Byte) (k : State → Res) : Res :=
  match pairAligned c p codes.length with
  | some va => .fault (.access va)
  | none => s.storesGroup [(c, codes), (p, params)] k

/-- A scaled-group load. -/
def groupLoad (s : State) (c p : Word) (n m : Nat) (k : State → List Byte → List Byte → Bool → Res) : Res :=
  match pairAligned c p n with
  | some va => .fault (.access va)
  | none => s.loadsGroup [(c, n), (p, m)] (fun t l =>
      match l with
      | [x, y] => k t x.1 y.1 (x.2 || y.2)
      | _ => .held t)

/-! ### Asymmetric groups (R115) -/

/-- Bits of a code, elements of a group and groups of type code T. -/
def asymBits (t : Nat) : Nat := if t < 3 then 8 else 4
def asymSize (t : Nat) : Nat := 32 * 2 ^ (t % 3)
def asymGroups (t : Nat) : Nat := 128 / asymSize t

/-- The codes, the parameter bytes and the flags of 128 elements quantised by R37. -/
def asymPack (t : Nat) (xs : List Nat) : List Byte × List Byte × FFl :=
  let gs := (runs (asymSize t) (asymGroups t) xs).map (asymQuant (2 ^ asymBits t - 1))
  (packCodes (asymBits t) (gs.flatMap (fun g => g.2.2.1)), gs.flatMap (fun g => toBytes 4 (g.1 + g.2.1 * 65536)),
    gs.foldl (fun f g => f ||| g.2.2.2) flNone)
/-- The 128 elements read back by R38, rounded to FP32. -/
def asymUnpack (t : Nat) (rm : BitVec 2) (codes params : List Byte) : List FRes :=
  let w := asymBits t
  ((runs (asymSize t) (asymGroups t) (unpackCodes w codes)).zip (runs 4 (asymGroups t) params)).flatMap (fun g =>
    let r := ofBytes g.2
    g.1.map (asymDequant fmtF32 rm (bits r 0 16) (bits r 16 w)))

/-- VQGRP (R115). -/
def execVqgrp (d : BitVec 5) (a : BitVec 4) (b : BitVec 5) (t : BitVec 3) (l : BitVec 4) (s : State) :
    Host.Outcome State Fault Refusal :=
  issue (Plan.memory [sR d, vR (pairLo a), vR (pairHi a), sR b] [] l) (fun s =>
    let c := s.core
    let r := asymPack t.toNat (c.readPair a)
    groupStore s (c.readS d) (c.readS b) r.1 r.2.1 (fun t => .done (t.me (fun c => c.raiseFl r.2.2)))) s

/-- VDQGRP (R115). -/
def execVdqgrp (d : BitVec 4) (a b : BitVec 5) (t : BitVec 3) (l : BitVec 4) (s : State) :
    Host.Outcome State Fault Refusal :=
  issue (Plan.memory [sR a, sR b] [vR (pairLo d), vR (pairHi d)] l) (fun s =>
    let c := s.core
    groupLoad s (c.readS a) (c.readS b) (16 * asymBits t.toNat) (4 * asymGroups t.toNat) (fun s codes params bad =>
      let r := asymUnpack t.toNat c.regs.frm codes params
      .done (s.me (fun c => (c.writePair d (r.map Prod.fst) bad).raiseFl (flagsOf r))))) s

/-! ### MX blocks (R116) -/

/-- The codes, the four scales and the flags of 128 elements quantised by R34. -/
def mxPack (t : Nat) (xs : List Nat) : List Byte × List Byte × FFl :=
  let gs := (runs 32 4 (xs.map (funpack fmtF32))).map (mxQuant t)
  (packCodes (mxBits t) (gs.flatMap (fun g => g.2.1)), gs.map (fun g => BitVec.ofNat 8 g.1),
    gs.foldl (fun f g => f ||| g.2.2) flNone)
/-- The 128 elements read back by R35. -/
def mxUnpackAll (t : Nat) (rm : BitVec 2) (codes params : List Byte) : List FRes :=
  ((runs 32 4 (unpackCodes (mxBits t) codes)).zip params).flatMap (fun g => g.1.map (mxDequant t fmtF32 rm g.2.toNat))

/-- VQMX (R116). -/
def execVqmx (d : BitVec 5) (a : BitVec 4) (b : BitVec 5) (t : BitVec 3) (l : BitVec 4) (s : State) :
    Host.Outcome State Fault Refusal :=
  issue (Plan.memory [sR d, vR (pairLo a), vR (pairHi a), sR b] [] l) (fun s =>
    let c := s.core
    let r := mxPack t.toNat (c.readPair a)
    groupStore s (c.readS d) (c.readS b) r.1 r.2.1 (fun t => .done (t.me (fun c => c.raiseFl r.2.2)))) s

/-- VDQMX (R116). -/
def execVdqmx (d : BitVec 4) (a b : BitVec 5) (t : BitVec 3) (l : BitVec 4) (s : State) :
    Host.Outcome State Fault Refusal :=
  issue (Plan.memory [sR a, sR b] [vR (pairLo d), vR (pairHi d)] l) (fun s =>
    let c := s.core
    groupLoad s (c.readS a) (c.readS b) (16 * mxBits t.toNat) 4 (fun s codes params bad =>
      let r := mxUnpackAll t.toNat c.regs.frm codes params
      .done (s.me (fun c => (c.writePair d (r.map Prod.fst) bad).raiseFl (flagsOf r))))) s

/-! ### Anvil input blocks (R117) and accumulation (R118) -/

/-- The source format of a code F. -/
def srcFmt (f : Nat) : Fmt := match f with | 0 => fmtF32 | 1 => fmtBF16 | _ => fmtF16
/-- The elements of a vector in a format, as data. -/
def dataOf (g : Fmt) (v : VWord) : List FVal := tab (fun k => funpack g (elem (fmtWidth g) v k)) 0 (lanes (fmtWidth g))

/-- VBFPX: the running block exponent in element 0 of v[d], −128 once a NaN or an infinity was met (R117). -/
def execVbfpx (d a : BitVec 5) (f : BitVec 3) (l : BitVec 4) (s : State) : Host.Outcome State Fault Refusal :=
  opW [vR a, vR d] d l (fun _ => false) (fun c =>
    let vs := dataOf (srcFmt f.toNat) (c.readV a)
    let e := sxt 32 (elem 32 (c.readV d) 0)
    let bad := anyNonFinite vs
    let r := if e = -128 ∨ bad then -128 else
      if (maxLog2 vs).isNone then e else let x := bfpExponent vs; if e < x then x else e
    (setElem 32 (c.readV d) 0 (lowBits 32 r), if bad then flNV else flNone)) s

/-- VBFPN: the int8 mantissas for the block exponent in byte 0 of v[b] (R117). -/
def execVbfpn (d a b : BitVec 5) (f : BitVec 3) (l : BitVec 4) (s : State) : Host.Outcome State Fault Refusal :=
  opW [vR a, vR b] d l (fun _ => false) (fun c =>
    let vs := dataOf (srcFmt f.toNat) (c.readV a)
    let e := sxt 8 (elem 8 (c.readV b) 0)
    let rs := vs.map (fun v => if e = -128 then quiet 0 else let m := bfpMantissa e v; (lowBits 8 m.1, m.2))
    (vtab 8 (fun k => if k < rs.length then (nth (quiet 0) rs k).1 else elem 8 (c.readV d) k), flagsOf rs)) s

/-- VSCACC: m · 2^E · vb + vd, one rounding; E = −128 gives NaN and NV (R118). -/
def execVscacc (d a b : BitVec 5) (p : BitVec 3) (l : BitVec 4) (s : State) : Host.Outcome State Fault Refusal :=
  opVVD d a b p l 32 (fun rm x y z =>
    let m := sxt 16 x
    let e := sxt 8 (bits x 16 8)
    if e = -128 then (fmtNan fmtF32, flNV)
    else valFma fmtF32 rm (.fin (decide (m < 0)) m.natAbs e) (funpack fmtF32 y) (funpack fmtF32 z)) s

/-- VZPC: vd − va · vb, va a whole number, one rounding (R118). -/
def execVzpc (d a b : BitVec 5) (p : BitVec 3) (l : BitVec 4) (s : State) : Host.Outcome State Fault Refusal :=
  opVVD d a b p l 32 (fun rm x y z =>
    let m := sxt 32 x
    valFma fmtF32 rm (.fin (!decide (m < 0)) m.natAbs 0) (funpack fmtF32 y) (funpack fmtF32 z)) s

end Sys2Proof.Machine
end

