-- ==== Sys2Proof/Machine/Tongs.lean ====
section
/-! DEFINITION. The tongs engine (11_engine_queues R227 to R230): element formats, conversions, and the data effect of each
command in its slot. -/

namespace Sys2Proof.Machine

/-! ### Element formats (03 R64, 11 R227) -/

/-- Bits of an element. -/
def fmtBits (f : Nat) : Nat :=
  match f with
  | 0x01 => 64
  | 0x02 | 0x08 => 32
  | 0x03 | 0x04 | 0x09 => 16
  | 0x0B | 0x0D | 0x12 | 0x1C | 0x1D | 0x1E => 4
  | _ => 8
/-- The floating-point format of a code. -/
def fpOf (f : Nat) : Option Fmt :=
  match f with
  | 0x01 => some fmtF64
  | 0x02 => some fmtF32
  | 0x03 => some fmtF16
  | 0x04 => some fmtBF16
  | 0x05 => some fmtE4M3
  | 0x06 => some fmtE5M2
  | _ => none
/-- Whether an integer format is unsigned, and the value of its code. -/
def intUnsigned (f : Nat) : Bool := f == 0x0C || f == 0x0D
def intVal (f x : Nat) : Int := if intUnsigned f then Int.ofNat x else sxt (fmtBits f) x
/-- The bounds of an integer format. -/
def intLo (f : Nat) : Int := if intUnsigned f then 0 else -(2 ^ (fmtBits f - 1))
def intHi (f : Nat) : Int := if intUnsigned f then 2 ^ fmtBits f - 1 else 2 ^ (fmtBits f - 1) - 1
/-- An FP8 format. -/
def isFp8 (f : Nat) : Bool := f == 0x05 || f == 0x06

/-- One element converted from format `fa` to format `fb` (R228). -/
def convElem (fa fb : Nat) (rm : BitVec 2) (sat : Bool) (x : Nat) : FRes :=
  if fa = fb then quiet x
  else match fpOf fa, fpOf fb with
    | some a, some b => if sat && isFp8 fb then fcvtSat a b rm x else fcvt a b rm x
    | some a, none => let r := fToInt a rm (intLo fb) (intHi fb) x; (lowBits (fmtBits fb) r.1, r.2)
    | none, some b =>
      if sat && isFp8 fb then fcvtSat fmtF64 b rm (intToF fmtF64 0 (intVal fa x)).1 else intToF b rm (intVal fa x)
    | none, none =>
      let v := intVal fa x
      quiet (lowBits (fmtBits fb) (if sat && fmtBits fb < fmtBits fa then clampI (intLo fb) (intHi fb) v else v))

/-- A pair of element formats that R228's element rows accept. -/
def elemPair (fa fb : Nat) : Bool :=
  fmtElem fa && fmtElem fb && (fa == fb || (fmtFp fa || fmtInt fa) && (fmtFp fb || fmtInt fb))

/-! ### Elements of a range -/

/-- A value read, none when a byte of it is poisoned. -/
abbrev Elem := Option Nat

/-- The elements of `w` bits in some bytes. -/
def elemsOf (w : Nat) (n : Nat) (l : List (Byte × Bool)) : List Elem :=
  if w = 4 then
    (l.flatMap (fun x => if x.2 then [none, none] else [some (bits x.1.toNat 0 4), some (bits x.1.toNat 4 4)])).take n
  else (runs (w / 8) n l).map (fun b => if b.any Prod.snd then none else some (ofBytes (b.map Prod.fst)))

/-- The nibbles of elements two to a byte, over the bytes that were there. -/
def packNibbles : List Elem → List Byte → List (Option Byte)
  | [], _ => []
  | [x], o => [x.map (fun v => BitVec.ofNat 8 (setBits (nth 0 o 0).toNat 0 4 v))]
  | x :: y :: t, o =>
    (match x, y with
      | none, none => none
      | some v, none => some (BitVec.ofNat 8 (setBits (nth 0 o 0).toNat 0 4 v))
      | none, some v => some (BitVec.ofNat 8 (setBits (nth 0 o 0).toNat 4 4 v))
      | some v, some u => some (BitVec.ofNat 8 (v % 16 + u % 16 * 16))) :: packNibbles t (o.drop 1)
/-- The bytes that elements are written as. -/
def packElems (w : Nat) (l : List Elem) (old : List Byte) : List (Option Byte) :=
  if w = 4 then packNibbles l old
  else l.flatMap (fun x => match x with
    | some v => (toBytes (w / 8) v).map some
    | none => List.replicate (w / 8) none)

/-- How many bytes `n` elements of `w` bits take. -/
def sizeOf' (w n : Nat) : Nat := (w * n + 7) / 8

/-! ### The course of a command -/

/-- What a command has done so far: the state, its writes, which have still to land, the first error, whether poison was read, and
the flags. -/
structure Run where
  st     : State
  puts   : List Landing
  err    : Option EngineError
  poison : Bool
  flags  : BitVec 5
  /-- the view table as the command has read it -/
  views  : Option (List (Vector Word 4))
  deriving DecidableEq, Repr

/-- A command's beginning. -/
def Run.start (s : State) : Run := { st := s, puts := [], err := none, poison := false, flags := 0, views := none }
/-- A command stopped by an access that failed. -/
def Run.fails (r : Run) (c : Cmd) (e : EngineError) : Run := { r with st := r.st.engineWalk c e, err := some e }
/-- A command and its course at an access to a VA, the view table read when that is the first to need it. -/
def Run.table (r : Run) (c : Cmd) (va : Word) : Run × Cmd :=
  let x := r.st.tableFor { c with views := c.views.orElse (fun _ => r.views) } va
  ({ r with st := x.1, views := x.2.views }, x.2)
/-- The command waits: a home could not serve one of its accesses. -/
def Run.held (r : Run) : Bool := r.err.any EngineError.held

/-- A read: the elements go to `k`, unless the command has failed. -/
def Run.read (r0 : Run) (c0 : Cmd) (va : Word) (w n : Nat) (k : Run → List Elem → Run) : Run :=
  if r0.err.isSome then r0
  else
    let x := r0.table c0 va
    let r := x.1
    match r.st.engineRead x.2 va (sizeOf' w n) false r.puts with
    | .error e => r.fails x.2 e
    | .ok (s, l) => k { r with st := s, poison := r.poison || l.any Prod.snd } (elemsOf w n l)
/-- A write of elements; a nibble alone keeps its neighbour. -/
def Run.write (r0 : Run) (c0 : Cmd) (va : Word) (w : Nat) (l : List Elem) : Run :=
  if r0.err.isSome then r0
  else
    let x := r0.table c0 va
    let r := x.1
    let c := x.2
    let old := if w = 4 then
        (match r.st.engineRead c va (sizeOf' w l.length) false r.puts with | .ok (_, o) => o.map Prod.fst | .error _ => [])
      else []
    let x := r.st.engineWrite c va (packElems w l old)
    { r with st := (match x.2.1 with | some e => x.1.engineWalk c e | none => x.1), err := x.2.1, puts := r.puts ++ x.2.2 }
/-- The storage addresses of some writes. -/
def cellsOf (l : List Landing) : List Nat := l.flatMap (fun p => p.bytes.map Prod.fst)
/-- Words of FE memory that some writes touch set full behind them. -/
def Run.tagOf (r : Run) (l : List Landing) : Run :=
  { r with puts := r.puts ++ [{ bytes := [], units := [], attrs := [], tags := feWords (cellsOf l) }] }
/-- Words written so far set full. -/
def Run.tag (r : Run) : Run := r.tagOf r.puts
/-- An element run through a conversion that may raise flags. -/
def convAll (f : Nat → FRes) (l : List Elem) : List Elem × BitVec 5 :=
  let r := l.map (fun x => x.map f)
  (r.map (fun x => x.map Prod.fst), r.foldl (fun a x => match x with | some y => a ||| y.2 | none => a) 0)

/-- The completion code of a command's course: the flags of every element converted before an error stay (R220). -/
def Run.code (r : Run) : Word :=
  match r.err with
  | some e => codeOf e.status r.flags e.addr
  | none => codeOf (if r.poison then stPoisoned else stOk) r.flags 0
/-- The poison units that a command wrote. -/
def Run.units (r : Run) : NatSet := (cellsOf r.puts).foldl (fun u a => ninsert u (poisonUnit a)) []

/-! ### Operands (R227) -/

def tgSat (t : Tcw) : Bool := (tcwWord t 0).getLsbD 35
def tgTag (t : Tcw) : Bool := (tcwWord t 0).getLsbD 34
def tgRm (t : Tcw) : BitVec 2 := BitVec.ofNat 2 (tcw0 t 32 2)
def tgNlo (t : Tcw) : Nat := tcwF t 1 48 16
def tgHi (t : Tcw) : Nat := tcwF t 2 48 16
def tgSrc (t : Tcw) : Word := vaOf (tcwWord t 1)
def tgDst (t : Tcw) : Word := vaOf (tcwWord t 2)
def tgParam (t : Tcw) : Word := vaOf (tcwWord t 3)
/-- The count of a TCOPY. -/
def tgCount (t : Tcw) : Nat := tgHi t * 65536 + tgNlo t

/-- A kind of TCOPY (R228). -/
inductive CopyKind where
  | elems | toMx | fromMx | toAsym | fromAsym | toBlock | fromMrb
  deriving DecidableEq, Repr

/-- The row of R228 that a pair of codes meets. -/
def copyKind (fa fb : Nat) : Option CopyKind :=
  if fmtMx fb then (if fa = 0x02 then some .toMx else none)
  else if fmtMx fa then (if fb = 0x02 then some .fromMx else none)
  else if fmtAsym fb then (if fa = 0x02 then some .toAsym else none)
  else if fmtAsym fa then (if fb = 0x02 then some .fromAsym else none)
  else if fb = 0x20 then (if within fa 2 3 then some .toBlock else none)
  else if fa = 0x21 then (if fb = 0x02 then some .fromMrb else none)
  else if elemPair fa fb then some .elems
  else none

/-- Type code and group size of an asymmetric format (05 R115). -/
def asymType (f : Nat) : Nat := if f < 0x1C then f - 0x18 else f - 0x1C + 3

/-- Whether a TCOPY's operands suit its row, an MRB's header aside. -/
def copyOk (t : Tcw) (k : CopyKind) : Bool :=
  let n := tgCount t
  let fb := tcwFmtB t
  let needs := match k with | .elems | .fromMrb => false | _ => true
  tcw0 t 36 12 == 0 && n != 0 && (!needs || tcwF t 3 0 48 != 0) &&
  (match k with
    | .toBlock => tcwF t 3 48 10 == 0 && n % (64 * (tcwF t 3 58 6 + 1)) == 0
    | _ => tcwF t 3 48 16 == 0) &&
  (match k with
    | .toMx => n % 32 == 0
    | .toAsym => n % asymSize (asymType fb) == 0
    | _ => true)

/-! ### Groups -/

/-- Groups of `g` elements, the last possibly short. -/
def groupsOf {α : Type} (g : Nat) (l : List α) : List (List α) := runs g ((l.length + g - 1) / g) l
/-- The values of a group none of which is poisoned. -/
def whole (l : List Elem) : Option (List Nat) := l.foldr (fun x a => match x, a with | some v, some t => some (v :: t) | _, _ => none) (some [])

/-- Groups quantised: codes, parameters and flags; a group with a poisoned element is not written. -/
def quantGroups (g : Nat) (f : List Nat → List Nat × Nat × BitVec 5) (l : List Elem) : List Elem × List Elem × BitVec 5 :=
  let r := (groupsOf g l).map (fun x =>
    match whole x with
    | some v => let q := f v; (q.1.map some, some q.2.1, q.2.2)
    | none => (x.map (fun _ => none), none, (0 : BitVec 5)))
  (r.flatMap (fun x => x.1), r.map (fun x => x.2.1), r.foldl (fun a x => a ||| x.2.2) 0)
/-- Groups read back with their parameters. -/
def dequantGroups (g : Nat) (f : Nat → Nat → FRes) (codes params : List Elem) : List Elem × BitVec 5 :=
  let r := ((groupsOf g codes).zip params).flatMap (fun x => x.1.map (fun e =>
    match e, x.2 with
    | some v, some p => some (f p v)
    | _, _ => none))
  (r.map (fun x => x.map Prod.fst), r.foldl (fun a x => match x with | some y => a ||| y.2 | none => a) 0)

/-- The element of an MRB with result exponent and NANIN from its header (02 R42). -/
def mrbElem (rm : BitVec 2) (ey : Int) (nan : Bool) (m : Nat) : FRes :=
  let v := sxt 16 m
  if ey = -128 then
    (if nan then quiet (fmtNan fmtF32) else if v = 0 then quiet 0 else quiet (fmtInfS fmtF32 (decide (v < 0))))
  else fround fmtF32 rm (decide (v < 0)) v.natAbs ey

/-! ### Destinations in FE memory (R229) -/

/-- Whether every destination of a command with FETAG lies in FE memory. -/
def tagOk (s : State) (c : Cmd) (dsts : List (Word × Nat)) : Bool :=
  !tgTag c.tcw ||
  dsts.all (fun d =>
    match s.whereIs c .store (pieces d.2 d.1.toNat d.2) with
    | .ok l => l.all isSram
    | .error e => e.held || decide (lwb ≤ (canon (wn e.addr)).toNat))

/-- A command that ends BADOP before any write. -/
def Run.bad (s : State) : Run := { Run.start s with err := some { status := stBadop, addr := 0 } }

/-- The end of a command: its words tagged unless it failed. -/
def Run.finish (r : Run) (c : Cmd) : Run := if tgTag c.tcw && r.err.isNone then r.tag else r

/-- The bytes of two writes of one command as one, which land together. -/
def Landing.both (p q : Landing) : Landing :=
  { bytes := q.bytes.foldl (fun t x => tset t x.1 x.2) p.bytes, units := q.units.foldl ninsert p.units,
    attrs := q.attrs.foldl (fun t x => tset t x.1 x.2) p.attrs, tags := q.tags.foldl ninsert p.tags }
/-- Scaled groups of `g` codes of `w` bits, each with its parameter of `pw`: the bytes of a group are one write, and a group of which an
access fails is not written (08 R184, R218). -/
def Run.writeGroups (r : Run) (c : Cmd) (w g pw : Nat) (q : List Elem × List Elem × BitVec 5) : Run :=
  ((groupsOf g q.1).zip q.2.1 |>.foldl (fun (a : Run × Nat) x =>
    let b := ({ a.1 with puts := [] }.write c (tgDst c.tcw + wn (a.2 * g * w / 8)) w x.1).write c (tgParam c.tcw + wn (a.2 * pw / 8)) pw [x.2]
    let whole := match b.puts with | [] => [] | p :: t => if b.err.isSome then [] else [t.foldl Landing.both p]
    ({ b with puts := a.1.puts ++ whole }, a.2 + 1)) ({ r with flags := r.flags ||| q.2.2 }, 0)).1
/-- Scaled groups read, their codes and parameters from one state. -/
def Run.readGroups (r : Run) (c : Cmd) (w n pw g : Nat) (k : Run → List Elem → List Elem → Run) : Run :=
  let ranges := [(tgSrc c.tcw, sizeOf' w n), (tgParam c.tcw, sizeOf' pw ((n + g - 1) / g))]
  ({ r with st := r.st.gather c ranges }.read c (tgSrc c.tcw) w n (fun r l => r.read c (tgParam c.tcw) pw ((n + g - 1) / g) (fun r p => k r l p)))

/-! ### TCOPY -/

/-- TCOPY's data effect. -/
def runTcopy (s : State) (c : Cmd) : Run :=
  let t := c.tcw
  let fa := tcwFmtA t
  let fb := tcwFmtB t
  let n := tgCount t
  let rm := tgRm t
  match copyKind fa fb with
  | none => Run.bad s
  | some k =>
    if !copyOk t k || !tagOk s c [(tgDst t, sizeOf' (fmtBits fb) n)] then Run.bad s
    else
      let out := fun (r : Run) (w : Nat) (x : List Elem × BitVec 5) =>
        ({ r with flags := r.flags ||| x.2 }.write c (tgDst t) w x.1)
      let r0 := Run.start s
      let r := match k with
        | .elems => r0.read c (tgSrc t) (fmtBits fa) n (fun r l => out r (fmtBits fb) (convAll (convElem fa fb rm (tgSat t)) l))
        | .toMx => r0.read c (tgSrc t) 32 n (fun r l =>
            r.writeGroups c (fmtBits fb) 32 8
              (quantGroups 32 (fun v => let x := mxQuant (fb - 0x10) (v.map (funpack fmtF32)); (x.2.1, x.1, x.2.2)) l))
        | .fromMx => r0.readGroups c (fmtBits fa) n 8 32 (fun r l p => out r 32 (dequantGroups 32 (mxDequant (fa - 0x10) fmtF32 rm) l p))
        | .toAsym => r0.read c (tgSrc t) 32 n (fun r l =>
            r.writeGroups c (fmtBits fb) (asymSize (asymType fb)) 32 (quantGroups (asymSize (asymType fb)) (fun v =>
              let x := asymQuant (2 ^ fmtBits fb - 1) v; (x.2.2.1, x.1 + x.2.1 * 65536, x.2.2.2)) l))
        | .fromAsym => r0.readGroups c (fmtBits fa) n 32 (asymSize (asymType fa)) (fun r l p =>
            out r 32 (dequantGroups (asymSize (asymType fa)) (fun p v => asymDequant fmtF32 rm (bits p 0 16) (bits p 16 (fmtBits fa)) v) l p))
        | .toBlock => r0.read c (tgSrc t) (fmtBits fa) n (fun r l =>
            let g := (fpOf fa).getD fmtF32
            let q := quantGroups (64 * (tcwF t 3 58 6 + 1)) (fun v =>
              let vs := v.map (funpack g)
              if anyNonFinite vs then (v.map (fun _ => 0), 0x80, flNV)
              else
                let e := bfpExponent vs
                let m : List (Int × BitVec 5) := vs.map (bfpMantissa e)
                (m.map (fun (x : Int × BitVec 5) => lowBits 8 x.1), lowBits 8 e, m.foldl (fun a (x : Int × BitVec 5) => a ||| x.2) 0)) l
            (out r 8 (q.1, q.2.2)).write c (tgParam t) 8 q.2.1)
        | .fromMrb => r0.read c (tgSrc t) 64 4 (fun r h =>
            match h with
            | some w0 :: _ =>
              if n ≠ 64 * bits w0 32 7 ∨ bits w0 32 7 = 0 then Run.bad s
              else r.read c (tgSrc t + 32) 16 n (fun r l => out r 32 (convAll (mrbElem rm (sxt 8 (bits w0 0 8)) (bit w0 20)) l))
            | _ => { r with poison := true })
      r.finish c

/-! ### TCOPY2, TGATH and TSCAT (R229) -/

/-- One row converted. -/
def Run.row (r : Run) (c : Cmd) (src dst : Word) (n : Nat) : Run :=
  let t := c.tcw
  r.read c src (fmtBits (tcwFmtA t)) n (fun r l =>
    let x := convAll (convElem (tcwFmtA t) (tcwFmtB t) (tgRm t) (tgSat t)) l
    ({ r with flags := r.flags ||| x.2 }.write c dst (fmtBits (tcwFmtB t)) x.1))
/-- The operands that the commands by rows share. -/
def rowsOk (t : Tcw) : Bool := tcw0 t 36 12 == 0 && tgNlo t != 0 && tgHi t != 0 && elemPair (tcwFmtA t) (tcwFmtB t)

/-- TCOPY2's data effect. -/
def runTcopy2 (s : State) (c : Cmd) : Run :=
  let t := c.tcw
  let src := fun (i : Nat) => tgSrc t + wi (sxt 32 (tcwF t 3 0 32) * i)
  let dst := fun (i : Nat) => tgDst t + wi (sxt 32 (tcwF t 3 32 32) * i)
  let rows := tab id 0 (tgNlo t)
  if !rowsOk t || !tagOk s c (rows.map (fun i => (dst i, sizeOf' (fmtBits (tcwFmtB t)) (tgHi t)))) then Run.bad s
  else (rows.foldl (fun r i => r.row c (src i) (dst i) (tgHi t)) (Run.start s)).finish c

/-- TGATH and TSCAT share their operands: whole bytes to a row, the index array. -/
def indexOk (t : Tcw) : Bool :=
  rowsOk t && tcwF t 3 48 16 == 0 && tgHi t * fmtBits (tcwFmtA t) % 8 == 0 && tgHi t * fmtBits (tcwFmtB t) % 8 == 0
/-- The bytes of a row in the source and in the destination. -/
def rowIn (t : Tcw) : Nat := tgHi t * fmtBits (tcwFmtA t) / 8
def rowOut (t : Tcw) : Nat := tgHi t * fmtBits (tcwFmtB t) / 8

/-- TGATH's data effect: each row's words are tagged as it is written. -/
def runTgath (s : State) (c : Cmd) : Run :=
  let t := c.tcw
  let dst := fun (i : Nat) => tgDst t + wn (i * rowOut t)
  if !indexOk t || !tagOk s c [(tgDst t, tgNlo t * rowOut t)] then Run.bad s
  else
    (Run.start s).read c (tgParam t) 32 (tgNlo t) (fun r idx =>
      ((tab id 0 (tgNlo t)).zip idx).foldl (fun r x =>
        match x.2 with
        | some j =>
          let u := r.row c (tgSrc t + wn (j * rowIn t)) (dst x.1) (tgHi t)
          if tgTag t && u.err.isNone then u.tagOf (u.puts.drop r.puts.length) else u
        | none => r) r)
/-- TSCAT's data effect. -/
def runTscat (s : State) (c : Cmd) : Run :=
  let t := c.tcw
  if !indexOk t then Run.bad s
  else
    (Run.start s).read c (tgParam t) 32 (tgNlo t) (fun r idx =>
      if !tagOk s c (idx.filterMap (fun x => x.map (fun j => (tgDst t + wn (j * rowOut t), rowOut t)))) then Run.bad s
      else
        (((tab id 0 (tgNlo t)).zip idx).foldl (fun r x =>
          match x.2 with
          | some j => r.row c (tgSrc t + wn (x.1 * rowIn t)) (tgDst t + wn (j * rowOut t)) (tgHi t)
          | none => r) r).finish c)

/-! ### TFILL and TPREF (R230) -/

/-- TFILL's data effect. -/
def runTfill (s : State) (c : Cmd) : Run :=
  let t := c.tcw
  let w := fmtBits (tcwFmtB t)
  if tcw0 t 36 12 != 0 || tgNlo t == 0 || tgHi t != 0 || tcwF t 1 0 48 != 0 || tcwFmtA t != 0 || !fmtElem (tcwFmtB t) ||
    !tagOk s c [(tgDst t, sizeOf' w (tgNlo t))] then Run.bad s
  else ((Run.start s).write c (tgDst t) w (List.replicate (tgNlo t) (some (bits (tcwWord t 3).toNat 0 w)))).finish c

/-- A line put, clean, into the L2 of a core. -/
def State.preloadL2 (s : State) (a line : Nat) (hot heap : Bool) : State :=
  if (findLine (s.coreAt a).l2 line).isSome then s
  else
    let d := s.dieLine (dieOf a) line
    s.putL2 a { line := line, data := d.1, valid := fullMask, dirty := 0, poison := d.2, bad := false, hot := hot, heap := heap, way := 0 }
/-- TPREF's accesses, up to the first that fails: the lines already fetched stay. -/
def prefPieces (c0 : Cmd) (l2 : Bool) : List (Nat × Nat) → Run → Run
  | [], r => r
  | (va, n) :: t, r0 =>
    let x := r0.table c0 (wn va)
    let r := x.1
    let c := x.2
    match r.st.engineLocate c .load (wn va) n with
    | .error e => r.fails c e
    | .ok (s0, g) =>
      if s0.accessHeld (dieOf c.core) none g then { r with err := some .waits } else
      let s1 := s0.touch (dieOf c.core) none ((linesOf g.cells).map Prod.fst)
      let bad := !(s1.badUnits (dieOf c.core) false g).isEmpty
      let s2 := s1.engineTouch g
      let s3 := if l2 then g.cached.foldl (fun (s : State) x =>
          match x.2.cache with | .wb | .wt => s.preloadL2 c.core x.1 x.2.hot x.2.heap | _ => s) s2 else s2
      prefPieces c0 l2 t { r with st := s3, poison := r.poison || bad }
/-- TPREF's data effect. -/
def runTpref (s : State) (c : Cmd) : Run :=
  let t := c.tcw
  if tcw0 t 36 12 != 0 || tgNlo t == 0 || tgHi t != 0 || tcwF t 2 0 48 != 0 || tcwF t 3 1 63 != 0 || tcwFmtA t != 0 ||
    tcwFmtB t != 0 || tgTag t then Run.bad s
  else prefPieces c ((tcwWord t 3).getLsbD 0) (pieces (tgNlo t) (tgSrc t).toNat (tgNlo t)) (Run.start s)

/-! ### Commands in slots -/

/-- The command in a tongs slot of a die, its data effect still to come, when its opcode is `op`. -/
def State.tongsAt (s : State) (d slot op : Nat) : Option Slot :=
  (tfind (s.dieAt d).tongs slot).filter (fun x => !x.done && tcwOp x.cmd.tcw == op)
/-- A turn of a command in its slot: it reads and computes, and then its writes land one by one, in order, so that a load may find
some words written and some not (08 R181); it waits while a home takes an access of it not (10 R208). -/
def State.slotTurn (s : State) (x : Slot) (run : State → Cmd → Run × BitVec 16) : State × Slot :=
  match x.todo with
  | [] => let r := run s x.cmd; if r.1.held then (s, x) else (r.1.st, { x with todo := r.1.puts, done := r.1.puts.isEmpty, code := r.1.code, aux := r.2, dest := r.1.units })
  | p :: t => if s.landingHeld p then (s, x) else (s.land x.cmd.core p, { x with todo := t, done := t.isEmpty })
/-- A turn of a command in a tongs slot. -/
def State.tongsRun (s : State) (d slot op : Nat) (run : State → Cmd → Run) : State :=
  match s.tongsAt d slot op with
  | none => s
  | some x =>
    let r := s.slotTurn x (fun t c => (run t c, 0))
    r.1.mapDie d (fun y => { y with tongs := tset y.tongs slot r.2 })

/-- TCOPY. -/
def execTcopy (d slot : Nat) (s : State) : Host.Outcome State Fault Refusal := .next (s.tongsRun d slot 0x20 runTcopy)
/-- TCOPY2. -/
def execTcopy2 (d slot : Nat) (s : State) : Host.Outcome State Fault Refusal := .next (s.tongsRun d slot 0x21 runTcopy2)
/-- TGATH. -/
def execTgath (d slot : Nat) (s : State) : Host.Outcome State Fault Refusal := .next (s.tongsRun d slot 0x22 runTgath)
/-- TSCAT. -/
def execTscat (d slot : Nat) (s : State) : Host.Outcome State Fault Refusal := .next (s.tongsRun d slot 0x23 runTscat)
/-- TFILL. -/
def execTfill (d slot : Nat) (s : State) : Host.Outcome State Fault Refusal := .next (s.tongsRun d slot 0x24 runTfill)
/-- TPREF. -/
def execTpref (d slot : Nat) (s : State) : Host.Outcome State Fault Refusal := .next (s.tongsRun d slot 0x25 runTpref)

end Sys2Proof.Machine
end

