-- ==== Sys2Proof/Machine/Collective.lean ====
section
/-! DEFINITION. The collective engines (11_engine_queues R231 to R233): matching, the one start of an operation, its folds,
and the failure of a path. -/

namespace Sys2Proof.Machine

/-! ### Operands (R231) -/

def collRop (t : Tcw) : Nat := tcw0 t 46 2
def collRank (t : Tcw) : Nat := tcw0 t 40 6
def collMembers (t : Tcw) : Nat := tcw0 t 32 8
def collN (t : Tcw) : Nat := tcwF t 1 48 16
def collSrc (t : Tcw) : Word := vaOf (tcwWord t 1)
def collDst (t : Tcw) : Word := vaOf (tcwWord t 2)
def collList (t : Tcw) : Word := vaOf (tcwWord t 3)
def collId (t : Tcw) : Nat := tcwF t 2 48 16
/-- A reduction. -/
def collFolds (t : Tcw) : Bool := tcwOp t == 0x30 || tcwOp t == 0x33

/-- Whether a collective command's own operands are within its statement. -/
def collOk (t : Tcw) : Bool :=
  let fa := tcwFmtA t
  tcwFmtB t == fa && within (collMembers t) 2 63 && decide (collRank t < collMembers t) && collN t != 0 && tcwF t 3 48 16 == 0 &&
  (if collFolds t then (within fa 2 3 || within fa 8 3) && (collRop t != 3 || within fa 8 3) else fmtElem fa)

/-- What two matched commands must agree in, their lists aside (R232). -/
def collAgree (t u : Tcw) : Bool :=
  collMembers t == collMembers u && collN t == collN u && tcwFmtA t == tcwFmtA u && collRop t == collRop u

/-- A member list read in its command's context. -/
def State.readList (s0 : State) (k0 : Cmd) : Except EngineError (State × Cmd × List Nat) :=
  let x := s0.tableFor k0 (collList k0.tcw)
  let k := x.2
  match x.1.engineRead k (collList k.tcw) (2 * collMembers k.tcw) with
  | .error e => .error e
  | .ok (s1, l) =>
    if l.any Prod.snd then .error { status := stPoisoned, addr := 0 }
    else .ok (s1, k, (runs 2 (collMembers k.tcw) (l.map Prod.fst)).map ofBytes)
/-- Whether a list names cores of the package, each once, and the issuer at its rank. -/
def listOk (k : Cmd) (l : List Nat) : Bool := l.all (fun m => decide (m < 512)) && l.Nodup && nth 512 l (collRank k.tcw) == k.core

/-! ### The start (R232) -/

/-- Operations in progress on a die, and a core's own. -/
def State.collsOnDie (s : State) (d : Nat) : Nat := (s.colls.filter (fun o => o.2.any (fun m => dieOf m.cmd.core == d))).length
def State.collsOf (s : State) (a : Nat) : Nat := (s.colls.filter (fun o => o.2.any (fun m => m.cmd.core == a))).length

/-- Whether the head of a core's q4 may start as far as its own die and core go (R217). -/
def State.collReady (s : State) (k : Cmd) : Bool :=
  decide (s.collsOnDie (dieOf k.core) < 8) && decide (s.collsOf k.core < 2) &&
  !(tcwOrd k.tcw && (s.startedOf k.core).any (fun y => engOf (tcwOp y.tcw) == some 2))

/-- The heads of some cores' q4 taken off. -/
def State.popColl (s : State) (l : List Nat) : State := s.each l (fun t a => t.mapCore a (fun c => { c with q4 := c.q4.drop 1 }))
/-- A member of an operation as it starts. -/
def collMember (k : Cmd) (code : Option Word) : CollMember := { cmd := k, todo := [], done := code.isSome, code := code.getD 0, dest := [] }
/-- One command alone ends with a code, its own operands being at fault. -/
def State.collAlone (s : State) (k : Cmd) (code : Word) : State :=
  let t := s.popColl [k.core]
  { t with colls := t.colls ++ [(BitVec.ofNat 8 (tcwOp k.tcw), [collMember k (some code)])] }

/-- The lists of some commands, of those whose own operands and list are within the statement; the others end alone at their turns. -/
def State.readLists (s : State) : List Cmd → State × List (Cmd × List Nat)
  | [] => (s, [])
  | k :: t =>
    match s.readList k with
    | .ok (u, x, m) =>
      let r := u.readLists t
      if listOk x m && collOk x.tcw then (r.1, (x, m) :: r.2) else r
    | .error _ => s.readLists t
/-- The start of the operation that the head of core `a`'s q4 belongs to, when every member is there. -/
def State.collStart (s : State) (a : Nat) : State :=
  if 512 ≤ a then s
  else match (s.coreAt a).q4 with
  | [] => s
  | k :: _ =>
    if !s.collReady k then s
    else if !collOk k.tcw then s.collAlone k (codeOf stBadop 0 0)
    else match s.readList k with
      | .error e => if e.held then s else (s.engineWalk k e).collAlone k e.code
      | .ok (s1, k, l) =>
        if !listOk k l then s1.collAlone k (codeOf stBadop 0 0)
        else
          let heads := l.filterMap (fun m => ((s1.coreAt m).q4.head?).filter (fun x =>
            tcwOp x.tcw == tcwOp k.tcw && collId x.tcw == collId k.tcw && s1.collReady x))
          let lists := s1.readLists heads
          if heads.length ≠ l.length ∨ lists.2.length ≠ l.length then s
          else
            let same := fun (x : Cmd × List Nat) => collAgree k.tcw x.1.tcw && decide (x.2 = l)
            let code := if lists.2.all same then none else some (codeOf stBadop 0 0)
            let s2 := lists.1.popColl l
            { s2 with colls := s2.colls ++ [(BitVec.ofNat 8 (tcwOp k.tcw), lists.2.map (fun x => collMember x.1 code))] }

/-- The cores of a die from the one whose turn it is. -/
def roundRobin (d from' : Nat) : List Nat := tab (fun i => 128 * d + (from' + i) % 128) 0 128
/-- The next core in a die's round-robin order whose head can start (R217). -/
def State.collTurn (s : State) (d : Nat) : Option Nat :=
  (roundRobin d (s.dieAt d).rrColl).find? (fun a => (s.collStart a).colls.length != s.colls.length)
/-- Core `a` served: its operation starts and the turn of its die moves on. -/
def State.collServe (s : State) (a : Nat) : State :=
  (s.collStart a).mapDie (dieOf a) (fun x => { x with rrColl := (localOf a + 1) % 128 })

/-- COLLECTIVE_START: of the core whose turn it is (R217, R241). -/
def execCollectiveStart (core : Nat) (s : State) : Host.Outcome State Fault Refusal :=
  .next (if core < 512 ∧ s.collTurn (dieOf core) = some core then s.collServe core else s)

/-! ### The data effect (R233) -/

/-- One step of a fold. -/
def collOp (rop fa x y : Nat) : FRes :=
  match fpOf fa with
  | some f =>
    (match rop with
      | 0 => fadd f 0 x y
      | 1 => fminmax false f x y
      | _ => fminmax true f x y)
  | none =>
    let w := fmtBits fa
    let a := intVal fa x
    let b := intVal fa y
    quiet (match rop with
      | 0 => lowBits w (a + b)
      | 1 => if b < a then y else x
      | 2 => if a < b then y else x
      | _ => x ||| y)
/-- An element folded with the next member's, unless one is poisoned. -/
def foldElem (rop fa : Nat) (x y : Elem) : Elem × BitVec 5 :=
  match x, y with
  | some a, some b => let r := collOp rop fa a b; (some r.1, r.2)
  | _, _ => (none, 0)
/-- Blocks folded in ascending rank. -/
def foldBlocks (rop fa : Nat) : List (List Elem) → List Elem × BitVec 5
  | [] => ([], 0)
  | x :: t =>
    t.foldl (fun a y =>
      let z := (a.1.zip y).map (fun p => foldElem rop fa p.1 p.2)
      (z.map Prod.fst, z.foldl (fun f p => f ||| p.2) a.2)) (x, 0)

/-- The members' sources as the engine of die `d` reads them, in rank order: those of other dies at the homes (R180). -/
def readSources (d w n : Nat) : List CollMember → State → Except (Cmd × EngineError) (State × List (List Elem))
  | [], s => .ok (s, [])
  | m :: t, s =>
    let x := s.tableFor m.cmd (collSrc m.cmd.tcw)
    match x.1.engineRead x.2 (collSrc m.cmd.tcw) (sizeOf' w n) (dieOf m.cmd.core != d) with
    | .error e => .error (x.2, e)
    | .ok (s1, l) =>
      match readSources d w n t s1 with
      | .error e => .error e
      | .ok (s2, r) => .ok (s2, elemsOf w n l :: r)

/-- What each member receives, and the flags of the fold. -/
def collResults (op rop fa n : Nat) (src : List (List Elem)) : List (List Elem) × BitVec 5 :=
  match op with
  | 0x30 =>
    let r := (tab id 0 src.length).map (fun i => foldBlocks rop fa (src.map (fun l => (l.drop (i * n)).take n)))
    (r.map (fun x => x.1), r.foldl (fun f x => f ||| x.2) 0)
  | 0x31 => let all := src.flatten; (src.map (fun _ => all), 0)
  | 0x33 => let r := foldBlocks rop fa src; (src.map (fun _ => r.1), r.2)
  | _ => ([], 0)

/-- One member's result, to be written and tagged; none while it must wait. -/
def collWrite (s : State) (m : CollMember) (l : List Elem) (flags : BitVec 5) : Option (State × CollMember) :=
  let w := fmtBits (tcwFmtA m.cmd.tcw)
  let r0 : Run := { Run.start s with flags := flags, poison := l.any Option.isNone }
  let fe := match s.whereIs m.cmd .store (pieces (sizeOf' w l.length) (collDst m.cmd.tcw).toNat (sizeOf' w l.length)) with
    | .ok x => x.all isSram
    | .error _ => true
  let r := if fe then r0.write m.cmd (collDst m.cmd.tcw) w l else { Run.bad s with flags := flags }
  let r2 := if r.err.isNone then r.tag else r
  if r2.held then none else some (r2.st, { m with todo := r2.puts, done := r2.puts.isEmpty, code := r2.code, dest := r2.units })
/-- Every member's result, in rank order. -/
def collWrites (flags : BitVec 5) : List (CollMember × List Elem) → State → Option (State × List CollMember)
  | [], s => some (s, [])
  | (m, l) :: t, s =>
    match collWrite s m l flags with
    | none => none
    | some a => (collWrites flags t a.1).map (fun b => (b.1, a.2 :: b.2))

/-- What each member of an operation receives, with the flags of the fold: the engine of rank 0's die reads and folds for all, so that every
member receives the same bits (R233; DEDUCED, log entry 134). -/
def State.collAll (s : State) (op : Nat) (t : Tcw) (l : List CollMember) : Except (Cmd × EngineError) (State × List (List Elem) × BitVec 5) :=
  let n := collN t
  let d := match l with | m :: _ => dieOf m.cmd.core | [] => 0
  match readSources d (fmtBits (tcwFmtA t)) (if op = 0x30 then l.length * n else n) (if op = 0x32 then l.take 1 else l) s with
  | .error e => .error e
  | .ok (s1, src) => .ok (s1, if op = 0x32 then (l.map (fun _ => src.flatten), (0 : BitVec 5)) else collResults op (collRop t) (tcwFmtA t) n src)

/-- An operation replaced. -/
def State.setColl (s : State) (k : Nat) (op : BitVec 8) (ms : List CollMember) : State := { s with colls := setNth s.colls k (op, ms) }
/-- Every member of an operation that has not ended ends with a status, the flags of a fold that was made kept (R220, R233). -/
def State.endColl (s : State) (k : Nat) (op : BitVec 8) (ms : List CollMember) (status addr : Nat) : State :=
  s.setColl k op (ms.map (fun m => { m with todo := [], done := true, code := codeOf status (BitVec.ofNat 5 (fld m.code 8 5)) addr }))

/-- The next write of an operation's members, in rank order, lands (08 R181). -/
def landMember : List CollMember → State → State × List CollMember
  | [], s => (s, [])
  | m :: t, s =>
    match m.todo with
    | p :: r => if s.landingHeld p then (s, m :: t) else (s.land m.cmd.core p, { m with todo := r, done := r.isEmpty } :: t)
    | [] => let x := landMember t s; (x.1, m :: x.2)

/-- A turn of operation `k`, when its opcode is `op`: the members' sources are read and folded, and then the results land. -/
def State.collRun (s : State) (k op : Nat) : State :=
  match s.colls[k]? with
  | some (o, m :: ms) =>
    let l := m :: ms
    if o.toNat ≠ op then s
    else if l.any (fun m => !m.todo.isEmpty) then
      let w := landMember l s
      w.1.setColl k o w.2
    else if l.any CollMember.done then s
    else
      match s.collAll op m.cmd.tcw l with
      | .error (c, e) => if e.held then s else (s.engineWalk c e).endColl k o l e.status e.addr
      | .ok (s1, x) =>
        match collWrites x.2 (l.zip x.1) s1 with
        | some w => w.1.setColl k o w.2
        | none => s
  | _ => s

/-- CREDS. -/
def execCreds (k : Nat) (s : State) : Host.Outcome State Fault Refusal := .next (s.collRun k 0x30)
/-- CGATH. -/
def execCgath (k : Nat) (s : State) : Host.Outcome State Fault Refusal := .next (s.collRun k 0x31)
/-- CBCAST. -/
def execCbcast (k : Nat) (s : State) : Host.Outcome State Fault Refusal := .next (s.collRun k 0x32)
/-- CALLRED. -/
def execCallred (k : Nat) (s : State) : Host.Outcome State Fault Refusal := .next (s.collRun k 0x33)

/-- DIE_TO_DIE_PATH_FAILURE: an operation that spans dies and has not ended ends LINK for every member. -/
def execDieToDiePathFailure (k : Nat) (s : State) : Host.Outcome State Fault Refusal :=
  match s.colls[k]? with
  | some (o, m :: ms) =>
    if ms.all (fun x => dieOf x.cmd.core == dieOf m.cmd.core) then .next s
    else .next (s.endColl k o (m :: ms) stLink 0)
  | _ => .next s

end Sys2Proof.Machine
end

