-- ==== Sys2Proof/Machine/System.lean ====
section
/-! DEFINITION. The system members, major 0x00, and the fates of unassigned words: control registers, ordering, services,
release of frozen cores, translation maintenance and cache flushes (03_encoding R66, 06_special_registers R138, R139,
07_memories R150, R153, 08_consistency R177 to R179, 13_translation_tables R278, R287, 15_error_tables R335, R336). -/

namespace Sys2Proof.Machine

/-! ### Words that are no instruction (03 R66, R67) -/

/-- ILLEGAL_INSTRUCTION. -/
def execIllegalInstruction (w : IWord) (s : State) : Host.Outcome State Fault Refusal :=
  issue (Plan.simple [] []) (fun _ => .fault (.illegal w)) s
/-- EMUL. -/
def execEmul (w : IWord) (s : State) : Host.Outcome State Fault Refusal :=
  issue (Plan.simple [] []) (fun _ => .fault (.emul w)) s
/-- ILL: the word of zeros. -/
def execIll (s : State) : Host.Outcome State Fault Refusal := issue (Plan.simple [] []) (fun _ => .fault (.illegal 0)) s
/-- NOP. -/
def execNop (s : State) : Host.Outcome State Fault Refusal := issue (Plan.simple [] []) (fun s => .done s) s

/-! ### Control and status registers (06 R138, R139) -/

/-- What keeps agent `a` from a register; a write is refused where the map says RS, on compute cores. A number without a register is
illegal on every core (R66; log entry 120). -/
def csrFault (a n : Nat) (write : Bool) (w : IWord) : Option IFault :=
  if 0x800 ≤ n then some (.access 0)
  else match csrAccess n with
    | .unassigned => some (.illegal w)
    | .rs => if write && !isSup a then some (.access 0) else none
    | _ => if isSup a && (within n 0x200 0x100 || csrForge n) then some (.access 0) else none
/-- FRM and FFLAGS, which the chunk's checkpoint holds. -/
def csrClassC (n : Nat) : Bool := n == 1 || n == 2

/-- CSRR. -/
def execCsrr (d : BitVec 5) (c : BitVec 12) (s : State) : Host.Outcome State Fault Refusal :=
  issue (Plan.simple [] [sR d]) (fun s =>
    match csrFault s.cur c.toNat false s.ir with
    | some f => .fault f
    | none =>
      if csrClassC c.toNat && !s.core.scoreboard.isEmpty then .wait .scoreboard
      else .done (s.me (fun x => x.writeS d (s.csr s.cur c.toNat)))) s

/-- A read and write of a register: `f` gives what write() is handed from the old value, `ones` the bits that clear a
write-one-to-clear field. -/
def csrWriteWith (d a : BitVec 5) (c : BitVec 12) (f : Word → Word → Word) (ones : Word → Word) :
    State → Host.Outcome State Fault Refusal :=
  fun s => issue ((if csrClassC c.toNat then Plan.simple [sR a] [sR d] else Plan.closer [sR a] [sR d]).unless (csrFault s.cur c.toNat true s.ir).isSome) (fun s =>
    match csrFault s.cur c.toNat true s.ir with
    | some x => .fault x
    | none =>
      if csrClassC c.toNat && !s.core.scoreboard.isEmpty then .wait .scoreboard
      else
        let old := s.csr s.cur c.toNat
        let x := s.core.readS a
        .done ((s.setCsr s.cur c.toNat (f old x) (ones x)).me (fun k => k.writeS d old))) s
/-- CSRW. -/
def execCsrw (d a : BitVec 5) (c : BitVec 12) (s : State) : Host.Outcome State Fault Refusal :=
  csrWriteWith d a c (fun _ x => x) id s
/-- CSRS. -/
def execCsrs (d a : BitVec 5) (c : BitVec 12) (s : State) : Host.Outcome State Fault Refusal :=
  csrWriteWith d a c (fun old x => old ||| x) id s
/-- CSRC. -/
def execCsrc (d a : BitVec 5) (c : BitVec 12) (s : State) : Host.Outcome State Fault Refusal :=
  csrWriteWith d a c (fun old x => old &&& ~~~x) (fun _ => 0) s

/-! ### Ordering (08 R177 to R179) -/

/-- An ordering member at a scope: it waits for the switches and the host port where R177 says so, then acts; a release whose
core has lost a reduction ends with a late access fault (09 R198). -/
def opOrder (sc : BitVec 3) (rel : Bool) (waits : State → Bool) (act : State → State) : State → Host.Outcome State Fault Refusal :=
  issue { Plan.closer [] [] with ahead := if sc = 7 ∨ 4 ≤ sc.toNat then .ends else .noEffect } (fun s =>
    if sc = 7 then .fault (.illegal s.ir)
    else
      let t := if sc.toNat < 3 then s else s.settled
      if waits t then .block .switch t
      else if rel && 5 ≤ sc.toNat && t.atomics.any (fun r => r.lost t.cur) then
        .late (.access 0) { t with atomics := t.atomics.filter (fun r => !r.lost t.cur) }
      else if 4 ≤ sc.toNat && (act t).incomplete t.cur then .block .switch (act t)
      else .done (act t))
/-- FENCE. -/
def execFence (sc : BitVec 3) (s : State) : Host.Outcome State Fault Refusal :=
  opOrder sc true (fun t => t.relWaits t.cur sc.toNat) (fun t => (t.relAt t.cur sc.toNat).acqAt t.cur sc.toNat) s
/-- REL. -/
def execRel (sc : BitVec 3) (s : State) : Host.Outcome State Fault Refusal :=
  opOrder sc true (fun t => t.relWaits t.cur sc.toNat) (fun t => t.relAt t.cur sc.toNat) s
/-- ACQ: at pod scope and wider it holds the core's later reduction-window accesses back by waiting for the switches
itself. -/
def execAcq (sc : BitVec 3) (s : State) : Host.Outcome State Fault Refusal :=
  opOrder sc false (fun t => t.relWaits t.cur (min sc.toNat 5)) (fun t => t.acqAt t.cur sc.toNat) s
/-- CHUNKE. -/
def execChunke (s : State) : Host.Outcome State Fault Refusal :=
  issue { Plan.closer [] [] with ahead := .noEffect } (fun s => .done s) s

/-! ### Services (15 R336) -/

/-- A core stops with a packet of a class: it freezes, or on a supervisor core parks and leaves the host a notice. -/
def State.stopWith (s : State) (cls : Nat) (pc addr : Word) (halt : Bool) : State :=
  let a := s.cur
  if isSup a then
    let t := s.mapCore a (fun c => { c with status := .parked })
    let c := t.coreAt a
    (t.mapDie (dieOf a) (fun d => { d with pktSeq := d.pktSeq + 1 })).hostNotice (dieOf a)
      (t.packet (dieOf a) { cls := cls, src := 0, notice := true, npages := 0, type := 0, agent := some a, forge := none, pc := pc, addr := addr, detail := 0 } c.chunkWords c.sbWord)
  else
    let t := s.freezeClass a cls 0 0 pc addr
    if halt then t.mapCore a (fun c => { c with status := .halted }) else t
/-- SVC. -/
def execSvc (n : BitVec 12) (s : State) : Host.Outcome State Fault Refusal :=
  issue (Plan.closer [] []) (fun s =>
    let pc := s.core.regs.pc
    .after s.settled (fun t => t.stopWith 0x16 pc (n.zeroExtend 64) false)) s
/-- HALT. -/
def execHalt (s : State) : Host.Outcome State Fault Refusal :=
  issue (Plan.closer [] []) (fun s =>
    let pc := s.core.regs.pc
    .after s.settled (fun t => t.stopWith 0x17 pc 0 true)) s

/-! ### Members of supervisor cores -/

/-- A member that raises an access fault on a compute core (03 R66). -/
def opSup (srcs dsts : List RegName) (body : State → Res) : State → Host.Outcome State Fault Refusal :=
  fun s => issue ((Plan.closer srcs dsts).unless (!isSup s.cur)) (fun s => if !isSup s.cur then .fault (.access 0) else body s) s

/-- One entry settled by its code (15 R335). COMPLETE leaves one whose access is still to be performed completing, and one that
waits as it is; REISSUE leaves it to be executed anew. The store of an entry that is to perform no access, or another one, leaves
the store buffer. -/
def Core.settleEntry (c : Core) (e : SbEntry) : Core :=
  let keep := fun (c : Core) (x : SbEntry) => { c with scoreboard := c.scoreboard ++ [x] }
  let drop := { c with storeBuf := c.storeBuf.filter (fun b => b.order != e.order) }
  match e.settle.toNat with
  | 0 =>
    if e.faulted then drop.writeEntry e false
    else if e.redo then keep c { e with completing := e.waits.isNone }
    else c.writeEntry e true
  | 1 => drop
  | 2 => keep drop { e with completing := true, redo := true, faulted := false, srcClob := false, waits := none }
  | _ => e.dests.foldl Core.markPoison drop
/-- A core released with its entries settled, oldest first. -/
def Core.resume (c : Core) : Core :=
  c.scoreboard.foldl Core.settleEntry { c with scoreboard := [], status := if c.bound.isSome then .running else .idle }
/-- What an entry that waits has outside its core, given up: its place among the waiters of a word, and its request. -/
def State.forsake (s : State) (a : Nat) (e : SbEntry) : State :=
  if e.waits.isNone || (e.settle == 0 && !e.faulted) then s
  else
    { s with feWaiters := s.feWaiters.filter (fun x => x.2 != a || !e.waits.any (fun w => match w with | .feFull y | .feEmpty y _ => x.1 == y | _ => false)),
             atomics := s.atomics.map (fun r => if r.agent == a && r.pc == e.pc then { r with dropped := true } else r) }
/-- RESUME. -/
def execResume (d a : BitVec 5) (s : State) : Host.Outcome State Fault Refusal :=
  opSup [sR a] [sR d] (fun s =>
    let t := s.settled
    let b := 128 * dieOf t.cur + fld (t.core.readS a) 0 7
    let c := t.coreAt b
    let stopped := match c.status with | .frozen _ | .halted => true | _ => false
    if !stopped then .done (t.me (fun x => x.writeS d 1))
    else match findIdx (fun (e : SbEntry) => e.settle == 2 && e.srcClob) c.scoreboard 0 with
      | some (k, _) => .done (t.me (fun x => x.writeS d (wn (2 + k * 256))))
      | none =>
        let u := c.scoreboard.foldl (fun u e => u.forsake b e) t
        .done (((u.mapCore b Core.resume).drain b).me (fun x => x.writeS d 0))) s

/-- FRPLY (13 R287). -/
def execFrply (a : BitVec 5) (s : State) : Host.Outcome State Fault Refusal :=
  opSup [sR a] [] (fun s =>
    let x := s.core.readS a
    let all := x.getLsbD 9
    let asid := BitVec.ofNat 9 (fld x 0 9)
    let die := dieOf s.cur
    s.settled.released true (fun u =>
    let t := u.mapDie die (fun d =>
      let l := d.faults.map (fun e => if all || e.asid == asid then FaultEntry.empty else e)
      if all then { d with faults := l, dropped := false, dropcnt := 0 } else { d with faults := l })
    .done (t.each ((t.liveAgents die).filter (fun b => !isSup b)) (fun u b =>
      let c := u.coreAt b
      if c.status = .frozen 0x10 ∧ (all ∨ c.ctx.asid = asid) then u.mapCore b (fun c => { c with status := .running }) else u)))) s

/-! ### TLBI (13 R278) -/

/-- What a TLBI names: mode, ASID and page. -/
structure Tlbi where
  mode : BitVec 2
  asid : BitVec 9
  va   : Nat
  deriving DecidableEq, Repr

/-- Whether an entry with this G, ASID, first page and size is covered. -/
def Tlbi.covers (x : Tlbi) (g : Bool) (asid vpn size : Nat) : Bool :=
  let here := within (x.va / 4096) vpn (entryPages size)
  match x.mode.toNat with
  | 0 => !g && asid == x.asid.toNat && here
  | 1 => !g && asid == x.asid.toNat
  | 2 => true
  | _ => g && here
/-- Whether an entry of a TLB is covered. -/
def Tlbi.entry (x : Tlbi) (e : TlbEntry) : Bool := x.covers (pteG e.leaf) e.asid.toNat e.vpn e.size
/-- Whether an entry of a billet directory is covered (12 R253). -/
def Tlbi.billet (x : Tlbi) (e : DirEntry) : Bool :=
  let here := within x.va e.va.toNat 18432
  match x.mode.toNat with
  | 0 => e.ctx.asid == x.asid && here
  | 1 => e.ctx.asid == x.asid
  | 2 => true
  | _ => here
/-- Whether a chunk used a covered translation. -/
def Tlbi.chunk (x : Tlbi) (k : Chunk) : Bool :=
  k.pages.any (fun p => x.covers (p / 2 ^ 48 == 1) (p / 2 ^ 39 % 512) (p / 8 % 2 ^ 36) (p % 8))

/-- A core's chunks up to the first that `p` picks, that chunk, and those behind it. -/
def splitWhere (p : Chunk → Bool) : List Chunk → Option (List Chunk × Chunk × List Chunk)
  | [] => none
  | k :: t =>
    if p k then some ([], k, t)
    else match splitWhere p t with
      | some (a, b, c) => some (k :: a, b, c)
      | none => none
/-- The first chunk of a core that `p` picks, and those behind it, squashed. -/
def Core.squashWhere (c : Core) (p : Chunk → Bool) : Core :=
  match splitWhere p c.closed with
  | some (a, k, b) => c.squash a k b
  | none =>
    match c.chunk with
    | some k => if p k && !c.sam then ({ c with chunk := none }).squash c.closed k [] else c
    | none => c

/-- The writes that commands in slots have still to land, landed. -/
def State.landSlots (s : State) (l : List Slot) : State := l.foldl (fun t x => x.todo.foldl (fun t p => t.land x.cmd.core p) t) s
/-- A slot whose writes have landed. -/
def Slot.landed (x : Slot) : Slot := { x with todo := [], done := x.done || !x.todo.isEmpty }
/-- Every engine write that was located before is in the commit order of its die. -/
def State.landEngines (s : State) : State :=
  let t := s.each (s.dies.map Prod.fst) (fun t d =>
    let y := t.dieAt d
    ((t.landSlots (y.tongs.map Prod.snd)).landSlots (y.swage.map Prod.snd)).mapDie d (fun y =>
      { y with tongs := y.tongs.map (fun x => (x.1, x.2.landed)), swage := y.swage.map (fun x => (x.1, x.2.landed)) }))
  let u := t.colls.foldl (fun u o => o.2.foldl (fun u m => m.todo.foldl (fun u p => u.land m.cmd.core p) u) u) t
  { u with colls := u.colls.map (fun o => (o.1, o.2.map (fun m => { m with todo := [], done := m.done || !m.todo.isEmpty }))) }

/-- The invalidation at every TLB, view table, chunk and billet directory of the package, behind the engines' writes under way. An atomic that has been sent to a home
and not been performed is sent anew, behind a new walk (R279, R290). -/
def State.tlbInvalidate (s : State) (x : Tlbi) : State :=
  let u := s.landEngines
  let s0 : State := { u with atomics := u.atomics.filter (fun r => r.remote || r.done.isSome) }
  let s1 := s0.each (s.cores.map Prod.fst) (fun t a =>
    t.mapCore a (fun c =>
      let d := c.squashWhere x.chunk
      { d with tlb := d.tlb.filter (fun e => !x.entry e),
               views := if x.mode = 2 ∨ (x.mode = 1 ∧ d.ctx.asid = x.asid) then none else d.views }))
  let s2 := s1.each (s1.dies.map Prod.fst) (fun t d => t.mapDie d (fun y => { y with l2tlb := y.l2tlb.filter (fun e => !x.entry e) }))
  s2.each (s2.forges.map Prod.fst) (fun t f => t.mapForge f (fun g =>
    { g with dir := g.dir.map (fun e => if e.valid && x.billet e then DirEntry.empty else e) }))

/-- TLBI. -/
def execTlbi (a : BitVec 5) (m : BitVec 2) (s : State) : Host.Outcome State Fault Refusal :=
  opSup [sR a] [] (fun s =>
    let x := s.core.readS a
    s.settled.released true (fun t => .done (t.tlbInvalidate { mode := m, asid := BitVec.ofNat 9 (fld x 55 9), va := fld x 0 48 }))) s

/-! ### Cache flushes (07 R150, R153) -/

/-- L2FLW. -/
def execL2flw (a : BitVec 5) (s : State) : Host.Outcome State Fault Refusal :=
  issue (Plan.closer [sR a] []) (fun s =>
    let me := s.cur
    let mask := (s.core.readS a).truncate 16 &&& ~~~s.core.l2scr
    let lines := (s.core.l2.filter (fun x => mask.getLsbD x.way.toNat)).map CacheLine.line
    let t := s.me (fun c => { c with l2held := c.l2held ||| mask })
    let u := t.each lines (fun u l => u.evictL2 me l)
    if u.incomplete me then .block .switch u else .done u) s

/-- HFLUSH. -/
def execHflush (d a : BitVec 5) (m : BitVec 2) (s : State) : Host.Outcome State Fault Refusal :=
  opSup [sR a] [sR d] (fun s =>
    if m = 3 then .fault (.illegal s.ir)
    else
      let x := s.core.readS a
      let die := dieOf s.cur
      let hit := fun (l : Nat) =>
        let h := homeOf (lineBase l)
        h / 128 == die &&
        match m.toNat with
        | 0 => l == lineOf x.toNat
        | 1 => h == fld x 0 9
        | _ => true
      let lines := s.hearth.filter (fun e => hit e.1)
      if lines.any (fun e => !s.mayLeave e.1) then .wait .switch else
      let n := (lines.filter (fun e => e.2.dirty)).length
      let t := s.each (lines.map Prod.fst) (fun u l => u.hearthEvict l)
      .done (t.me (fun c => c.writeS d (wn (min n (2 ^ 32 - 1)))))) s

end Sys2Proof.Machine
end

