-- ==== Sys2Proof/Machine/Migration.lean ====
section
/-! DEFINITION. The migration engine of a die: its commands, the copy of a page line by line, the switch of its leaf, and the
abort (11_engine_queues R235, R236, 13_translation_tables R288 to R292). -/

namespace Sys2Proof.Machine

/-! ### Ending -/

/-- A migration command without a table entry ends: its completion word waits for room. -/
def State.migEnd (s : State) (d : Nat) (k : Cmd) (status aux : Nat) : State :=
  let code := codeOf status 0 0
  if wantsWord k.tcw code then s.mapDie d (fun x => { x with migEnded := x.migEnded ++ [cplWord k.tcw code (min aux 65535)] }) else s

/-- The command at the head of a die's migration queue, when it has this opcode; an engine whose last word waits for room takes
none (11 R235). -/
def State.migHead (s : State) (d op : Nat) : Option Cmd :=
  if (s.dieAt d).migEnded.isEmpty then (s.dieAt d).migPort.queue.head?.filter (fun k => tcwOp k.tcw == op) else none
/-- The head taken off the queue. -/
def State.migPop (s : State) (d : Nat) : State :=
  s.mapDie d (fun x => { x with migPort := { x.migPort with queue := x.migPort.queue.drop 1 } })

/-! ### The start of a move (R289, steps 1 and 2) -/

/-- The walk of a VA to its leaf: address, PTE and level. -/
def State.findLeaf (s : State) (va : Nat) : Nat → Nat → Option (Nat × Word × Nat)
  | 0, _ => none
  | n + 1, base =>
    let pa := base + 8 * bits va (12 + 9 * n) 9
    if !s.tableOk base || s.homePoison (lineOf pa) then none
    else
      let p := s.homeWord pa
      if !pteV p || pteMalformed p n then none
      else if pteLeaf p then some (pa, p, n)
      else s.findLeaf va n (ptePa p)

/-- Bytes that a move of a size takes. -/
def moveBytes (size : Nat) : Nat := match size with | 0 => 4096 | 1 => 65536 | _ => 2097152
/-- How many leaves a move writes. -/
def moveLeaves (e : MigEntry) : Nat := if e.size = 1 then 16 else 1

/-- How a move writes its leaves: STATE 1 alone at its start; STATE 0 with the source's PPN at an abort; STATE 0 with the
destination's PPN and TIER at the switch (R289, R291). -/
inductive LeafWrite where
  | begins | aborts | switches
  deriving DecidableEq, Repr
/-- Leaf `k` of a move written, every other field kept. -/
def leafWith (p : Word) (e : MigEntry) (w : LeafWrite) (k : Nat) : Word :=
  match w with
  | .begins => wn (setBits p.toNat 9 2 1)
  | .aborts => wn (setBits (setBits p.toNat 12 40 (e.src / 4096 + k)) 9 2 0)
  | .switches => wn (setBits (setBits (setBits p.toNat 12 40 (e.dst / 4096 + k)) 9 2 0) 7 2 (tierOf e.dst))
/-- The leaves of a move written, as an engine commit of the die, and their translations invalidated (R278). -/
def State.writeLeaves (s : State) (d : Nat) (e : MigEntry) (w : LeafWrite) : State :=
  let bytes : Table Byte := (tab id 0 (moveLeaves e)).foldl (fun t k =>
    (((tab id 0 8).zip (toBytes 8 (leafWith (s.homeWord (e.leafPa + 8 * k)) e w k).toNat)).foldl
      (fun t x => tset t (e.leafPa + 8 * k + x.1) x.2) t)) []
  let attr : LineAttr := { cache := .wb, hot := false, heap := false }
  let t := s.engineCommit d bytes [] [(lineOf e.leafPa, attr)]
  t.each (tab id 0 (moveLeaves e)) (fun t k => t.tlbInvalidate { mode := if pteG e.leaf then 3 else 0, asid := e.asid, va := e.va.toNat + 4096 * k })

/-- How a move begins: it waits for a table entry, it fails with a status, or it is in the table. -/
inductive MoveStart where
  | wait
  | fails (status : Nat)
  | moves (s : State)

/-- The lowest unused entry of a migration table. -/
def freeMig (l : Table MigEntry) : Option Nat := (tab id 0 64).find? (fun k => !thas l k)
/-- Whether some die moves a part of `[pa, pa + n)`. -/
def State.moving (s : State) (pa n : Nat) : Bool :=
  (tab id 0 4).any (fun d => (s.dieAt d).migs.any (fun e => e.2.ended.isNone && e.2.src < pa + n && pa < e.2.src + migBytes e.2))

/-- Steps 1 and 2 of a move that words 1 and 2 of a MIGR, or of a list entry, name. A page above 2 MiB ends MIGSIZE whatever else its
leaf says (DEDUCED, log entry 127). -/
def State.startMove (s0 : State) (d : Nat) (w1 w2 : Word) (cmd : Cmd) (evac : Option Nat) : MoveStart :=
  let asid := BitVec.ofNat 9 (fld w1 48 9)
  let va := fld w1 0 48
  let dst := fld w2 0 52
  let x := s0.ctxEntry d asid
  let root := (ctxFrom asid x).troot.toNat
  let s := s0.touchPath (wn va) root
  if fld w1 57 7 ≠ 0 ∨ fld w2 52 12 ≠ 0 ∨ !(x[0].getLsbD 0) then .fails stBadop
  else if (s0.walkPath (wn va) 4 root).2 then .wait
  else match s.findLeaf va 4 root with
    | none => .fails stBadop
    | some (pa, p, level) =>
      if 2 ≤ level then .fails stMigsize
      else
        let group := level = 0 ∧ (s.groupOf pa 0).isSome
        let size := if level = 1 then 2 else if group then 1 else 0
        let n := moveBytes size
        let src := ptePa p / n * n
        if pteState p ≠ 0 ∨ pteTier p = 3 ∨ dst % n ≠ 0 ∨ !s.reachable dst ∨ !s.reachable (dst + (n - 1)) ∨ s.moving src n then
          .fails stBadop
        else match freeMig (s.dieAt d).migs with
          | none => .wait
          | some k =>
            let e : MigEntry :=
              { phase := 0, size := BitVec.ofNat 2 size, asid := asid, va := BitVec.ofNat 48 (va / n * n), src := src, dst := dst,
                next := 0, pois := 0, leafPa := if group then pa / 128 * 128 else pa, leaf := p, cmd := cmd, evac := evac, ended := none }
            let t := s.mapDie d (fun y => { y with migs := tset y.migs k e })
            .moves (t.writeLeaves d e .begins)

/-- Words of a migration command that must be 0. -/
def migOk (t : Tcw) : Bool :=
  tcwEng t == 0 && tcwFmtA t == 0 && tcwFmtB t == 0 &&
  match tcwOp t with
  | 0x40 => tcwF t 3 0 64 == 0
  | 0x41 => tcwF t 1 57 7 == 0 && tcwF t 2 0 64 == 0 && tcwF t 3 0 64 == 0
  | _ => tcwF t 1 0 64 == 0 && tcwF t 2 52 12 == 0 && tcwF t 2 0 4 == 0 && tcwF t 3 16 48 == 0 && within (tcwF t 3 0 16) 1 4096

/-- The MIGR at the head of a die's migration queue. -/
def State.runMigr (s : State) (d : Nat) : State :=
  match s.migHead d 0x40 with
  | none => s
  | some k =>
    if !migOk k.tcw then (s.migPop d).migEnd d k stBadop 0
    else match (s.migPop d).startMove d (tcwWord k.tcw 1) (tcwWord k.tcw 2) k none with
      | .wait => s
      | .fails st => (s.migPop d).migEnd d k st 0
      | .moves t => t
/-- MIGR. -/
def execMigr (d : Nat) (s : State) : Host.Outcome State Fault Refusal := .next (s.runMigr d)

/-! ### MIGRA -/

/-- The entry that moves a page of a context. -/
def findMove (l : Table MigEntry) (asid va : Nat) : Option (Nat × MigEntry) :=
  l.find? (fun x => x.2.ended.isNone && x.2.asid.toNat == asid && within va x.2.va.toNat (migBytes x.2))
/-- The MIGRA at the head of a die's migration queue: only a move that still copies can be aborted (R291). -/
def State.runMigra (s : State) (d : Nat) : State :=
  match s.migHead d 0x41 with
  | none => s
  | some k =>
    let t := s.migPop d
    if !migOk k.tcw then t.migEnd d k stBadop 0
    else match findMove (s.dieAt d).migs (tcwF k.tcw 1 48 9) (tcwF k.tcw 1 0 48) with
      | none => t.migEnd d k stNotfound 0
      | some (i, e) =>
        if e.phase ≠ 0 then t.migEnd d k stNotfound 0
        else (t.mapDie d (fun x => { x with migs := tset x.migs i { e with phase := 2 } })).migEnd d k stOk 0
/-- MIGRA. -/
def execMigra (d : Nat) (s : State) : Host.Outcome State Fault Refusal := .next (s.runMigra d)

/-! ### MEVAC -/

/-- Moves of an evacuation that are in the table. -/
def Die.evacMoves (x : Die) (id : Nat) : Nat := (x.migs.filter (fun e => e.2.evac.isSome && e.2.cmd.id == id)).length
/-- A status noted for list entry `i`: the first in list order stays. -/
def Evac.note (v : Evac) (i status : Nat) : Evac :=
  if status = stOk then v
  else match v.failed with
    | some (j, _) => if j < i then v else { v with failed := some (i, BitVec.ofNat 8 status) }
    | none => { v with failed := some (i, BitVec.ofNat 8 status) }
/-- An evacuation of a die changed. -/
def State.mapEvac (s : State) (d id : Nat) (f : Evac → Evac) : State :=
  s.mapDie d (fun x => { x with evacs := x.evacs.map (fun v => if v.cmd.id = id then f v else v) })

/-- The next entry of an evacuation's list begun, if that can be done now. -/
def State.evacNext (s : State) (d : Nat) (v : Evac) : Option State :=
  let k := v.cmd
  if tcwF k.tcw 3 0 16 ≤ v.next ∨ 16 ≤ (s.dieAt d).evacMoves k.id then none
  else
    let a := tcwF k.tcw 2 0 52 + 16 * v.next
    let fails := fun (st : Nat) => some (s.mapEvac d k.id (fun v => { v.note v.next st with next := v.next + 1 }))
    if !s.reachable a || s.gone a then fails stAccess
    else if s.homeHeld (lineOf a) then none
    else if s.homePoison (lineOf a) then fails stPoisoned
    else match (s.homeTouch (lineOf a)).startMove d (s.homeWord a) (s.homeWord (a + 8)) k (some v.next) with
      | .wait => none
      | .fails st => fails st
      | .moves t => some (t.mapEvac d k.id (fun v => { v with next := v.next + 1 }))
/-- The first step that some evacuation can take: its end, or its next entry. -/
def State.evacStep (s : State) (d : Nat) : List Evac → Option State
  | [] => none
  | v :: t =>
    if tcwF v.cmd.tcw 3 0 16 ≤ v.next ∧ (s.dieAt d).evacMoves v.cmd.id = 0 then
      let u := s.mapDie d (fun x => { x with evacs := x.evacs.filter (fun y => y.cmd.id != v.cmd.id) })
      some (u.migEnd d v.cmd (match v.failed with | some f => f.2.toNat | none => stOk) v.pois)
    else match s.evacNext d v with
      | some u => some u
      | none => s.evacStep d t
/-- One step of the evacuations of a die, or the beginning of the MEVAC at the head of its queue. -/
def State.runMevac (s : State) (d : Nat) : State :=
  match s.evacStep d (s.dieAt d).evacs with
  | some t => t
  | none => match s.migHead d 0x42 with
    | none => s
    | some k =>
      if !migOk k.tcw then (s.migPop d).migEnd d k stBadop 0
      else (s.migPop d).mapDie d (fun x => { x with evacs := x.evacs ++ [{ cmd := k, next := 0, failed := none, pois := 0 }] })
/-- MEVAC. -/
def execMevac (d : Nat) (s : State) : Host.Outcome State Fault Refusal := .next (s.runMevac d)

/-! ### The copy (R289, step 3) -/

/-- The committed dirty bytes of a line, in whatever cache, brought to its home: the copy takes every committed value
(08 R187). -/
def State.gatherLine (s : State) (line : Nat) : State :=
  s.each (s.cores.map Prod.fst) (fun t a => (t.cleanLine a true line true).cleanLine a false line true)

/-- One line of an entry copied under its lock; after the last, PHASE 1. -/
def State.copyNext (s : State) (d k : Nat) : State :=
  match tfind (s.dieAt d).migs k with
  | none => s
  | some e =>
    let n := migBytes e / 128
    if e.phase ≠ 0 ∨ e.ended.isSome ∨ n ≤ e.next then s
    else
      let set := fun (t : State) (e : MigEntry) => t.mapDie d (fun x => { x with migs := tset x.migs k e })
      let line := e.src / 128 + e.next
      let to' := e.dst / 128 + e.next
      let u := (s.landLine line).gatherLine line
      if !(s.reachable e.src && s.reachable e.dst) || s.linkDown e.dst || s.lostHome to' || s.gone e.dst || s.gone e.src then set s { e with phase := 2 }
      else if s.homeHeld line || s.homeHeld to' || u.pushes.any (fun p => p.line == line) then s
      else
        let s1 := (u.homeTouch line).homeTouch to'
        let bad := s1.homePoison line
        let s2 := s1.homeStore to' (s1.homeLine line) fullMask true
        let s3 := if bad then s2.poisonLine to' else s2
        set s3 { e with next := e.next + 1, pois := e.pois + b2n bad, phase := if e.next + 1 = n then 1 else 0 }
/-- MIGRATION_LINE_COPY. -/
def execMigrationLineCopy (d entry : Nat) (s : State) : Host.Outcome State Fault Refusal := .next (s.copyNext d entry)

/-! ### The switch and the abort (R289, steps 4 and 5, R291) -/

/-- QUEUED cleared for every region that holds a part of a move's source (13 R295). -/
def State.clearHot (s : State) (pa n : Nat) : State :=
  { s with homes := s.homes.map (fun h =>
      (h.1, { h.2 with hot := h.2.hot.map (fun r =>
        if within r.2.region.toNat (pa / 65536) ((n + 65535) / 65536) then (r.1, { r.2 with queued := false }) else r) })) }

/-- An entry's command ends: the entry is freed, or kept until its completion word finds room; a list entry's status goes to
its MEVAC. -/
def State.endMove (s : State) (d k : Nat) (e : MigEntry) (status : Nat) : State :=
  let code := codeOf status 0 0
  let s := s.clearHot e.src (migBytes e)
  match e.evac with
  | some i => (s.mapDie d (fun x => { x with migs := tdel x.migs k })).mapEvac d e.cmd.id (fun v => { v.note i status with pois := v.pois + e.pois })
  | none =>
    if wantsWord e.cmd.tcw code then
      s.mapDie d (fun x => { x with migs := tset x.migs k { e with ended := some (cplWord e.cmd.tcw code (min e.pois 65535)) } })
    else s.mapDie d (fun x => { x with migs := tdel x.migs k })

/-- Writes to a moved page that have not landed at both copies, or the leaves can not be written now (R289, step 4). -/
def State.moveInFlight (s : State) (e : MigEntry) : Bool :=
  s.pushes.any (fun p => within (p.line * 128) e.src (migBytes e)) || s.homeHeld (lineOf e.leafPa)
/-- MIGRATION_SWITCH. -/
def execMigrationSwitch (d entry : Nat) (s : State) : Host.Outcome State Fault Refusal :=
  match tfind (s.dieAt d).migs entry with
  | none => .next s
  | some e =>
    if e.phase ≠ 1 ∨ e.ended.isSome then .next s
    else if s.landAll.moveInFlight e then .next s.landAll
    else .next ((s.landAll.writeLeaves d e .switches).endMove d entry e stOk)

/-- MIGRATION_ABORT. -/
def execMigrationAbort (d entry : Nat) (s : State) : Host.Outcome State Fault Refusal :=
  match tfind (s.dieAt d).migs entry with
  | none => .next s
  | some e =>
    if e.phase ≠ 2 ∨ e.ended.isSome then .next s
    else
      let t := (s.landAll.writeLeaves d e .aborts).endMove d entry e stMigabort
      if s.landAll.moveInFlight e then .next s.landAll else .next (t.raise d { Raise.bare 8 6 with addr := canon (e.va.zeroExtend 64), detail := entry, asid := some e.asid })

end Sys2Proof.Machine
end

