-- ==== Sys2Proof/Machine/Task.lean ====
section
/-! DEFINITION. The TASK members, major 0x23: posting, cancelling, ending and yielding tasks, gangs, and containment
regions (14_task_tables R306 to R319, R324, 15_error_tables R337). -/

namespace Sys2Proof.Machine

/-! ### Posting (R306 to R308) -/

/-- The doublewords of some bytes. -/
def wordsOf : Nat → List Byte → List Word
  | 0, _ => []
  | n + 1, l => wn (ofBytes (l.take 8)) :: wordsOf n (l.drop 8)

/-- A core without a task, for a handle or a target: only compute cores have entries. -/
def noEntry (x : Word) : Bool := 511 < fld x 0 10

/-- An image, read already, posted for core `to'`, or the wait for an entry. -/
def postWords (d : BitVec 5) (to' : Nat) (y : Word) (words : List Word) (s : State) : Res :=
  let img := imageOf words
  if !imageOk to' img then .done (s.me (fun c => c.writeS d 0x1000000))
  else
    let c := s.coreAt to'
    match if y.getLsbD 15 then c.openEntry else if wttOpen (c.entry (fld y 10 5)) then some (fld y 10 5) else none with
    | none => .block (.entry words) s
    | some k =>
      let w := s.postEntry to' k img
      .done (w.me (fun c => c.writeS d (wn (handle to' k ((w.coreAt to').entry k).gen))))
/-- TKPOST. -/
def execTkpost (d a b : BitVec 5) (s : State) : Host.Outcome State Fault Refusal :=
  issue (Plan.closer [sR a, sR b] [sR d]) (fun s =>
    let va := s.core.readS a
    let y := s.core.readS b
    match s.core.wait with
    | some (.entry words) => postWords d (fld y 0 10) y words s
    | _ =>
    if fld va 0 6 ≠ 0 ∨ noEntry y then .fault (.access (if noEntry y then 0 else va))
    else
      let to' := fld y 0 10
      let t := s.settled
      t.released (dieOf to' != dieOf t.cur) (fun u =>
        u.readAlone va 64 (fun v bytes bad => v.orConsume bad va (postWords d to' y (wordsOf 8 bytes))))) s

/-- The first status of a TKCANCEL of this handle that a squash executes again, and the others of that squash: none when the core
has come another way. -/
def Core.replayed (c : Core) (h : Nat) : Option Nat × List (Word × Nat × Nat) :=
  match c.replays with
  | r :: t => if r.1 = c.regs.pc ∧ r.2.1 = h then (some r.2.2, t) else (none, [])
  | [] => (none, [])
/-- A TKCANCEL's status noted with the chunk before it, behind which a squash executes it again. -/
def Core.noteCancel (c : Core) (h st : Nat) (rest : List (Word × Nat × Nat)) : Core :=
  { c with replays := rest, closed := match c.closed.reverse with
      | k :: t => (({ k with cancels := k.cancels ++ [(c.regs.pc, h, st)] } : Chunk) :: t).reverse
      | [] => [] }
/-- A TKCANCEL of handle `h`: a squash takes nothing back (R307). -/
def State.cancelOnce (s : State) (h : Nat) : Nat × State :=
  let p := s.core.replayed h
  let r := match p.1 with
    | some 0 => (0, s)
    | some 1 => let r := s.cancelHandle h; if r.1 = 0 then (1, s) else r
    | _ => s.cancelHandle h
  (r.1, r.2.me (fun c => c.noteCancel h r.1 p.2))

/-- TKCANCEL. -/
def execTkcancel (d a : BitVec 5) (s : State) : Host.Outcome State Fault Refusal :=
  issue (Plan.closer [sR a] [sR d]) (fun s =>
    let x := s.core.readS a
    if noEntry x then .fault (.access 0)
    else
      let r := s.cancelOnce (fld x 0 24)
      .done (r.2.me (fun c => c.writeS d (wn r.1)))) s

/-- TKSTAT. -/
def execTkstat (d a : BitVec 5) (s : State) : Host.Outcome State Fault Refusal :=
  issue (Plan.simple [sR a] [sR d]) (fun s =>
    let x := s.core.readS a
    if noEntry x then .fault (.access 0)
    else .done (s.me (fun c => c.writeS d (wttWord7 ((s.coreAt (fld x 0 10)).entry (fld x 10 5)))))) s

/-! ### Ending (R311) -/

/-- The TKEXIT row of R301. -/
def WttEntry.retire (e : WttEntry) (now : Nat) : WttEntry :=
  if e.state = .running then
    (if imageRepeat e.image then { e with state := .waiting, age := 0, eprio := imagePrio e.image, since := now }
     else { e with state := .free })
  else e

/-- A task's end on core `a`: everything it held given up, the core idle, the entry retired with its last core. -/
def State.exitTask (s : State) (a : Nat) : State :=
  let b := (s.coreAt a).bound
  let s1 := ((s.mapCore a (fun c =>
    { (c.releaseRecords.emptyQueues.count 2 1) with crdepth := 0, crh := Vector.replicate 4 0, crsyn := 0 })).leaveGang a).mapCore a Core.unbind
  let s2 := (s1.endForces a).reserveFreed a
  match b with
  | none => s2
  | some (b, k) =>
    if (s2.cores.map Prod.fst).any (fun x => (s2.coreAt x).bound == some (b, k)) then s2
    else (s2.mapCore b (fun c => c.setEntry k ((c.entry k).retire s2.serial))).tick

/-- TKEXIT. -/
def execTkexit (s : State) : Host.Outcome State Fault Refusal :=
  opCompute [] [] (fun s =>
    let t := s.settled
    if t.commandsOf t.cur = [] then .held (t.exitTask t.cur) else .block .commands t) s

/-! ### Offering a save (R312, R319, R324) -/

/-- The slots of a gang task's members, in the order of their positions: the leader's slot first, then upwards around. -/
def gangSlots (leader : Nat) (mask : BitVec 8) : List Nat :=
  (tab (fun i => (slotOf leader + i) % 8) 0 8).filter (fun k => mask.getLsbD k)
/-- The cores of an entry's task: those of its mask for a gang task. -/
def taskCores (b : Nat) (e : WttEntry) : List Nat :=
  if imageGmask e.image = 0 then [b] else (gangSlots b (imageGmask e.image)).map (fun k => forgeOf b * 8 + k)
/-- A core's position in its gang task: its place in the save area. -/
def taskPos (a b : Nat) (e : WttEntry) : Nat := (findIdx (fun x => x == a) (taskCores b e) 0).elim 0 Prod.fst

/-- Whether a core by itself asks for a save: at a PREHINT a pending request, at a TKYIELD another ready entry of no lower
priority. -/
def State.asksSave (s : State) (a : Nat) (yielded : Bool) : Bool :=
  let c := s.coreAt a
  if yielded then
    (tab id 0 32).any (fun k => wttReady (c.entry k) && c.bound != some (a, k) && c.runPrio ≤ (c.entry k).eprio)
  else s.pend a

/-- Whether the task is saved here: in no region; a gang task only while every member is fused, and with its leader. -/
def State.savesHere (s : State) (a : Nat) (yielded : Bool) : Bool :=
  let c := s.coreAt a
  c.crdepth == 0 &&
  match c.bound with
  | none => false
  | some (b, k) =>
    let m := imageGmask ((s.coreAt b).entry k).image
    match c.gang with
    | none => m == 0 && s.asksSave a yielded
    | some g =>
      if g.runtime then s.asksSave a yielded
      else if g.mask != m || !g.led then false
      else if g.pos = 0 then (gangCores a g).any (fun x => s.asksSave x yielded)
      else (s.coreAt (leadOf a g)).save.isSome && g.issued + 1 == (s.coreAt (leadOf a g)).ledCount

/-- A gang fused by GANG dissolved. -/
def State.dissolve (s : State) (a : Nat) : State :=
  match (s.coreAt a).gang with
  | some g => if g.runtime then s.each (gangCores a g) (fun t b => t.mapCore b (fun c => { c with gang := none })) else s
  | none => s

/-- A save begun on a core. -/
def State.beginSave (s : State) (a : Nat) (j : SaveJob) : State :=
  (s.dissolve a).mapCore a (fun c => { c with save := some j })

/-- The latch of map and ranges, then the save when there is one: PREHINT and TKYIELD. -/
def yieldWith (yielded : Bool) (a b : BitVec 5) : State → Host.Outcome State Fault Refusal :=
  opCompute [sR a, sR b] [] (fun s =>
    let t := s.settled
    let va := t.core.readS b
    let fin := fun (t : State) (r : Vector (BitVec 32) 4) =>
      let u := t.me (fun c => { c with liveMap := c.readS a, ranges := r })
      let job : SaveJob := { kind := 0, pc := s.core.regs.pc, yield := yielded, cmds := [] }
      if u.savesHere u.cur yielded then Res.after u (fun v => v.beginSave v.cur job) else Res.done u
    if va = 0 then fin t (Vector.replicate 4 0)
    else if fld va 0 4 ≠ 0 then .fault (.access va)
    else
      t.readAlone va 16 (fun u bytes bad => u.orConsume bad va (fun u =>
        let d : Vector (BitVec 32) 4 := Vector.ofFn (fun i => BitVec.ofNat 32 (ofBytes ((bytes.drop (4 * i.val)).take 4)))
        let l := (d.toList.map BitVec.toNat).filterMap rangeOf
        let size := (l.map (fun r => 8 * r.2 + 8 * ((r.2 + 31) / 32))).foldl (· + ·) 0
        let stride := match u.core.bound with
          | some (b, k) => imageStride ((u.coreAt b).entry k).image
          | none => 16384
        if !l.all (rangeOk u.core) || stride < size + 12288 then .fault (.access va) else fin u d)))
/-- TKYIELD. -/
def execTkyield (a b : BitVec 5) (s : State) : Host.Outcome State Fault Refusal := yieldWith true a b s
/-- PREHINT. -/
def execPrehint (a b : BitVec 5) (s : State) : Host.Outcome State Fault Refusal := yieldWith false a b s

/-! ### Gangs (R314, R317) -/

/-- A core waits at a GANG of this mask. -/
def State.atGang (s : State) (m : BitVec 8) (b : Nat) : Bool := (s.coreAt b).wait == some (.gang m)
/-- GANG. -/
def execGang (a : BitVec 5) (s : State) : Host.Outcome State Fault Refusal :=
  opCompute [sR a] [] (fun s =>
    let m := (s.core.readS a).truncate 8
    let me := s.cur
    if popcount 8 m.toNat < 2 || !m.getLsbD (slotOf me) || s.core.gang.isSome then .fault (.access 0)
    else
      let t := s.settled
      let cores := (tab id (forgeOf me * 8) 8).filter (fun b => m.getLsbD (slotOf b))
      if !cores.all (fun b => b == me || t.atGang m b) then .block (.gang m) t
      else if cores.any (fun b => (t.coreAt b).ctx.asid != t.core.ctx.asid) then
        .held (t.each cores (fun u b => u.takeFault b (.access 0)))
      else
        let lead := trailing 8 m.toNat
        let order := gangSlots lead m
        .held (t.each cores (fun u b => u.mapCore b (fun c =>
          let g : GangInfo :=
            { mask := m, lslot := BitVec.ofNat 3 lead, pos := BitVec.ofNat 3 ((findIdx (fun k => k == slotOf b) order 0).elim 0 Prod.fst),
              issued := 0, runtime := true, led := true }
          ({ c.setPc (nextPc c.regs.pc) with wait := none, gang := some g, trail := [] } : Core).count 2 1)))) s

/-- SPLIT. -/
def execSplit (s : State) : Host.Outcome State Fault Refusal :=
  issue { Plan.simple [] [] with ahead := .ends } (fun s =>
    if isSup s.cur then .fault (.access 0) else .done (s.leaveGang s.cur)) s

/-! ### Containment regions (15 R337) -/

/-- CROPEN. -/
def execCropen (a : BitVec 5) (s : State) : Host.Outcome State Fault Refusal :=
  opCompute [sR a] [] (fun s =>
    let x := s.core.readS a
    let t := s.settled
    if 4 ≤ t.core.crdepth.toNat || !canonical x || fld x 0 2 != 0 then .fault (.access x)
    else .done (t.me (fun c => { c with crh := vput c.crh c.crdepth.toNat x, crdepth := c.crdepth + 1 }))) s
/-- CRCLOSE. -/
def execCrclose (s : State) : Host.Outcome State Fault Refusal :=
  opCompute [] [] (fun s =>
    let t := s.settled
    let d := t.core.crdepth
    if d = 0 then .fault (.access 0)
    else if (t.commandsOf t.cur).any (fun k => d.toNat ≤ tcwDepth k.tcw) then .block .commands t
    else .done (t.me (fun c => { c with crdepth := d - 1 }))) s

end Sys2Proof.Machine
end

