-- ==== Sys2Proof/Machine/Queue.lean ====
section
/-! DEFINITION. The queue members of QLK, major 0x24: sending commands, popping and pushing words, and the state of a
queue (11_engine_queues R215, R218, R219, R223 to R226). -/

namespace Sys2Proof.Machine

/-- An instruction that names a queue: an unassigned queue, one of the other kind, and every one on a supervisor core are
illegal instructions (R215). -/
def opQueue (p : Plan) (ok : Bool) (body : State → Res) : State → Host.Outcome State Fault Refusal :=
  fun s => issue (({ p with ahead := if ok then p.ahead else .ends } : Plan).unless (!ok || isSup s.cur)) (fun s => if !ok || isSup s.cur then .fault (.illegal s.ir) else body s) s

/-- Whether a number names a command queue, a completion queue. -/
def isCmdQ (q : BitVec 4) : Bool := q.toNat < 8 && !q.getLsbD 0
def isCplQ (q : BitVec 4) : Bool := q.toNat < 8 && q.getLsbD 0
/-- The engine of a queue. -/
def engineOf (q : BitVec 4) : Nat := q.toNat / 2

/-! ### Sending (R219) -/

/-- A command appended to the queue of engine `e` with the context it captures and its token. -/
def State.sendCmd (s : State) (e : Nat) (t : Tcw) (token : BitVec 5) (record : Option (BitVec 4)) : State :=
  let k : Cmd :=
    { tcw := tcwSetDepth t s.core.crdepth.toNat, core := s.cur, ctx := s.core.ctx, token := token, id := s.serial, record := record,
      unwound := false }
  (s.me (fun c => (c.markToken token).setCmdQ e (c.cmdQ e ++ [k]))).tick

/-- The common end of QSEND and QSENDV: the TCW's checks, the wait for room in the queue, the wait for the token register. A TCW
that waits is kept, and not read again. -/
def sendTcw (q : BitVec 4) (t : Tcw) (b : BitVec 5) (s : State) : Res :=
  let e := engineOf q
  if !tcwAccepted e t then .fault (.illegal s.ir)
  else if cmdDepth e ≤ (s.core.cmdQ e).length then .block (.sending t) s
  else if b != 0 && s.core.tokpend.getLsbD b.toNat then .block (.sending t) s
  else .done (s.sendCmd e t b none)
/-- A TCW that a core has read and still has to send. -/
def Core.unsent (c : Core) : Option Tcw := match c.wait with | some (.sending t) => some t | _ => none

/-- A queue and a token that QSEND accepts together. -/
def sendOk (q : BitVec 4) (b : BitVec 5) : Bool := isCmdQ q && (b == 0 || q == 2 || q == 6)

/-- QSEND. -/
def execQsend (q : BitVec 4) (a b : BitVec 5) (s : State) : Host.Outcome State Fault Refusal :=
  opQueue (Plan.closer [sR a] []) (sendOk q b) (fun s =>
    let va := s.core.readS a
    match s.core.unsent with
    | some t => sendTcw q t b s
    | none =>
    if fld va 0 5 ≠ 0 then .fault (.access va)
    else
      s.settled.readAlone va 32 (fun t bytes bad => t.orConsume bad va (fun t =>
        sendTcw q (BitVec.ofNat 256 (ofBytes bytes)) b t))) s
/-- QSENDV. -/
def execQsendv (q : BitVec 4) (a b : BitVec 5) (s : State) : Host.Outcome State Fault Refusal :=
  opQueue (Plan.closer [vR a] []) (sendOk q b) (fun s =>
    sendTcw q ((s.core.readV a).truncate 256) b s.settled) s

/-! ### Completion queues (R223, R224) -/

/-- The core with `n` more words of a completion queue held aside by its open chunk. -/
def Core.holdWords (c : Core) (q : BitVec 4) (n : Nat) : Core :=
  let e := Fin.ofNat 4 (engineOf q)
  let x := c.cplQ e
  (c.setCplQ e { x with held := x.held + n }).mapChunk (fun k => { k with held := k.held.set e (k.held[e] + n) })

/-- QPUSH. -/
def execQpush (q : BitVec 4) (a : BitVec 5) (s : State) : Host.Outcome State Fault Refusal :=
  opQueue { Plan.simple [sR a] [] with ahead := .noEffect } (isCplQ q) (fun s =>
    let e := Fin.ofNat 4 (engineOf q)
    let x := s.core.cplQ e
    if x.room = 0 then .wait .queueRoom
    else
      let w := wn (2 ^ 63 + 7 * 2 ^ 60 + fld (s.core.readS a) 0 60)
      .done (s.me (fun c => (c.setCplQ e { x with reserved := x.reserved + 1 }).mapChunk (fun k =>
        { k with deferred := k.deferred ++ [.qpush q w] })))) s
/-- QPOP. -/
def execQpop (d : BitVec 5) (q l : BitVec 4) (s : State) : Host.Outcome State Fault Refusal :=
  opQueue { Plan.multi [] [sR d] l with ahead := .ends } (isCplQ q) (fun s =>
    match (s.core.cplQ (Fin.ofNat 4 (engineOf q))).unheld with
    | [] => .wait .queueWord
    | w :: _ => .done (s.me (fun c => (c.holdWords q 1).writeS d w))) s
/-- QPOPV. -/
def execQpopv (d : BitVec 5) (q l : BitVec 4) (s : State) : Host.Outcome State Fault Refusal :=
  opQueue { Plan.multi [] [vR d] l with ahead := .ends } (isCplQ q) (fun s =>
    match (s.core.cplQ (Fin.ofNat 4 (engineOf q))).unheld.take 16 with
    | [] => .wait .queueWord
    | ws => .done (s.me (fun c => (c.holdWords q ws.length).writeV d (ofElems 64 (ws.map BitVec.toNat))))) s

/-! ### Inspecting and flushing (R225, R226) -/

/-- QSTAT. -/
def execQstat (d : BitVec 5) (q : BitVec 4) (s : State) : Host.Outcome State Fault Refusal :=
  opQueue (Plan.simple [] [sR d]) (q.toNat < 8) (fun s =>
    .done (s.me (fun c => c.writeS d (s.qstat s.cur q.toNat)))) s
/-- QFLUSH. -/
def execQflush (q : BitVec 4) (s : State) : Host.Outcome State Fault Refusal :=
  opQueue { Plan.simple [] [] with ahead := .ends } (q.toNat < 8) (fun s =>
    .done (s.me (fun c => c.mapChunk (fun k => { k with deferred := k.deferred ++ [.qflush q] })))) s

end Sys2Proof.Machine
end

