-- ==== Sys2Proof/Machine/Mesh.lean ====
section
/-! DEFINITION. The MESHX members, major 0x25: retry records, weight-set switches, batch boundaries, MDRAIN and SKCOMB
(06_special_registers R135 to R137, 12_anvil_queue R265, 15_error_tables R339 to R343). -/

namespace Sys2Proof.Machine

/-- A member of the group; a supervisor core has no forge. -/
def opMesh (p : Plan) (body : State → Res) : State → Host.Outcome State Fault Refusal :=
  fun s => issue (p.unless (isSup s.cur)) (fun s => if isSup s.cur then .fault (.access 0) else body s) s

/-! ### Retry records (15 R339) -/

def Core.recordAt (c : Core) (k : BitVec 4) : RetryRecord := c.records[k.toNat]'k.isLt
def recHeld (r : RetryRecord) : Bool := r[0].getLsbD 63
def recBusy (r : RetryRecord) : Bool := r[0].getLsbD 62
def recAoff (r : RetryRecord) : Nat := fld r[3] 0 20
def recDoff (r : RetryRecord) : Nat := fld r[3] 20 20
def recTolRow (r : RetryRecord) : Int := fld r[4] 48 16
def recRres (r : RetryRecord) : Int := sxt 32 (fld r[6] 32 32)
def recCres (r : RetryRecord) : Int := sxt 32 (fld r[6] 0 32)
def recRidx (r : RetryRecord) : Nat := fld r[7] 48 6
def recCidx (r : RetryRecord) : Nat := fld r[7] 32 6
/-- CLEAN, SINGLE or MULTIPLE. -/
def recKind (r : RetryRecord) : Nat :=
  if r[1] = 0 ∧ r[2] = 0 then 0 else if popcount 64 r[1].toNat = 1 ∧ popcount 64 r[2].toNat = 1 then 1 else 2
/-- Region offset of the element a single error names. -/
def recElem (r : RetryRecord) : Nat := recDoff r + 32 + 2 * (64 * recRidx r + recCidx r)
/-- The corrected mantissa. -/
def recFixed (r : RetryRecord) (m : Nat) : Int := clampI (-511) 511 (sxt 16 m + rneDiv (recRres r) 16)

/-- TLOC (15 R340). -/
def execTloc (d a : BitVec 5) (l : BitVec 4) (s : State) : Host.Outcome State Fault Refusal :=
  opMesh (Plan.memory [sR a] [sR d] l) (fun s =>
    let r := s.core.recordAt ((s.core.readS a).truncate 4)
    if !recHeld r then .done (s.me (fun c => c.writeS d 3))
    else if recBusy r then .done (s.me (fun c => c.writeS d (wn (4 + recKind r))))
    else if recKind r ≠ 1 then .done (s.me (fun c => c.writeS d (wn (recKind r))))
    else
      s.loads [(wn (lwb + recElem r), 2)] (fun t x =>
        if x.any Prod.snd then .done (t.me (fun c => c.poisonS d 0))
        else
          let mc := recFixed r (ofBytes (x.flatMap Prod.fst))
          .done (t.me (fun c => c.writeS d (wn (lowBits 16 mc * 2 ^ 48 + recRidx r * 65536 + recCidx r * 256 + 1)))))) s

/-- TFIX (15 R341): a single-access chunk of its own; an element outside the scratchpad is an access fault, as it is for TLOC's load (07
R144). -/
def execTfix (d a : BitVec 5) (s : State) : Host.Outcome State Fault Refusal :=
  opMesh (Plan.closer [sR a] [sR d]) (fun s =>
    let k : BitVec 4 := (s.core.readS a).truncate 4
    let t := s.settled
    let r := t.core.recordAt k
    let e := sramBase t.cur + recElem r
    let fin := fun (t : State) (st : Nat) => Res.done (t.endAlone.me (fun c => c.writeS d (wn st)))
    if !recHeld r then fin t 3
    else if recBusy r then fin t 4
    else if recKind r ≠ 1 then fin t 1
    else if !sramAssigned t.core (recElem r) then .fault (.access (wn (lwb + recElem r)))
    else if t.poison.contains (poisonUnit e) then fin t 5
    else if 16 * recTolRow r < (recRres r - 16 * recCres r).natAbs then fin t 2
    else
      let mc := recFixed r (ofBytes (memBytes t.mem e 2))
      let u := (t.sramPut e (toBytes 2 (lowBits 16 mc))).meetAll (dieOf t.cur) [lineOf e]
      fin (u.me (fun c => c.releaseRecord k)) 0) s

/-- The command that a retry of a record sends (15 R342). -/
def retryTcw (r : RetryRecord) : Tcw :=
  tcwOf
    [wn (fld r[7] 16 16 * 2 ^ 48 + fld r[0] 32 16 * 2 ^ 32 + 0x21 * 2 ^ 24 + 0x20 * 2 ^ 16 + 4096 + 1),
     wn (fld r[0] 16 16 * 2 ^ 48 + fld r[0] 48 6 * 2 ^ 40 + recAoff r), wn (recDoff r), wn (fld r[0] 0 16)]

/-- TRETRY. -/
def execTretry (d a : BitVec 5) (s : State) : Host.Outcome State Fault Refusal :=
  opMesh (Plan.closer [sR a] [sR d]) (fun s =>
    let x := s.core.readS a
    let k : BitVec 4 := x.truncate 4
    let t := s.settled
    let r := t.core.recordAt k
    let fin := fun (t : State) (st : Nat) => Res.done (t.me (fun c => c.writeS d (wn st)))
    if !recHeld r then fin t 3
    else if recBusy r then fin t 4
    else if x.getLsbD 8 then fin (t.me (fun c => c.releaseRecord k)) 0
    else if cmdDepth 0 ≤ t.core.q0.length then .block .queueRoom t
    else
      let u := t.sendCmd 0 (retryTcw r) 0 (some k)
      fin (u.me (fun c => { c with records := c.records.set k.toNat (r.set 0 (r[0] ||| 0x4000000000000000)) k.isLt })) 0) s

/-- TRRD (15 R343). -/
def execTrrd (d a b : BitVec 5) (l : BitVec 4) (s : State) : Host.Outcome State Fault Refusal :=
  opMesh (Plan.multi [sR a, sR b] [sR d] l) (fun s =>
    let r := s.core.recordAt ((s.core.readS a).truncate 4)
    .done (s.me (fun c => c.writeS d (nth 0 r.toList (fld (c.readS b) 0 3))))) s

/-! ### The forge sequencer (06 R136) -/

/-- WSPSW. -/
def execWspsw (a : BitVec 5) (s : State) : Host.Outcome State Fault Refusal :=
  opMesh (Plan.closer [sR a] []) (fun s =>
    let t := s.settled
    let x := t.core.readS a
    .done (t.mapForge (forgeOf t.cur) (fun g => { g with tgt := x.getLsbD 0, pend := true }))) s

/-- MBATCH: a boundary whose before set is empty completes at once (R136), with its own number and PEND applied, even behind an older
boundary still open (DEDUCED, log entry 126). -/
def execMbatch (d : BitVec 5) (s : State) : Host.Outcome State Fault Refusal :=
  opMesh (Plan.closer [] [sR d]) (fun s =>
    let t := s.settled
    let f := forgeOf t.cur
    let g := t.forgeAt f
    let seq := g.batchSeq + 1 + BitVec.ofNat 32 g.bounds.length
    let before := (((tab id (8 * f) 8).flatMap (fun a => (t.coreAt a).q0)).map Cmd.id).foldl ninsert []
    let u := t.mapForge f (fun g =>
      if before = [] then { g with batchSeq := seq, cur := if g.pend then g.tgt else g.cur, pend := false }
      else { g with bounds := g.bounds ++ [{ seq := seq, before := before }] })
    .done (u.me (fun c => c.writeS d (seq.zeroExtend 64)))) s

/-! ### MDRAIN (12 R265) and SKCOMB (06 R137) -/

/-- MDRAIN: every anvil command of the core was sent before it, since the core waits. -/
def execMdrain (d : BitVec 5) (s : State) : Host.Outcome State Fault Refusal :=
  opMesh (Plan.closer [] [sR d]) (fun s =>
    let t := s.settled
    if (t.commandsOf t.cur).any (fun k => engOf (tcwOp k.tcw) == some 0) then .block .commands t
    else .done (t.me (fun c => c.writeS d (wn (ofDigits 1 (c.records.toList.map (fun r => b2n (recHeld r)))))))) s

/-- SKCOMB: the sum, and its deliveries in slot order. -/
def execSkcomb (d a b : BitVec 5) (s : State) : Host.Outcome State Fault Refusal :=
  opMesh (Plan.closer [sR a, sR b] [sR d]) (fun s =>
    let f := forgeOf s.cur
    let bank := (s.forgeAt f).active
    let ea := sxt 8 (fld (s.core.readS a) 0 8)
    let v : Int := if ea = -128 ∨ !bank.valid then -512 else ea + bank.ew.toInt
    let to' := (tab id 0 8).filter (fun k => (s.core.readS b).getLsbD k)
    .done ({ s with skxMsgs := s.skxMsgs ++ to'.map (fun k => (8 * f + k, BitVec.ofInt 10 v)) }.me (fun c => c.writeS d (wi v)))) s

/-- SKX_DELIVERY: the oldest delivery arrives. -/
def execSkxDelivery (s : State) : Host.Outcome State Fault Refusal :=
  match s.skxMsgs with
  | [] => .next s
  | x :: t => .next (({ s with skxMsgs := t }).mapCore x.1 (fun c => { c with skx := x.2 }))

end Sys2Proof.Machine
end

