-- ==== Sys2Proof/Machine/Save.lean ====
section
/-! DEFINITION. Saving and restoring a task: the image, the drain before it, the save commands, and what a restore reloads
(14_task_tables R321 to R324, 11_engine_queues R235, R237, R240, 12_anvil_queue R266, 16_counters R351). -/

namespace Sys2Proof.Machine

/-! ### The words of an image (R323) -/

/-- A list of words at exactly `n` of them. -/
def fitWords (n : Nat) (l : List Word) : List Word := (l ++ List.replicate n 0).take n
/-- `n` words of a number, low first. -/
def numWords (n x : Nat) : List Word := tab (fun i => wn (bits x (64 * i) 64)) 0 n
/-- A flag per word of a range: full and poison bits, 32 words to a flag word (R323). -/
def rangeFlags (s : State) (at' : Nat) (n : Nat) : List Word :=
  tab (fun i => wn (ofDigits 2 ((tab (fun j => at' + 8 * (32 * i + j)) 0 (min 32 (n - 32 * i))).map (fun w =>
    b2n (s.isFull w) + 2 * b2n (s.poison.contains w))))) 0 ((n + 31) / 32)
/-- The words of a range and its flags. -/
def rangeWords (s : State) (a : Nat) (r : Nat × Nat) : List Word :=
  let at' := sramBase a + r.1
  wordsOf r.2 (memBytes s.mem at' (8 * r.2)) ++ rangeFlags s at' r.2
/-- The valid ranges of four descriptors. -/
def validRanges (d : List Nat) : List (Nat × Nat) := d.filterMap rangeOf
/-- Bytes that ranges and their flags take. -/
def rangesSize (l : List (Nat × Nat)) : Nat := (l.map (fun r => 8 * r.2 + 8 * ((r.2 + 31) / 32))).foldl (· + ·) 0
/-- The words of the q1 of a core as a save takes them: its own, then those of the slot's holding buffer (12 R266). -/
def State.savedQ1 (s : State) (a : Nat) : List Word :=
  ((s.coreAt a).cplQ 0).words ++ ((s.forgeAt (forgeOf a)).held (slotOf a)).map HeldWord.word

/-- The image of a core's task; `pos` is its place in a gang. -/
def State.saveImage (s : State) (a pos : Nat) (kind : BitVec 2) : List Word :=
  let c := s.coreAt a
  let all := kind != 0
  let named := fun (i : Nat) => all || c.liveMap.getLsbD i
  let d := c.ranges.toList.map BitVec.toNat
  let mask := ofDigits 1 (tab (fun i => b2n (named i)) 0 64)
  let q := fun (e : Fin 4) => fitWords 16 (c.cplQ e).words
  let q1 := s.savedQ1 a
  let tcws := fun (n : Nat) (l : List Cmd) => fitWords (4 * n) (l.flatMap (fun k => tab (tcwWord k.tcw) 0 4))
  let full := ofDigits 1 (c.links.toList.map (fun x => b2n x.full))
  let bad := ofDigits 1 (c.links.toList.map (fun x => b2n x.poison))
  [wn (1 + kind.toNat * 65536 + b2n (c.wait.isSome) * 2 ^ 18 + pos * 2 ^ 24), c.liveMap,
    wn (nth 0 d 0 + nth 0 d 1 * 2 ^ 32), wn (nth 0 d 2 + nth 0 d 3 * 2 ^ 32), c.regs.pc, s.taskId a, 0, 0] ++
  tab (fun i => if named i then nth 0 c.regs.s.toList i else 0) 0 32 ++
  [wn (c.regs.sPoison.toNat &&& mask), wn (c.regs.vPoison.toNat &&& (mask / 2 ^ 32)),
    wn (c.regs.pPoison.toNat / 2 + c.regs.kPoison.toNat * 256), 0, 0, 0, 0, 0] ++
  (c.regs.p.toList.drop 1).flatMap (fun x => numWords 4 x.toNat) ++ c.regs.k.toList ++
  c.links.toList.map LinkSlot.value ++ [wn (full + bad * 16), 0, 0, 0] ++
  [c.regs.frm.zeroExtend 64, c.regs.fflags.zeroExtend 64, c.ctx.heapb, c.ctx.heapl, c.ctx.heapo, c.skx.zeroExtend 64, 0, 0] ++
  c.mc.toList.map (fun x => x.zeroExtend 64) ++ c.bars.toList.map barWord ++
  fitWords 16 [wn c.q0.length, wn c.q4.length, wn q1.length, wn (c.cplQ 1).words.length, wn (c.cplQ 2).words.length, wn (c.cplQ 3).words.length] ++
  tcws 16 c.q0 ++ tcws 8 c.q4 ++ fitWords 16 q1 ++ q 1 ++ q 2 ++ q 3 ++
  c.records.toList.flatMap (fun r => r.toList) ++
  fitWords 64 (wn (ofDigits 1 (c.records.toList.map (fun r => b2n (recHeld r)))) :: fitWords 4 (q1.drop 16)) ++
  (tab (fun i => numWords 32 (if named (32 + i) then (nth 0 c.regs.v.toList i).toNat else 0)) 0 32).flatten ++
  (validRanges d).flatMap (rangeWords s a)

/-- An image written to its home, line by line, as a write of the device that enters no signature. -/
def State.putImage (s : State) (die : Nat) : Nat → List (List Byte) → State
  | _, [] => s
  | line, l :: t =>
    let mask : BitVec 128 := BitVec.ofNat 128 (2 ^ l.length - 1)
    (((s.homeWrite false (512 + 2 * die) line (packLine l) mask (l.length == 128) false true).killCopies die line mask none)).putImage die (line + 1) t
/-- Words at a physical address that is a multiple of 128. -/
def State.putWords (s : State) (die pa : Nat) (l : List Word) : State :=
  s.putImage die (pa / 128) (runs 128 ((l.length + 15) / 16) (l.flatMap (fun w => toBytes 8 w.toNat)))

/-! ### Ready to be saved (R322, 11 R240, 12 R266) -/

/-- Started commands of a core in its forge that have not done their work: words that wait in the holding buffer are saved
with q1. -/
def State.anvilBusy (s : State) (a : Nat) : Bool := (s.forgeAt (forgeOf a)).runningOf a != 0
/-- Whether a core's save can write its image now. -/
def State.saveReady (s : State) (a : Nat) : Bool :=
  let c := s.coreAt a
  let d := s.dieAt (dieOf a)
  match c.save with
  | none => false
  | some j =>
    (j.kind == 2 || !c.status.stopped) && c.tokpend == 0 && c.q2.isEmpty && c.q6.isEmpty && c.ending.isEmpty &&
    d.tongs.all (fun x => x.2.cmd.core != a) && d.swage.all (fun x => x.2.cmd.core != a) && !s.anvilBusy a

/-- The cores that an entry's task is bound to. -/
def State.boundCores (s : State) (b k : Nat) : List Nat := (s.cores.map Prod.fst).filter (fun x => (s.coreAt x).bound == some (b, k))

/-- A save command ends: its completion word waits for room. -/
def State.saveEnd (s : State) (d : Nat) (k : Cmd) (status : Nat) : State :=
  let code := codeOf status 0 0
  if wantsWord k.tcw code then s.mapDie d (fun x => { x with saveEnded := x.saveEnded ++ [cplWord k.tcw code 0] }) else s
/-- Every save command that waits for the saves of some cores ends. -/
def State.endSaves (s : State) (cores : List Nat) (status : Nat) : State :=
  s.each cores (fun t a =>
    let c := t.coreAt a
    let l := (match c.save with | some j => j.cmds | none => []) ++ c.force
    l.foldl (fun t k => t.saveEnd (dieOf a) k status) (t.mapCore a (fun c => { c with save := none, force := [], forced := false })))

/-! ### Beginning a forced save (R321) -/

/-- The core with its open chunk, if any, rolled back: the entries that are left belong to none. -/
def Core.abandonTo (c : Core) : Core := if c.chunk.isSome then c.abandon else c
/-- Whether a core stands where its open chunk can be rolled back for a save: no entry that belongs to no chunk does anything else than
wait. -/
def Core.rollsBack (c : Core) : Bool :=
  c.abandonTo.storeBuf.isEmpty && (match c.abandonTo.scoreboard with | [] => true | [e] => e.waits.any Wait.blocked | _ => false)
/-- Whether a core is blocked at an instruction that waits: one of its entries waits, and its next instruction waits for that, as all
of a gang does. -/
def Core.blockedAt (c : Core) : Bool :=
  (c.wait.isSome || c.inGangTask) && c.scoreboard.any (fun e => e.waits.any Wait.blocked) && c.rollsBack
/-- Whether a core with a forced save asked for stands at a point where it may stop. -/
def State.stopsHere (s : State) (a : Nat) : Bool :=
  let c := s.coreAt a
  c.forced && c.save.isNone && c.status == .running && c.crdepth == 0 && c.ahead.isNone && c.unwinding.isNone &&
  (c.blockedAt || (s.stopsWith a && c.mayStop && c.rollsBack) ||
    (c.scoreboard.isEmpty && ((c.chunk.isNone && c.mayStop && s.boundaryStops a) || (match c.wait with | some w => w.blocked | none => false))))
/-- The core stops: its open chunk rolled back, what it waits for kept. An instruction in no chunk that waits is the one that the
image names. -/
def State.stopForced (s : State) (a : Nat) : State :=
  let t := s.settle a
  let c := t.coreAt a
  let d := c.abandonTo
  let w := match d.scoreboard with
    | e :: _ => e.waits
    | [] =>
      if c.scoreboard.isEmpty then match c.wait with | some w => if w.blocked then (if c.chunk.isSome then some Wait.resumed else some w) else none | none => none
      else some Wait.resumed
  let u := (t.stopWaiting a).mapCore a (fun _ => match d.scoreboard with | e :: _ => d.setPc e.pc | [] => d)
  ((u.mapCore a (fun c => { c with wait := w, scoreboard := [] })).beginSave a { kind := 1, pc := (u.coreAt a).regs.pc, yield := false, cmds := [] })

/-! ### The save -/

/-- Words of a slot's holding buffer leave with the image: their commands end, their records no longer busy. -/
def State.endHeld (s : State) (a : Nat) : State :=
  ((s.forgeAt (forgeOf a)).held (slotOf a)).foldl (fun t h =>
    match h.ends with | some x => t.mapCore a (fun c => c.endRecord x.1 h.drop) | none => t) s
/-- ABFT_MISMATCHes whose words wait in a core's holding buffer freeze it before its save takes them (R261, R266; log entry 124). -/
def State.freezeHeld (s : State) (a : Nat) : State :=
  let f := forgeOf a
  let l := (s.forgeAt f).held (slotOf a)
  (l.filterMap HeldWord.freeze).foldl (fun t n => t.interruptFor (f / 16) (t.mismatchRaise a n))
    (s.mapForge f (fun g => g.setHeld (slotOf a) (l.map (fun h => { h with freeze := none }))))
/-- Where a core's image goes, its end, and whether it fits its stride and lies in storage. -/
def State.imageFits (s : State) (a base stride : Nat) : Bool :=
  let size := 0x3000 + rangesSize (validRanges ((s.coreAt a).ranges.toList.map BitVec.toNat))
  decide (size ≤ stride) && (tab id 0 (size / 4096 + 1)).all (fun i => s.reachable (base + min (4096 * i) (size - 1)))

/-- What stays with the entry beside the image of a core. -/
def State.keptOf (s : State) (a : Nat) : Kept :=
  let c := s.coreAt a
  { saved := true, cmds := c.q0 ++ c.q4, wait := c.wait.map (fun w => match w with | .sending _ | .entry _ => .resumed | _ => w),
    gang := c.gang.filter (fun g => !g.runtime && g.led), trail := c.trail }

/-- A saved core given up: queues, records and slots empty, no task. -/
def State.leaveSaved (s : State) (a : Nat) : State :=
  let t := s.mapCore a (fun c =>
    let d := { c.releaseRecords.emptyQueues with q0 := [], q4 := [], gang := none, trail := [], forced := false, chunk := none, scoreboard := [], storeBuf := [] }
    d.unbind)
  t.mapForge (forgeOf a) (fun g => g.setHeld (slotOf a) [])

/-- The entry of a saved task (R301, R312, R322). -/
def WttEntry.saved (e : WttEntry) (run : BitVec 3) (yield : Bool) (now : Nat) (kept : List Kept) : WttEntry :=
  { e with state := .preempted, eprio := if yield then imagePrio e.image else run, age := 0, since := now, kept := kept, rsv := false }

/-- The images of all cores of a task written and the task given up; or, with no place for one of them, that core frozen. -/
def State.writeSave (s : State) (b k : Nat) (cores : List Nat) : State :=
  let e := (s.coreAt b).entry k
  let base := fun (a : Nat) => imageSave e.image + taskPos a b e * imageStride e.image
  let bad := cores.filter (fun a => !s.imageFits a (base a) (imageStride e.image))
  if bad != [] then
    let pc := fun (a : Nat) => match (s.coreAt a).save with | some j => j.pc | none => 0
    let t := s.each bad (fun t a => t.freezeClass a 0x11 0 0 (pc a) (wn (base a)))
    t.endSaves cores stAccess
  else
    let s1 := s.each cores (fun t a => t.endHeld a)
    let s2 := s1.each cores (fun t a =>
      let kind := match (t.coreAt a).save with | some j => j.kind | none => 0
      t.putWords (dieOf a) (base a) (t.saveImage a (taskPos a b e) kind))
    let s3 := s2.each cores (fun t a => t.relEffect a)
    let n := cores.foldl (fun m a => max m (taskPos a b e)) 0
    let kept := tab (fun h => match cores.find? (fun a => taskPos a b e == h) with | some a => s3.keptOf a | none => Kept.none) 0 (n + 1)
    let run := (s3.coreAt (nth b cores 0)).runPrio
    let yield := cores.any (fun a => match (s3.coreAt a).save with | some j => j.yield | none => false)
    let s4 := (s3.endSaves cores stOk).each cores (fun t a => (t.stopWaiting a).leaveSaved a)
    let s5 := (s4.mapCore b (fun c => c.setEntry k ((c.entry k).saved run yield s4.serial kept))).tick
    s5.each cores State.reserveFreed

/-- A home of the place of a core's image can not serve it now (10 R208). -/
def State.imageHeld (s : State) (a b k : Nat) : Bool :=
  let e := (s.coreAt b).entry k
  s.rangeHeld (imageSave e.image + taskPos a b e * imageStride e.image) (imageStride e.image)
/-- SAVE: a core that is to be saved by force stops where it may; a task whose cores have all stopped and drained is
saved. -/
def execSave (a : Nat) (s : State) : Host.Outcome State Fault Refusal :=
  let c := s.coreAt a
  if s.stopsHere a then .next (s.stopForced a)
  else match c.save, c.bound with
    | some _, some (b, k) =>
      let cores := s.boundCores b k
      if !cores.all s.saveReady then .next s
      else if cores.any (fun a => ((s.forgeAt (forgeOf a)).held (slotOf a)).any (fun h => h.freeze.isSome)) then
        .next (s.each cores State.freezeHeld)
      else
        let t := s.each cores (fun t a => t.relEffect a)
        if cores.any t.incomplete || cores.any (fun a => t.imageHeld a b k) then .next t else .next (t.writeSave b k cores)
    | _, _ => .next s

/-! ### The restore (R324) -/

/-- A doubleword of an image. -/
def State.imgWord (s : State) (base i : Nat) : Word := s.homeWord (base + 8 * i)
/-- `n` doublewords of an image. -/
def State.imgWords (s : State) (base i n : Nat) : List Word := tab (fun j => s.imgWord base (i + j)) 0 n
/-- A number of `n` doublewords of an image. -/
def State.imgNum (s : State) (base i n : Nat) : Nat := ofDigits 64 ((s.imgWords base i n).map BitVec.toNat)
/-- Whether an image can be read: storage behind it, and no poison. -/
def State.imgOk (s : State) (base : Nat) : Option Nat :=
  let d := (s.imgWords base 2 2).flatMap (fun w => [fld w 0 32, fld w 32 32])
  let size := 0x3000 + rangesSize (validRanges d)
  if !s.reachable base || !s.reachable (base + 0x2FFF) || s.gone base || s.gone (base + size - 1) then some stAccess
  else if !(tab id 0 (size / 4096 + 1)).all (fun i => s.reachable (base + min (4096 * i) (size - 1))) then some stAccess
  else if (tab (fun i => lineOf base + i) 0 ((size + 127) / 128)).any s.homePoison then some stPoisoned
  else none

/-- The registers of an image: of one made at a PREHINT, those that its map names (04 R77, 05 R99). -/
def State.imgRegs (s : State) (base : Nat) : Regs :=
  let pk := s.imgWord base 42
  let mask := if fld (s.imgWord base 0) 16 2 = 0 then s.imgWord base 1 else BitVec.allOnes 64
  { pc := canon (s.imgWord base 4 &&& 0x0000FFFFFFFFFFFC),
    s := Vector.ofFn (fun i => if i.val = 0 || !mask.getLsbD i.val then 0 else s.imgWord base (8 + i.val)),
    sPoison := BitVec.ofNat 32 (setBits (fld (s.imgWord base 40 &&& mask) 0 32) 0 1 0),
    v := Vector.ofFn (fun i => if mask.getLsbD (32 + i.val) then BitVec.ofNat 2048 (s.imgNum base (512 + 32 * i.val) 32) else 0),
    vPoison := BitVec.ofNat 32 (fld (s.imgWord base 41 &&& (mask >>> 32)) 0 32),
    p := Vector.ofFn (fun i => if i.val = 0 then 0 else BitVec.ofNat 256 (s.imgNum base (48 + 4 * (i.val - 1)) 4)),
    pPoison := BitVec.ofNat 8 (fld pk 0 7 * 2),
    k := Vector.ofFn (fun i => s.imgWord base (76 + i.val)),
    kPoison := BitVec.ofNat 4 (fld pk 8 4),
    frm := BitVec.ofNat 2 (fld (s.imgWord base 88) 0 2), fflags := BitVec.ofNat 5 (fld (s.imgWord base 89) 0 5) }

/-- Commands of an image: each the command kept with its entry where that holds it, else one of the core's own context, with
the record that its TRETRY had (12 R261). -/
def imgCmds (a : Nat) (x : Ctx) (recs : Vector RetryRecord 16) : List Tcw → List Cmd → State → State × List Cmd
  | [], _, s => (s, [])
  | t :: ts, kept, s =>
    match kept.find? (fun k => k.tcw == t) with
    | some k =>
      let r := imgCmds a x recs ts (kept.filter (fun y => y.id != k.id)) s
      (r.1, { k with core := a } :: r.2)
    | none =>
      let rec' := if tcwOp t = 1 then
          (findIdx (fun r => recHeld r && recBusy r && decide (retryTcw r = tcwSetDepth t 0)) recs.toList 0).map (fun y => BitVec.ofNat 4 y.1)
        else none
      let k : Cmd := { tcw := t, core := a, ctx := x, token := 0, id := s.serial, record := rec', unwound := false }
      let r := imgCmds a x recs ts kept s.tick
      (r.1, k :: r.2)

/-- A range written back with its full and poison bits, where its words still lie in FE memory. -/
def State.putRange (s : State) (a : Nat) (r : Nat × Nat) (pa : Nat) : State :=
  State.meetAll (die := dieOf a) (lines := linesIn (sramBase a + r.1) (8 * r.2)) <| s.each (tab id 0 r.2) (fun t i =>
    let w := sramBase a + r.1 + 8 * i
    if sramAssigned (t.coreAt a) (r.1 + 8 * i) then
      let f := fld (t.homeWord (pa + 8 * r.2 + 8 * (i / 32))) (2 * (i % 32)) 2
      (((t.sramPut w (toBytes 8 (t.homeWord (pa + 8 * i)).toNat)).setFull w (bit f 0)).setPoison w (bit f 1))
    else t)
/-- Every range of an image. -/
def State.putRanges (s : State) (a : Nat) : List (Nat × Nat) → Nat → State
  | [], _ => s
  | r :: t, pa => (s.putRange a r pa).putRanges a t (pa + 8 * r.2 + 8 * ((r.2 + 31) / 32))

/-- The core that made an image, by the handle and the position it names. -/
def State.imgSaver (s : State) (base : Nat) : Nat :=
  let h := s.imgWord base 5
  let b := fld h 0 10
  nth b (taskCores b ((s.coreAt b).entry (fld h 10 5))) (fld (s.imgWord base 0) 24 3)
/-- What the entry that an image names has kept for its position. -/
def State.imgKept (s : State) (base : Nat) : Kept :=
  let h := s.imgWord base 5
  let e := (s.coreAt (fld h 0 10)).entry (fld h 10 5)
  if e.gen.toNat = fld h 16 8 then nth Kept.none e.kept (fld (s.imgWord base 0) 24 3) else Kept.none

/-- The image at `base` reloaded onto core `a`, bound to entry `k` of core `b`. -/
def State.reload (s : State) (a b k base : Nat) : State :=
  let e := (s.coreAt b).entry k
  let asid := imageAsid e.image
  let w := s.ctxEntry (dieOf a) asid
  let s1 := (s.acqEffect a).touchRange base 0x3000
  let hd := s1.imgWord base 0
  let img := fun (i : Nat) => s1.imgWord base i
  let x : Ctx := ctxFrom asid ((((w.set 2 (img 90)).set 3 (img 91)).set 4 (img 92)))
  let kept := s1.imgKept base
  let other := s1.imgSaver base ≠ a
  let d := (s1.imgWords base 2 2).flatMap (fun w => [fld w 0 32, fld w 32 32])
  let recs : Vector RetryRecord 16 := Vector.ofFn (fun i => Vector.ofFn (fun j => img (320 + 8 * i.val + j.val)))
  let tcws := fun (i n : Nat) => tab (fun j => tcwOf (s1.imgWords base (i + 4 * j) 4)) 0 n
  let q0 := imgCmds a x recs (tcws 160 (min 16 (img 144).toNat)) kept.cmds s1
  let q4 := imgCmds a x recs (tcws 224 (min 8 (img 145).toNat)) kept.cmds q0.1
  let q1 := (s1.imgWords base 256 16 ++ s1.imgWords base 449 4).take (min 20 (img 146).toNat)
  let cq := fun (i : Fin 4) => if i.val = 0 then q1.take 16 else s1.imgWords base (256 + 16 * i.val) (min 16 (img (146 + i.val)).toNat)
  let wait := if hd.getLsbD 18 then some (kept.wait.getD .resumed) else kept.wait
  let s2 := q4.1.mapCore a (fun c =>
    { c.fresh b k e x with
      regs := s1.imgRegs base, anvinj := c.anvinj, wait := wait, liveMap := img 1, ranges := Vector.ofFn (fun i => BitVec.ofNat 32 (nth 0 d i.val)),
      links := Vector.ofFn (fun i => { value := img (80 + i.val), full := (img 84).getLsbD i.val, poison := (img 84).getLsbD (4 + i.val) }),
      skx := (img 93).truncate 10, records := recs, q0 := q0.2 ++ c.q0, q4 := q4.2 ++ c.q4,
      cpl := Vector.ofFn (fun i => { words := cq i, held := 0, reserved := 0 }),
      mc := if other then Vector.ofFn (fun i => (img (96 + i.val)).truncate 32) else c.mc,
      bars := if other then Vector.ofFn (fun i => barOf (img (112 + i.val))) else c.bars })
  let s3 := s2.mapForge (forgeOf a) (fun g =>
    g.setHeld (slotOf a) (g.held (slotOf a) ++ (q1.drop 16).map (fun w => { word := w, ends := none, drop := false, freeze := none })))
  let s4 := s3.putRanges a (validRanges d) (base + 0x3000)
  if w[0].getLsbD 0 then s4 else s4.ctxFault a (s1.imgRegs base).pc

/-- The entry of a restored task. -/
def State.restarted (s : State) (b k : Nat) : State :=
  s.mapCore b (fun c =>
    let e := c.entry k
    c.setEntry k (if e.state = .preempted then { e with state := .running, rsv := false, kept := [] } else e))
/-- One core of a PREEMPTED task restored from its place in the save area; an image that cannot be read freezes the core at
once. -/
def State.restoreCore (s : State) (a b k : Nat) : State :=
  let e := (s.coreAt b).entry k
  let base := imageSave e.image + taskPos a b e * imageStride e.image
  match s.imgOk base with
  | none => s.reload a b k base
  | some _ =>
    let x := ctxFrom (imageAsid e.image) (s.ctxEntry (dieOf a) (imageAsid e.image))
    ((s.mapCore a (fun c => c.fresh b k e x)).acqEffect a).freezeClass a 0x11 0 0 (imagePc e.image) (wn base)

/-- The members of a gang task that were fused at the save take their places again, each with as many instructions of the gang
issued as then (14 R324, R313). -/
def State.refuse (s : State) (b k : Nat) (kept : List Kept) : State :=
  let e := (s.coreAt b).entry k
  s.each (taskCores b e) (fun t a =>
    let h := nth Kept.none kept (taskPos a b e)
    if (t.coreAt a).bound == some (b, k) then t.mapCore a (fun c => { c with gang := h.gang, trail := h.trail }) else t)

/-- The cores of a PREEMPTED task that have an image: not a member that had ended before the save. -/
def WttEntry.savedCores (e : WttEntry) (b : Nat) : List Nat :=
  (taskCores b e).filter (fun a => e.kept.isEmpty || (nth Kept.none e.kept (taskPos a b e)).saved)
/-- An image of a PREEMPTED task can not be read now. -/
def State.imagesHeld (s : State) (b k : Nat) : Bool := (((s.coreAt b).entry k).savedCores b).any (fun a => s.imageHeld a b k)
/-- A PREEMPTED task restored onto the cores that were saved; a member that had ended is given back. Nothing happens while a home can not
serve an image. -/
def State.restoreTask (s : State) (b k : Nat) : State :=
  let e := (s.coreAt b).entry k
  if s.imagesHeld b k then s else
  let back := (taskCores b e).filter (fun a => !(e.savedCores b).contains a && (s.coreAt a).reserved == some (.gang b k))
  let t := (s.each (e.savedCores b) (fun t a => t.restoreCore a b k)).each back (fun t a => t.mapCore a (fun c => { c with reserved := none }))
  let u := if imageGmask e.image = 0 then t else t.refuse b k e.kept
  u.restarted b k

/-! ### The save commands (11 R237) -/

/-- The command at the head of a die's save queue, when it has this opcode; an engine whose last word waits for room takes none (11
R235). -/
def State.saveHead (s : State) (d op : Nat) : Option Cmd :=
  if (s.dieAt d).saveEnded.isEmpty then (s.dieAt d).savePort.queue.head?.filter (fun k => tcwOp k.tcw == op) else none
/-- The head taken off the queue. -/
def State.savePop (s : State) (d : Nat) : State :=
  s.mapDie d (fun x => { x with savePort := { x.savePort with queue := x.savePort.queue.drop 1 } })
/-- Operands of a save command within its statement; MODE 3 is not. -/
def saveOk (t : Tcw) : Bool :=
  tcwEng t == 0 && tcwFmtA t == 0 && tcwFmtB t == 0 &&
  match tcwOp t with
  | 0x48 => tcwF t 1 10 54 == 0 && tcwF t 1 7 1 == 0 && tcwF t 2 0 64 == 0 && tcwF t 3 0 64 == 0 && tcwF t 1 8 2 != 3
  | _ => tcwF t 1 7 57 == 0 && tcwF t 2 52 12 == 0 && tcwF t 3 5 59 == 0

/-- The SVCTX at the head of a die's save queue, when it has this mode or is bad. -/
def State.runSvctx (s : State) (d mode : Nat) (run : State → Cmd → Nat → Nat → Nat → State) : State :=
  match s.saveHead d 0x48 with
  | none => s
  | some k =>
    if !saveOk k.tcw then (s.savePop d).saveEnd d k stBadop
    else if tcwF k.tcw 1 8 2 ≠ mode then s
    else
      let a := 128 * d + tcwF k.tcw 1 0 7
      match (s.coreAt a).bound with
      | none => (s.savePop d).saveEnd d k stNotask
      | some (b, e) => run (s.savePop d) k a b e
/-- MODE 0: pre-emption asked for. -/
def execSvctxRequest (d : Nat) (s : State) : Host.Outcome State Fault Refusal :=
  .next (s.runSvctx d 0 (fun t k a _ _ => (t.mapCore a (fun c => { c with supv := true })).saveEnd d k stOk))
/-- MODE 1: every core of the task stops at its next chunk boundary. -/
def execSvctxForced (d : Nat) (s : State) : Host.Outcome State Fault Refusal :=
  .next (s.runSvctx d 1 (fun t k a b e =>
    (t.each (t.boundCores b e) (fun u x => u.mapCore x (fun c => { c with forced := true }))).mapCore a (fun c =>
      { c with force := c.force ++ [k] })))
/-- MODE 2: a frozen core's task saved as it stands, pending entries discarded. -/
def execSvctxFrozen (d : Nat) (s : State) : Host.Outcome State Fault Refusal :=
  .next (s.runSvctx d 2 (fun t k a b e =>
    let c := t.coreAt a
    let frozen := match c.status with | .frozen _ | .halted => true | _ => false
    if !frozen || c.crdepth != 0 then t.saveEnd d k stBadop
    else
      t.each (t.boundCores b e) (fun u x =>
        let w := (u.coreAt x).wait
        let v := ((u.settle x).mapCore x (fun c => ({ c.endAhead.abandonTo with wait := w, scoreboard := [] } : Core).flushBuf)).settle x
        let j : SaveJob := { kind := 2, pc := (v.coreAt x).regs.pc, yield := false, cmds := if x = a then [k] else [] }
        match (v.coreAt x).save with
        | some j0 => v.mapCore x (fun c => { c with save := some { j0 with kind := 2, cmds := j0.cmds ++ j.cmds } })
        | none => v.beginSave x j)))

/-- RSCTX. -/
def execRsctx (d : Nat) (s : State) : Host.Outcome State Fault Refusal :=
  match s.saveHead d 0x49 with
  | none => .next s
  | some k =>
    let t := s.savePop d
    let a := 128 * d + tcwF k.tcw 1 0 7
    let base := tcwF k.tcw 2 0 52
    let e := tcwF k.tcw 3 0 5
    if !saveOk k.tcw || base % 16384 != 0 then .next (t.saveEnd d k stBadop)
    else if (t.coreAt a).bound.isSome || (t.coreAt a).status != .idle then .next (t.saveEnd d k stBusy)
    else if s.rangeHeld base 0x4000 then .next s
    else match t.imgOk base with
      | some st => .next (t.saveEnd d k st)
      | none => .next (((t.reload a a e base).restarted a e).saveEnd d k stOk)

end Sys2Proof.Machine
end

