-- ==== Sys2Proof/Machine/Swage.lean ====
section
/-! DEFINITION. The swage engine (11_engine_queues R234, 02_formats R49 to R52, R413, 07_memories R167, R168): a tile read
and dequantised, and the billet image that is written for it. What R413 leaves to the engine's own procedure are free
values of Config, held to what R52 and R413 ask of them (log entry 66). -/

namespace Sys2Proof.Machine

/-! ### Reading the tile -/

/-- Row stride in elements. -/
def swStride (t : Tcw) : Nat := if tcwF t 1 48 16 = 0 then 64 else tcwF t 1 48 16

/-- Whether a swage command's operands are within its statement; SFACTQ takes PARAM 0 as an address (DEDUCED, log entry 123). -/
def swOk (t : Tcw) : Bool :=
  let fa := tcwFmtA t
  tcwEng t == 0 && tcwFmtB t == 0x22 && tcwF t 2 48 16 == 0 && tcwF t 3 48 16 == 0 && tcwF t 2 0 8 == 0 &&
  (if tcwOp t = 0x10 then (within fa 2 5 || fa == 0x0A) && tcwF t 3 0 48 == 0
   else (fmtMx fa || within fa 0x18 3) && (fa != 0x1A || swStride t == 64))

/-- The codes of rows `r`, `r + 1`, …: 64 elements each. -/
def tileRows (c : Cmd) : Nat → Nat → Run → List Elem → Run × List Elem
  | 0, _, r, acc => (r, acc)
  | n + 1, i, r, acc =>
    let w := fmtBits (tcwFmtA c.tcw)
    let off := i * swStride c.tcw * w
    let skip := off % 8 / w
    let x := r.table c (tgSrc c.tcw + wn (off / 8))
    if r.err.isSome then (r, acc)
    else match x.1.st.engineRead x.2 (tgSrc c.tcw + wn (off / 8)) (sizeOf' w (64 + skip)) with
      | .error e => (x.1.fails x.2 e, acc)
      | .ok (s, l) =>
        tileRows c n (i + 1) { x.1 with st := s, poison := r.poison || l.any Prod.snd } (acc ++ (elemsOf w (64 + skip) l).drop skip)

/-- The tile as FP32 codes in row order, with the flags of its dequantisation. -/
def tileF32 (c : Cmd) (r : Run) (codes : List Elem) : Run × List Elem :=
  let fa := tcwFmtA c.tcw
  let done := fun (r : Run) (x : List Elem × BitVec 5) => ({ r with flags := r.flags ||| x.2 }, x.1)
  let params := fun (w g : Nat) (f : Nat → Nat → FRes) =>
    let x := r.table c (tgParam c.tcw)
    match x.1.st.engineRead x.2 (tgParam c.tcw) (sizeOf' w (4096 / g)) with
    | .error e => (x.1.fails x.2 e, ([] : List Elem))
    | .ok (s, l) =>
      done { x.1 with st := s, poison := r.poison || l.any Prod.snd } (dequantGroups g f codes (elemsOf w (4096 / g) l))
  if r.err.isSome then (r, codes)
  else if tcwOp c.tcw = 0x10 then done r (convAll (convElem fa 0x02 0 false) codes)
  else if fmtMx fa then params 8 32 (fun p v => mxDequant (fa - 0x10) fmtF32 0 p v)
  else params 32 (asymSize (asymType fa)) (fun p v => asymDequant fmtF32 0 (bits p 0 16) (bits p 16 8) v)

/-! ### The procedure of stepping B0 (R413, 18 R384, R385) -/

/-- The tile whose image 18 R385 gives: half the Sylvester matrix of order 4, its columns scaled by 2, 1, 1 and 1/2. -/
def hadamardTile : List (BitVec 32) :=
  (tab id 0 64).flatMap (fun r => tab (fun q =>
    if r < 4 ∧ q < 4 then
      nth 0 [0x3F800000, 0x3F000000, 0x3F000000, 0x3E800000] q ||| (if popcount 2 (r &&& q) % 2 = 1 then 0x80000000 else 0)
    else 0) 0 64)
/-- The image's θ and φ codes by stage and MZI index: in the U stage alone. -/
def hadamardTheta (s k : Nat) : BitVec 16 :=
  if s = 1 ∧ [0, 1, 63, 64].contains k then 0x6000 else if s = 1 ∧ [32, 95].contains k then 0x4000 else 0
def hadamardPhi (s k : Nat) : Bool := s == 1 && [0, 1, 32, 63, 64, 95].contains k
/-- What the procedure chooses for a tile where R413 leaves a choice: for that tile as its image shows, else free values. -/
def chosenExponent (tile : List (BitVec 32)) : Int := if tile = hadamardTile then 1 else Config.swageExponent tile
def chosenAttenuator (tile : List (BitVec 32)) (k : Nat) : BitVec 16 :=
  if tile = hadamardTile then nth 0 [0xFFFF, 0x8000, 0x8000, 0x4000] k else Config.swageAttenuator tile k
def chosenTheta (tile : List (BitVec 32)) : Nat → Nat → BitVec 16 := if tile = hadamardTile then hadamardTheta else Config.swageTheta tile
def chosenPhi (tile : List (BitVec 32)) : Nat → Nat → Bool := if tile = hadamardTile then hadamardPhi else Config.swagePhi tile

/-! ### The billet (R49 to R52, R413) -/

/-- Check vector entry `q`: the sum down column `q`, starting from its first element (R49). -/
def checkSum (tile : List Nat) (q : Nat) : Nat :=
  (tab (fun r => nth 0 tile (64 * r + q)) 1 63).foldl (fun a x => (fadd fmtF32 0 a x).1) (nth 0 tile q)

/-- The least integer at or above log2 of the largest magnitude. -/
def ceilLog2 (vs : List FVal) : Option Int :=
  vs.foldl (fun a v =>
    match v with
    | .fin _ m e =>
      if m = 0 then a
      else
        let x : Int := (if 2 ^ Nat.log2 m = m then Int.ofNat (Nat.log2 m) else Int.ofNat (Nat.log2 m) + 1) + e
        some (match a with | some y => if x < y then y else x | none => x)
    | _ => a) none

/-- Zero bytes. -/
def zeros (n : Nat) : List Byte := List.replicate n 0

/-- The 18,432 bytes of a billet image (R167, R168). -/
def billetImage (fa : Nat) (zero : Bool) (ew : Int) (att : List Nat) (phases : Nat) (tile : List (BitVec 32)) : List Byte :=
  let half := fun (f : Nat → Nat) => (tab f 0 2016).flatMap (fun x => toBytes 2 x)
  let theta := fun (stage : Nat) => half (fun k => if zero then 0 else thetaOf phases stage k)
  let phi := fun (stage : Nat) => half (phiOf phases stage)
  toBytes 8 (1 + lowBits 8 ew * 2 ^ 16 + b2n zero * 2 ^ 24 + fa * 2 ^ 32 + 0x10 * 2 ^ 40) ++ zeros 56 ++
  (tab (fun k => if zero then 0 else nth 0 att k) 0 64).flatMap (toBytes 2) ++
  (tab (checkSum (tile.map BitVec.toNat)) 0 64).flatMap (toBytes 4) ++ zeros 64 ++
  theta 0 ++ zeros 64 ++ theta 1 ++ zeros 64 ++ phi 0 ++ zeros 64 ++ phi 1 ++ zeros 1600

/-- The data effect of SFACT and SFACTQ, with E_w for AUX. -/
def runSwage (s : State) (c : Cmd) : Run × BitVec 16 :=
  if !swOk c.tcw then (Run.bad s, 0)
  else
    let w := fmtBits (tcwFmtA c.tcw)
    let ranges := tab (fun i => (tgSrc c.tcw + wn (i * swStride c.tcw * w / 8), sizeOf' w 65)) 0 64 ++
      (if tcwOp c.tcw = 0x10 then [] else [(tgParam c.tcw, if fmtMx (tcwFmtA c.tcw) then 128 else 16384 / asymSize (asymType (tcwFmtA c.tcw)))])
    let a := tileRows c 64 0 (Run.start (s.gather c ranges)) []
    let b := tileF32 c a.1 a.2
    if b.1.err.isSome then (b.1, 0)
    else match whole b.2 with
      | none => (b.1, 0)
      | some tile =>
        let vs := tile.map (funpack fmtF32)
        let codes := tile.map (BitVec.ofNat 32)
        let free := packPhases (chosenTheta codes) (chosenPhi codes)
        let write := fun (zero : Bool) (ew : Int) (att : List Nat) (phases : Nat) =>
          let image := billetImage (tcwFmtA c.tcw) zero ew att phases codes
          (b.1.write c (tgDst c.tcw) 8 (image.map (fun x => some x.toNat)), BitVec.ofNat 16 (lowBits 8 ew))
        if anyNonFinite vs then ({ b.1 with err := some { status := stBadop, addr := 0 } }, 0)
        else match ceilLog2 vs with
          | none => write true 0 [] free
          | some lo =>
            let t := scaleTile vs
            let g := gram t.rows
            let ew := t.exponent g lo (chosenExponent codes)
            if ew < -127 ∨ 127 < ew then ({ b.1 with err := some { status := stSwrange, addr := 0 } }, 0)
            else
              let att := tab (fun k => t.attenuator g ew k (chosenAttenuator codes k).toNat) 0 64
              write false ew att (t.phases ew att free)

/-! ### Commands in slots -/

/-- A turn of a swage command in its slot. -/
def State.swageRun (s : State) (d slot op : Nat) : State :=
  match (tfind (s.dieAt d).swage slot).filter (fun x => !x.done && tcwOp x.cmd.tcw == op) with
  | none => s
  | some x =>
    let r := s.slotTurn x runSwage
    r.1.mapDie d (fun y => { y with swage := tset y.swage slot r.2 })

/-- SFACT. -/
def execSfact (d slot : Nat) (s : State) : Host.Outcome State Fault Refusal := .next (s.swageRun d slot 0x10)
/-- SFACTQ. -/
def execSfactq (d slot : Nat) (s : State) : Host.Outcome State Fault Refusal := .next (s.swageRun d slot 0x11)

end Sys2Proof.Machine
end

