-- ==== Sys2Proof/Machine/Engines.lean ====
section
/-! DEFINITION. The die engines' own steps: the start of the next command in round-robin order, and the end of a command
(11_engine_queues R217, R222, R235). -/

namespace Sys2Proof.Machine

/-! ### Starting (R217) -/

/-- Whether the head of a core's queue of engine `e` may start with at most `limit` of the core's commands in `slots`. -/
def State.headStarts (s : State) (a e limit : Nat) (slots : Table Slot) : Bool :=
  match (s.coreAt a).cmdQ e with
  | [] => false
  | k :: _ =>
    decide ((slots.filter (fun x => x.2.cmd.core == a)).length < limit) &&
    !(tcwOrd k.tcw && (s.startedOf a).any (fun y => engOf (tcwOp y.tcw) == some e))
/-- The lowest free slot of some. -/
def freeSlot (n : Nat) (slots : Table Slot) : Option Nat := (tab id 0 n).find? (fun k => !thas slots k)
/-- The head of a core's queue put into a slot. -/
def State.intoSlot (s : State) (a e : Nat) (put : Die → Slot → Die) : State :=
  match (s.coreAt a).cmdQ e with
  | [] => s
  | k :: t =>
    (s.mapCore a (fun c => c.setCmdQ e t)).mapDie (dieOf a) (fun d =>
      put d { cmd := k, todo := [], done := false, code := 0, aux := 0, dest := [] })

/-- A start of the tongs engine. -/
def State.startTongs (s : State) (d : Nat) : State :=
  let x := s.dieAt d
  match freeSlot 16 x.tongs, (roundRobin d x.rrTongs).find? (fun a => s.headStarts a 1 4 x.tongs) with
  | some k, some a => s.intoSlot a 1 (fun x c => { x with tongs := tset x.tongs k c, rrTongs := (localOf a + 1) % 128 })
  | _, _ => s
/-- A start of the swage engine. -/
def State.startSwage (s : State) (d : Nat) : State :=
  let x := s.dieAt d
  match freeSlot 2 x.swage, (roundRobin d x.rrSwage).find? (fun a => s.headStarts a 3 1 x.swage) with
  | some k, some a => s.intoSlot a 3 (fun x c => { x with swage := tset x.swage k c, rrSwage := (localOf a + 1) % 128 })
  | _, _ => s
/-- A start of the collective engine: the next core's operation, when all its members are there. -/
def State.startColl (s : State) (d : Nat) : State :=
  match s.collTurn d with
  | some a => s.collServe a
  | none => s
/-- The command at the head of the migration queue. -/
def State.startMig (s : State) (d : Nat) : State :=
  match (s.dieAt d).migPort.queue with
  | [] => s
  | k :: _ => match tcwOp k.tcw with
    | 0x40 => s.runMigr d
    | 0x41 => s.runMigra d
    | _ => s.runMevac d
/-- The command at the head of the save queue. -/
def startSave (d : Nat) (s : State) : Host.Outcome State Fault Refusal :=
  match (s.dieAt d).savePort.queue with
  | [] => .next s
  | k :: _ =>
    if tcwOp k.tcw = 0x49 then execRsctx d s
    else match tcwF k.tcw 1 8 2 with
      | 1 => execSvctxForced d s
      | 2 => execSvctxFrozen d s
      | _ => execSvctxRequest d s

/-- ENGINE_START. -/
def execEngineStart (d : Nat) (e : Engine) (s : State) : Host.Outcome State Fault Refusal :=
  if 4 ≤ d then .next s
  else match e with
    | .tongs => .next (s.startTongs d)
    | .collective => .next (s.startColl d)
    | .swage => .next (s.startSwage d)
    | .migration => .next (s.startMig d)
    | .save => startSave d s

/-! ### Ending (R222) -/

/-- How a command whose data effect is done ends: an unwind that overtook it poisons what it wrote. -/
def State.settleEnd (s : State) (k : Cmd) (code : Word) (dest : NatSet) : State × Word :=
  if k.unwound then (s.poisonUnits dest, codeOf stPoisoned (BitVec.ofNat 5 (fld code 8 5)) 0) else (s, code)
/-- Token and word of a command, when there is room for the word. -/
def State.endCmd (s : State) (k : Cmd) (code : Word) (aux : Nat) (dest : NatSet) : Option State :=
  let r := s.settleEnd k code dest
  if wantsWord k.tcw r.2 && !(s.coreAt k.core).cplRoom ((engOf (tcwOp k.tcw)).getD 0) then none
  else some (r.1.mapCore k.core (fun c => c.finish k r.2 aux))

/-- The members of an operation on a die end where they can; the others stay. -/
def endMembers (d : Nat) : List CollMember → State → State × List CollMember
  | [], s => (s, [])
  | m :: t, s =>
    if m.done && dieOf m.cmd.core == d then
      match s.endCmd m.cmd m.code 0 m.dest with
      | some u => endMembers d t u
      | none => let r := endMembers d t s; (r.1, m :: r.2)
    else let r := endMembers d t s; (r.1, m :: r.2)

/-- A completion word put into a port that has room. -/
def Port.give (p : Port) (w : Word) : Option Port := if p.cpl.length < 32 then some { p with cpl := p.cpl ++ [w] } else none

/-- COMMAND_END. -/
def execCommandEnd (d : Nat) (e : Engine) (slot : Nat) (s : State) : Host.Outcome State Fault Refusal :=
  let x := s.dieAt d
  match e with
  | .tongs =>
    (match (tfind x.tongs slot).filter Slot.done with
      | none => .next s
      | some c => match s.endCmd c.cmd c.code c.aux.toNat c.dest with
        | some t => .next (t.mapDie d (fun y => { y with tongs := tdel y.tongs slot }))
        | none => .next s)
  | .swage =>
    (match (tfind x.swage slot).filter Slot.done with
      | none => .next s
      | some c => match s.endCmd c.cmd c.code c.aux.toNat c.dest with
        | some t => .next (t.mapDie d (fun y => { y with swage := tdel y.swage slot }))
        | none => .next s)
  | .collective =>
    (match s.colls[slot]? with
      | none => .next s
      | some (op, ms) =>
        let r := endMembers d ms s
        if r.2.isEmpty then .next { r.1 with colls := r.1.colls.eraseIdx slot } else .next (r.1.setColl slot op r.2))
  | .migration =>
    (match (tfind x.migs slot).bind MigEntry.ended with
      | some w => match x.migPort.give w with
        | some p => .next (s.mapDie d (fun y => { y with migPort := p, migs := tdel y.migs slot }))
        | none => .next s
      | none => match x.migEnded with
        | [] => .next s
        | w :: t => match x.migPort.give w with
          | some p => .next (s.mapDie d (fun y => { y with migPort := p, migEnded := t }))
          | none => .next s)
  | .save =>
    match x.saveEnded with
    | [] => .next s
    | w :: t => match x.savePort.give w with
      | some p => .next (s.mapDie d (fun y => { y with savePort := p, saveEnded := t }))
      | none => .next s

end Sys2Proof.Machine
end

