-- ==== Sys2Proof/Machine/Fpu.lean ====
section
/-! DEFINITION. The FPU group, major 0x1F (04_scalar_registers R93 to R95). -/

namespace Sys2Proof.Machine

/-- FADD (R93). -/
def execFadd (d a b : BitVec 5) (l : BitVec 4) (s : State) : Host.Outcome State Fault Refusal :=
  opFRR d a b l (fadd fmtF64) s

/-- FSUB (R93). -/
def execFsub (d a b : BitVec 5) (l : BitVec 4) (s : State) : Host.Outcome State Fault Refusal :=
  opFRR d a b l (fsub fmtF64) s

/-- FMUL (R93). -/
def execFmul (d a b : BitVec 5) (l : BitVec 4) (s : State) : Host.Outcome State Fault Refusal :=
  opFRR d a b l (fmul fmtF64) s

/-- FDIV (R93). -/
def execFdiv (d a b : BitVec 5) (l : BitVec 4) (s : State) : Host.Outcome State Fault Refusal :=
  opFRR d a b l (fdiv fmtF64) s

/-- FMIN, by R30 (R93). -/
def execFmin (d a b : BitVec 5) (l : BitVec 4) (s : State) : Host.Outcome State Fault Refusal :=
  opFRR d a b l (fun _ => fminmax false fmtF64) s

/-- FMAX, by R30 (R93). -/
def execFmax (d a b : BitVec 5) (l : BitVec 4) (s : State) : Host.Outcome State Fault Refusal :=
  opFRR d a b l (fun _ => fminmax true fmtF64) s

/-- FCEQ: quiet (R93). -/
def execFceq (d a b : BitVec 5) (l : BitVec 4) (s : State) : Host.Outcome State Fault Refusal :=
  opFRR d a b l (fun _ x y => boolRes (fcompare .eq fmtF64 x y)) s

/-- FCLT: signalling (R93). -/
def execFclt (d a b : BitVec 5) (l : BitVec 4) (s : State) : Host.Outcome State Fault Refusal :=
  opFRR d a b l (fun _ x y => boolRes (fcompare .lt fmtF64 x y)) s

/-- FCLE: signalling (R93). -/
def execFcle (d a b : BitVec 5) (l : BitVec 4) (s : State) : Host.Outcome State Fault Refusal :=
  opFRR d a b l (fun _ x y => boolRes (fcompare .le fmtF64 x y)) s

/-- FMAC: A · B + D, one rounding; reads s[d] (R93). -/
def execFmac (d a b : BitVec 5) (l : BitVec 4) (s : State) : Host.Outcome State Fault Refusal :=
  opF [sR a, sR b, sR d] d l
    (fun c => ffma fmtF64 c.regs.frm (c.readS a).toNat (c.readS b).toNat (c.readS d).toNat) s

/-- FSQRT (R93). -/
def execFsqrt (d a : BitVec 5) (l : BitVec 4) (s : State) : Host.Outcome State Fault Refusal :=
  opFR d a l (fsqrt fmtF64) s

/-- FCVTDL: binary64 to a signed 64-bit integer, by R32 (R93). -/
def execFcvtdl (d a : BitVec 5) (l : BitVec 4) (s : State) : Host.Outcome State Fault Refusal :=
  opFR d a l (fun rm x => let r := fToInt fmtF64 rm (-(2 ^ 63)) (2 ^ 63 - 1) x; (lowBits 64 r.1, r.2)) s

/-- FCVTLD: a signed 64-bit integer to binary64 (R93). -/
def execFcvtld (d a : BitVec 5) (l : BitVec 4) (s : State) : Host.Outcome State Fault Refusal :=
  opFR d a l (fun rm x => intToF fmtF64 rm (sxt 64 x)) s

/-- FCVTSD: binary32 in bits 31:0 to binary64 (R93). -/
def execFcvtsd (d a : BitVec 5) (l : BitVec 4) (s : State) : Host.Outcome State Fault Refusal :=
  opFR d a l (fun rm x => fcvt fmtF32 fmtF64 rm (bits x 0 32)) s

/-- FCVTDS: binary64 to binary32 in bits 31:0 (R93). -/
def execFcvtds (d a : BitVec 5) (l : BitVec 4) (s : State) : Host.Outcome State Fault Refusal :=
  opFR d a l (fcvt fmtF64 fmtF32) s

/-- FCLASS (R95). -/
def execFclass (d a : BitVec 5) (l : BitVec 4) (s : State) : Host.Outcome State Fault Refusal :=
  opFR d a l (fun _ x => quiet (fclass fmtF64 x)) s

end Sys2Proof.Machine
end

