-- ==== Sys2Proof/Machine/Imm.lean ====
section
/-! DEFINITION. The immediate forms, majors 0x02 to 0x09 (04_scalar_registers R86). -/

namespace Sys2Proof.Machine

/-- An operation on s[a] and a constant. -/
def opI (d a : BitVec 5) (f : Word → Word) : State → Host.Outcome State Fault Refusal := opR d a f

/-- ADDI: sign-extended (R86). -/
def execAddi (d a : BitVec 5) (i : BitVec 16) (s : State) : Host.Outcome State Fault Refusal :=
  opI d a (fun x => x + sx16 i) s

/-- ANDI: zero-extended (R86). -/
def execAndi (d a : BitVec 5) (i : BitVec 16) (s : State) : Host.Outcome State Fault Refusal :=
  opI d a (fun x => x &&& zx16 i) s

/-- ORI: zero-extended (R86). -/
def execOri (d a : BitVec 5) (i : BitVec 16) (s : State) : Host.Outcome State Fault Refusal :=
  opI d a (fun x => x ||| zx16 i) s

/-- XORI: zero-extended (R86). -/
def execXori (d a : BitVec 5) (i : BitVec 16) (s : State) : Host.Outcome State Fault Refusal :=
  opI d a (fun x => x ^^^ zx16 i) s

/-- SLTI: signed, sign-extended (R86). -/
def execSlti (d a : BitVec 5) (i : BitVec 16) (s : State) : Host.Outcome State Fault Refusal :=
  opI d a (fun x => boolW (x.slt (sx16 i))) s

/-- SLTIU: unsigned, zero-extended (R86). -/
def execSltiu (d a : BitVec 5) (i : BitVec 16) (s : State) : Host.Outcome State Fault Refusal :=
  opI d a (fun x => boolW (x.ult (zx16 i))) s

/-- LUI: sext(imm16 · 2^16, 64) (R86). -/
def execLui (d : BitVec 5) (i : BitVec 16) (s : State) : Host.Outcome State Fault Refusal :=
  opS [] d (fun _ => sx16 i <<< 16) s

/-- SLLI: by imm16[5:0] (R86). -/
def execSlli (d a : BitVec 5) (n : BitVec 6) (s : State) : Host.Outcome State Fault Refusal :=
  opI d a (fun x => x <<< n.toNat) s

/-- SRLI: by imm16[5:0] (R86). -/
def execSrli (d a : BitVec 5) (n : BitVec 6) (s : State) : Host.Outcome State Fault Refusal :=
  opI d a (fun x => x >>> n.toNat) s

/-- SRAI: by imm16[5:0] (R86). -/
def execSrai (d a : BitVec 5) (n : BitVec 6) (s : State) : Host.Outcome State Fault Refusal :=
  opI d a (fun x => x.sshiftRight n.toNat) s

/-- RORI: by imm16[5:0] (R86). -/
def execRori (d a : BitVec 5) (n : BitVec 6) (s : State) : Host.Outcome State Fault Refusal :=
  opI d a (fun x => rotR x n.toNat) s

end Sys2Proof.Machine
end

