-- ==== Sys2Proof/Machine/Link.lean ====
section
/-! DEFINITION. The links between neighbouring cores, members 7 to 10 of major 0x24 (06_special_registers R123 to R126). -/

namespace Sys2Proof.Machine

/-- The neighbour of a compute core in direction `k` (R123): 0 west, 1 east, 2 north, 3 south. -/
def neighbour (a k : Nat) : Option Nat :=
  let c := localOf a
  if isSup a then none
  else match k with
    | 0 => if c % 16 = 0 then none else some (a - 1)
    | 1 => if c % 16 = 15 then none else some (a + 1)
    | 2 => if c / 16 = 0 then none else some (a - 16)
    | _ => if c / 16 = 7 then none else some (a + 16)
/-- The slot of the neighbour in direction `k` that faces back. -/
def facing (k : BitVec 2) : BitVec 2 := k ^^^ 1

def Core.slot (c : Core) (k : BitVec 2) : LinkSlot := c.links[k.toNat]'k.isLt
def Core.setSlot (c : Core) (k : BitVec 2) (x : LinkSlot) : Core := { c with links := c.links.set k.toNat x k.isLt }
/-- Whether a slot is taken: full, or with a value on its way to it. -/
def State.slotTaken (s : State) (b : Nat) (k : BitVec 2) : Bool :=
  ((s.coreAt b).slot k).full || s.linkMsgs.any (fun m => m.1 == b && m.2.1 == k)

/-- A slot's value into s[d], its poison bit with it. -/
def Core.takeLink (c : Core) (d : BitVec 5) (x : LinkSlot) : Core := if x.poison then c.poisonS d x.value else c.writeS d x.value

/-- A member that names a direction. -/
def opLink (p : Plan) (k : BitVec 2) (body : State → Nat → Res) : State → Host.Outcome State Fault Refusal :=
  issue p (fun s =>
    match neighbour s.cur k.toNat with
    | none => .fault (.access 0)
    | some b => body s b)

/-- LKRD: behind the commit of the chunk it closes, which no squash then repeats with it (R126). -/
def execLkrd (d : BitVec 5) (k : BitVec 2) (l : BitVec 4) (s : State) : Host.Outcome State Fault Refusal :=
  opLink { Plan.multi [] [sR d] l with cls := .alone, ahead := .ends } k (fun s _ =>
    let x := s.core.slot k
    if !x.full then .wait .link
    else .done (s.settled.me (fun c => (c.setSlot k { x with full := false, poison := false }).takeLink d x))) s
/-- LKRDF. -/
def execLkrdf (d : BitVec 5) (k : BitVec 2) (l : BitVec 4) (s : State) : Host.Outcome State Fault Refusal :=
  opLink (Plan.multi [] [sR d] l) k (fun s _ =>
    let x := s.core.slot k
    if !x.full then .wait .link else .done (s.me (fun c => c.takeLink d x))) s
/-- LKWR, behind the commit of the chunk it closes: the value leaves for the neighbour's slot, which must be free of any other; toward a frozen core it waits. A poisoned value,
when UE_CONSUMED lets the instruction go on, is not sent (R125). -/
def execLkwr (k : BitVec 2) (a : BitVec 5) (s : State) : Host.Outcome State Fault Refusal :=
  opLink (Plan.closer [sR a] []) k (fun s b =>
    let t := s.settled
    if s.core.poisoned (sR a) then .done t
    else if s.slotTaken b (facing k) || (s.coreAt b).status.stopped then .wait .link
    else .done { t with linkMsgs := t.linkMsgs ++ [(b, facing k, s.core.readS a)] }) s
/-- LKSTAT. A supervisor core has no link slots and R125 does not say what it reads there: 0, without a fault (DESIGN CHOICE, log
entry 109). -/
def execLkstat (d : BitVec 5) (s : State) : Host.Outcome State Fault Refusal :=
  issue (Plan.simple [] [sR d]) (fun s =>
    let bitsOf := fun (f : Nat → Bool) => ofDigits 1 (tab (fun k => b2n (f k)) 0 4)
    let out := bitsOf (fun k =>
      match neighbour s.cur k with
      | some b => s.slotTaken b (facing (BitVec.ofNat 2 k))
      | none => false)
    .done (s.me (fun c => c.writeS d (wn (bitsOf (fun k => (neighbour s.cur k).isSome) * 256 + out * 16 +
      bitsOf (fun k => (c.slot (BitVec.ofNat 2 k)).full)))))) s

/-- LINK_SLOT_ARRIVAL: the oldest value on its way to a core's slot lands; at a slot that a restore has filled meanwhile it waits
(R126). -/
def execLinkSlotArrival (core : Nat) (dir : BitVec 2) (s : State) : Host.Outcome State Fault Refusal :=
  match s.linkMsgs.find? (fun m => m.1 == core && m.2.1 == dir) with
  | none => .next s
  | some m =>
    if ((s.coreAt core).slot dir).full then .next s
    else .next (({ s with linkMsgs := s.linkMsgs.erase m }).mapCore core (fun c =>
      c.setSlot dir { value := m.2.2, full := true, poison := false }))

end Sys2Proof.Machine
end

