-- ==== Sys2Proof/Machine/VecMem.lean ====
section
/-! DEFINITION. Vector memory access, majors 0x32 to 0x34 (07_memories R162 to R164, 08_consistency R169). -/

namespace Sys2Proof.Machine

/-- A loaded vector written whole, with poison when a loaded byte was poisoned (07 R156). -/
def Core.loadV (c : Core) (d : BitVec 5) (x : VWord) (poison : Bool) : Core :=
  if poison then c.poisonV d x else c.writeV d x

/-- VLD: 256 bytes from s[a] + sext(off12) · 256 upwards. -/
def execVld (d a : BitVec 5) (o : BitVec 12) (l : BitVec 4) (s : State) : Host.Outcome State Fault Refusal :=
  issue (Plan.memory [sR a] [vR d] l) (fun s =>
    s.loads [(s.core.memAddr a o 256, 256)] (fun t r =>
      .done (t.me (fun c => c.loadV d (BitVec.ofNat 2048 (ofBytes (r.flatMap Prod.fst))) (r.any Prod.snd))))) s

/-- VST: the 256 bytes of v[d]. -/
def execVst (d a : BitVec 5) (o : BitVec 12) (l : BitVec 4) (s : State) : Host.Outcome State Fault Refusal :=
  issue (Plan.memory [vR d, sR a] [] l) (fun s =>
    s.stores [(s.core.memAddr a o 256, toBytes 256 (s.core.readV d).toNat)] .done) s

/-- The address of lane `l`: a stride from a register, or an offset from a vector's lane. -/
def Core.strideAt (c : Core) (a b : BitVec 5) (l : Nat) : Word := c.readS a + wn l * c.readS b
def Core.gatherAt (c : Core) (a b : BitVec 5) (l : Nat) : Word := c.readS a + wn (elem 32 (c.readV b) l)
/-- The lanes that a predicate activates, in rising order. -/
def activeLanes (q : PWord) : List Nat := (tab id 0 64).filter (active q 32)

/-- Loads of active lanes, one access each; the other lanes keep their value. -/
def laneLoads (d : BitVec 5) (p : BitVec 3) (at' : Core → Nat → Word) (s : State) : Res :=
  let lanes := activeLanes (s.core.readP p)
  s.loads (lanes.map (fun l => (at' s.core l, 4))) (fun t r =>
    let x := (lanes.zip r).foldl (fun v y => setElem 32 v y.1 (ofBytes y.2.1)) (t.core.readV d)
    .done (t.me (fun c =>
      if r.any Prod.snd then c.poisonV d x else if lanes.length = 64 then c.writeV d x else c.mergeV d x)))

/-- One lane's store as a chunk of its own, granted at once (R173). -/
def State.laneCommit (s : State) (va : Word) (t : Target) (bytes : List Byte) (instrs : Nat) : State :=
  let s1 := ({ s.me Core.openChunk with leave := false } : State).recordWrite s.cur va t bytes
  match s1.core.chunk with
  | some k => (s1.me (fun c => { c with chunk := none })).commitChunk s.cur { k with instrs := instrs } true
  | none => s1

/-- Stores of active lanes in rising order; lanes that write more than 64 lines become chunks of their own (R169). -/
def laneStores (d : BitVec 5) (p : BitVec 3) (at' : Core → Nat → Word) (s : State) : Res :=
  let accs := (activeLanes (s.core.readP p)).map (fun l => (at' s.core l, toBytes 4 (elem 32 (s.core.readV d) l)))
  s.storesReady accs (fun t l =>
    if (linesOf (l.flatMap Target.cells)).length ≤ 64 || t.core.ahead.isSome then s.stores accs .done
    else if !t.core.scoreboard.isEmpty then .wait .scoreboard
    else
      let left := t.me Core.leaveChunk
      match left.selfHit with
      | some u => .held u
      | none =>
        let n := accs.length
        if left.settled.incomplete s.cur then .wait .switch else
        .done ((tab id 0 n).zip (accs.zip l) |>.foldl (fun u x => u.laneCommit x.2.1.1 x.2.2 x.2.1.2 (b2n (x.1 + 1 == n))) left.settled))

/-- VLDS. -/
def execVlds (d a b : BitVec 5) (p : BitVec 3) (l : BitVec 4) (s : State) : Host.Outcome State Fault Refusal :=
  issue (Plan.memory [sR a, sR b, pR p] [vR d] l) (laneLoads d p (fun c => c.strideAt a b)) s
/-- VSTS. -/
def execVsts (d a b : BitVec 5) (p : BitVec 3) (l : BitVec 4) (s : State) : Host.Outcome State Fault Refusal :=
  issue (Plan.memory [vR d, sR a, sR b, pR p] [] l) (laneStores d p (fun c => c.strideAt a b)) s
/-- VGTH. -/
def execVgth (d a b : BitVec 5) (p : BitVec 3) (l : BitVec 4) (s : State) : Host.Outcome State Fault Refusal :=
  issue (Plan.memory [sR a, vR b, pR p] [vR d] l) (laneLoads d p (fun c => c.gatherAt a b)) s
/-- VSCT. -/
def execVsct (d a b : BitVec 5) (p : BitVec 3) (l : BitVec 4) (s : State) : Host.Outcome State Fault Refusal :=
  issue (Plan.memory [vR d, sR a, vR b, pR p] [] l) (laneStores d p (fun c => c.gatherAt a b)) s

/-- VLDB: one element broadcast (R164). -/
def execVldb (d a : BitVec 5) (w : BitVec 3) (l : BitVec 4) (s : State) : Host.Outcome State Fault Refusal :=
  issue (Plan.memory [sR a] [vR d] l) (fun s =>
    let n := widthW w.toNat
    s.loads [(s.core.readS a, n / 8)] (fun t r =>
      .done (t.me (fun c => c.loadV d (vtab n (fun _ => ofBytes (r.flatMap Prod.fst))) (r.any Prod.snd))))) s

end Sys2Proof.Machine
end

