-- ==== Sys2Proof/Machine/MemoryEvents.lean ====
section
/-! DEFINITION. The device's own steps around memory: commits and notices, scoreboard ends and late faults, run-ahead,
arrivals of messages, barriers and signals, packets, hotness, scrub, refresh and the vertical bus (08_consistency R171,
R175, R183, 04_scalar_registers R79, 10_memory_integrity R203 to R210, 13_translation_tables R284, R293 to R295, 15 R332,
16 R350, R354, R358). -/

namespace Sys2Proof.Machine

/-! ### Commits and acknowledgements (08 R171, R177, R183) -/

/-- CHUNK_COMMIT: the oldest closed chunk of a core is granted; none of its entries is pending, since it closed behind them. -/
def execChunkCommit (a : Nat) (s : State) : Host.Outcome State Fault Refusal := .next (s.grant a)

/-- The first push that can land, with those it is tied to, and the others: `kept` are the older ones, which wait. -/
def State.nextPush (s : State) : List Push → List Push → Option (List Push × List Push)
  | _, [] => none
  | kept, p :: l =>
    if s.pushHeld (p :: l) kept p then s.nextPush (kept ++ [p]) l
    else some (p :: l.filter p.tiedWith, kept ++ l.filter (fun q => !p.tiedWith q))
/-- HOME_ACKNOWLEDGE: the oldest line on its way that its home takes lands; one of a scaled group with every other line of its commit's
scaled groups (R184). -/
def execHomeAcknowledge (s : State) : Host.Outcome State Fault Refusal :=
  match s.nextPush [] s.pushes with
  | none => .next s
  | some (l, rest) => .next (l.foldl State.landPush { s with pushes := rest }).pruneCommits

/-- WRITE_NOTICE: the oldest notice reaches its die's arbiter. -/
def execWriteNotice (s : State) : Host.Outcome State Fault Refusal :=
  match s.notices with
  | [] => .next s
  | (d, line) :: t => .next (({ s with notices := t } : State).noticeLine d line)

/-! ### The scoreboard (04 R79, 08 R175) -/

/-- An entry that waits for its own end: neither completing, nor faulted, nor held by what its instruction waits for. -/
def SbEntry.pending (e : SbEntry) : Bool := !e.completing && !e.faulted && e.waits.isNone

/-- SCOREBOARD_COMPLETE: an entry whose access is still to be performed is completing, which its core's next turn carries out; of
any other the destinations are written, under run-ahead into its checkpoint as well, the entry is freed, and the stores behind it
drain. -/
def execScoreboardComplete (a n : Nat) (s : State) : Host.Outcome State Fault Refusal :=
  let c := s.coreAt a
  match c.scoreboard[n]? with
  | none => .next s
  | some e =>
    if !e.pending || c.status.stopped || c.unwinding.isSome then .next s
    else if e.redo then
      .next (s.mapCore a (fun c => { c with scoreboard := c.scoreboard.set n { e with completing := true } }))
    else
      let t := s.mapCore a (fun c =>
        let d : Core := ({ c.writeEntry e true with scoreboard := c.scoreboard.eraseIdx n }).writeBehind e (fun x => x.writeEntry e true)
        match c.ahead with
        | some h => { d with ahead := some { h with start := (({ c with regs := h.start } : Core).writeEntry e true).regs } }
        | none => d)
      .next (if c.ahead.isSome then t else (t.drain a).boundary a)

/-- The addresses that a pending load reads, from its word and its captured registers. -/
def SbEntry.loadVas (e : SbEntry) : List Word :=
  let c : Core := { Core.reset with regs := e.captured }
  let a := e.word.extractLsb' 16 5
  let b := e.word.extractLsb' 11 5
  let o := e.word.extractLsb' 4 12
  let lanes := activeLanes (c.readP (e.word.extractLsb' 4 3))
  match fld e.word 26 6 with
  | 18 | 22 => [c.memAddr a o 1]
  | 19 | 23 => [c.memAddr a o 2]
  | 20 | 24 => [c.memAddr a o 4]
  | 21 | 29 => [c.memAddr a o 8]
  | 50 => [c.memAddr a o 256, c.memAddr a o 256 + 255]
  | 52 => match fld e.word 7 4 with
    | 0 => lanes.map (c.strideAt a b)
    | 2 => lanes.map (c.gatherAt a b)
    | _ => [c.readS a]
  | _ => [c.readS a]

/-- The first address of a pending load that can no longer be answered: its expander is gone, or the fabric is down. -/
def State.lostLoad (s : State) (a : Nat) (e : SbEntry) : Option Word :=
  e.loadVas.find? (fun va =>
    match s.locate a .load va 1 with
    | .ok (t, x) => t.expanderGone x.cells
    | .error _ => false)

/-- LATE_FAULT: a home reports an access fault for a pending load. -/
def execLateFault (a n : Nat) (s : State) : Host.Outcome State Fault Refusal :=
  let c := s.coreAt a
  match c.scoreboard[n]? with
  | none => .next s
  | some e =>
    if !e.pending || !e.mem || c.status != .running || c.ahead.isSome || c.unwinding.isSome then .next s
    else match s.lostLoad a e with
      | none => .next s
      | some va =>
        .next ((s.mapCore a (fun c => { c with scoreboard := c.scoreboard.eraseIdx n })).lateStop a e (.access va))

/-! ### Run-ahead (13 R284) -/

/-- RUN_AHEAD: after a translation fault the page is posted and the run-ahead begins; once it has ended, the checkpoint
returns and the core freezes. -/
def execRunAhead (a : Nat) (s : State) : Host.Outcome State Fault Refusal :=
  let c := s.coreAt a
  match c.status with
  | .faulted va type =>
    let page := pageKey (s.ctxOf a).asid va
    let h : Ahead :=
      { start := c.regs, tok := c.tokpend, unknown := [], count := 0, pages := [page], va := va, type := type, ended := false }
    .next ((s.postPage a page type true).mapCore a (fun c => { c with status := .running, ahead := some h }))
  | _ => match c.ahead with
    | some h => .next (if h.ended then s.freezeClass a 0x10 h.pages.length h.type h.start.pc h.va else s)
    | none => .next s

/-! ### Messages, barriers and signals (16 R350, R354, R358) -/

/-- MSG_DELIVERY: the word, if any, then the increment. A word whose region is no longer scratchpad is not written. Messages land in the
order of their sending (DESIGN CHOICE, log entry 130). -/
def execMsgDelivery (s : State) : Host.Outcome State Fault Refusal :=
  match s.msgs with
  | [] => .next s
  | m :: t =>
    let s1 : State := { s with msgs := t }
    let s2 := match m.word with
      | some (off, v) => if sramAssigned (s1.coreAt m.target) off then s1.fePut (sramBase m.target + off) v else s1
      | none => s1
    .next (s2.mapCore m.target (fun c => { c with mc := c.mc.set m.cnt.toNat (satAdd (c.mcAt m.cnt) 1) m.cnt.isLt }))

/-- BARRIER_ARRIVAL: the oldest arrival reaches every core of its instance in this package, and one at pod scope leaves for the other
packages, if a port is up (log entry 119). Arrivals come in the order of their sending, each at all its cores at once (DESIGN CHOICE, log
entry 131). SKX values sent before it are there first (06 R137). -/
def execBarrierArrival (s : State) : Host.Outcome State Fault Refusal :=
  let s1 := s.each s.skxMsgs (fun t m => t.mapCore m.1 (fun c => { c with skx := m.2 }))
  match s1.arrivals with
  | [] => .next { s1 with skxMsgs := [] }
  | x :: t =>
    let s0 : State := { s1 with arrivals := t, skxMsgs := [] }
    let s2 := if x.scope = 5 ∧ !x.direct ∧ s0.pkg.fabricUp then s0.mapPkg (fun g => { g with podSent := x.bar :: g.podSent }) else s0
    .next (s2.each (if x.direct then [x.issuer] else instanceOf x.issuer x.scope) (fun t a =>
      t.mapCore a (fun c => c.setBar x.bar (c.bar x.bar).arrive)))

/-- A signal put among others, in ascending sender order. -/
def putSignal (x : Signal) : List Signal → List Signal
  | [] => [x]
  | y :: t => if x.sender < y.sender then x :: y :: t else y :: putSignal x t
/-- Signals in the order in which one cycle applies them. -/
def sortSignals (l : List Signal) : List Signal := l.foldr putSignal []

/-- EVENT_RELEASE: a forge's event unit applies its signals, local ones first, and releases one waiter for each. -/
def execEventRelease (g : Nat) (s : State) : Host.Outcome State Fault Refusal :=
  let l := s.signals.filter (fun x => x.forge == g)
  let order := sortSignals (l.filter (fun x => !x.remote)) ++ sortSignals (l.filter Signal.remote)
  let t : State := { s with signals := s.signals.filter (fun x => x.forge != g) }
  .next ((order.foldl (fun (t : State) x => t.mapForge g (fun q => q.addEv x.ev.toNat x.remote)) t).releaseEv g order.length)

/-! ### Packets (15 R332) -/

/-- The first packet of a buffer for a supervisor, and the buffer without it. -/
def takePacket (i : BitVec 1) : List (BitVec 1 × Packet) → Option (Packet × List (BitVec 1 × Packet))
  | [] => none
  | x :: t =>
    if x.1 = i then some (x.2, t)
    else (takePacket i t).map (fun y => (y.1, x :: y.2))

/-- The freezing packets that wait at the cores of a die: place in the order of raises, core, packet. -/
def State.heldPackets (s : State) (d : Nat) : List (Nat × Nat × Packet) :=
  (s.liveAgents d).filterMap (fun a => (s.coreAt a).heldPacket.map (fun x => (x.1, a, x.2)))
/-- The freezing packet raised first of those that wait at their cores takes the room that a packet left in the die
buffer. -/
def State.admitPacket (s : State) (d : Nat) : State :=
  match s.heldPackets d with
  | [] => s
  | x :: l =>
    let (_, a, p) := l.foldl (fun b y => if y.1 < b.1 then y else b) x
    let sup := supOf a
    (s.mapCore a (fun c => { c with heldPacket := none })).mapDie d (fun x => { x with packets := x.packets ++ [(sup, p)] })

/-- PACKET_RING_WRITE: the first packet that waits for a supervisor enters its ring, when the ring is in use and has room. -/
def execPacketRingWrite (sup : Nat) (s : State) : Host.Outcome State Fault Refusal :=
  let d := (sup - 512) / 2
  let i := BitVec.ofNat 1 (sup % 2)
  let r := (s.dieAt d).rings[i.toNat]'i.isLt
  match takePacket i (s.dieAt d).packets with
  | none => .next s
  | some (p, l) =>
    if !isSup sup || !s.ringUsed r || r.full then .next s
    else .next (((s.mapDie d (fun x => { x with packets := l })).ringPut d i p).admitPacket d)

/-! ### Hotness (13 R293 to R295, 11 R239) -/

/-- The entry that gives way to a new region: the lowest COUNT with QUEUED and PENDING clear, the lowest index on a tie. -/
def coldest : Table HotRegion → Option (Nat × HotRegion)
  | [] => none
  | (k, r) :: t =>
    if r.queued || r.pending then coldest t
    else match coldest t with
      | some (j, x) => if x.count < r.count then some (j, x) else some (k, r)
      | none => some (k, r)

/-- The entry of a region in a port's hot table, or the one it takes. -/
def hotEntry (h : Table HotRegion) (region : Nat) : Option (Nat × HotRegion) :=
  let new : HotRegion := { queued := false, pending := false, count := 0, region := BitVec.ofNat 36 region }
  match h.find? (fun e => e.2.region.toNat == region) with
  | some e => some e
  | none => match (tab id 0 2048).find? (fun k => !thas h k) with
    | some k => some (k, new)
    | none => (coldest h).map (fun e => (e.1, new))

def State.setHot (s : State) (port k : Nat) (e : HotRegion) : State :=
  s.mapHome port (fun h => { h with hot := tset h.hot k e })

/-- A sampled access counted for its region, and the post it brings about. -/
def State.hotCount (s : State) (port region : Nat) (moving : Bool) : State :=
  let d := port / 128
  match hotEntry (s.homeAt port).hot region with
  | none => s
  | some (k, e0) =>
    let e : HotRegion := { e0 with queued := e0.queued || moving, count := satAdd e0.count 1 }
    let thresh := (s.dieAt d).hthresh
    if thresh ≠ 0 ∧ thresh ≤ e.count ∧ !e.queued ∧ !e.pending then
      if (s.dieAt d).nqRoom then (s.nqPost d (notice 0 port (region * 65536))).setHot port k { e with queued := true }
      else (s.nqLose d).setHot port k { e with pending := true }
    else s.setHot port k e

/-- HOTNESS_SAMPLE: the oldest sampled request of a port; every 2^DECAY-th brings a halving about. -/
def execHotnessSample (port : Nat) (s : State) : Host.Outcome State Fault Refusal :=
  let h := s.homeAt port
  match h.waiting with
  | [] => .next s
  | (region, moving) :: t =>
    if h.halve then .next s
    else
      let decay := fld (s.dieAt (port / 128)).hsample 16 8
      let n := h.samples + 1
      let due := decay ≠ 0 ∧ 2 ^ decay ≤ n
      .next ((s.mapHome port (fun h => { h with waiting := t, samples := if due then 0 else n, halve := due })).hotCount port region
        moving)

/-- HOTNESS_HALVING. -/
def execHotnessHalving (port : Nat) (s : State) : Host.Outcome State Fault Refusal :=
  let thresh := (s.dieAt (port / 128)).hthresh.toNat
  if !(s.homeAt port).halve then .next s
  else .next (s.mapHome port (fun h =>
    { h with halve := false,
             hot := h.hot.map (fun e =>
               (e.1, { e.2 with count := e.2.count >>> 1, queued := e.2.queued && thresh ≤ 2 * (e.2.count >>> 1).toNat })) }))

/-- The PENDING regions of a port post, in index order, until the queue is full. -/
def State.repostHot (s : State) (port : Nat) : State :=
  s.each ((s.homeAt port).hot.filter (fun e => e.2.pending)) (fun t e =>
    if (t.dieAt (port / 128)).nqRoom then
      (t.nqPost (port / 128) (notice 0 port (e.2.region.toNat * 65536))).setHot port e.1 { e.2 with queued := true, pending := false }
    else t)
/-- The RETIRE posts of a port that were dropped, made again. -/
def State.repostRows (s : State) (port : Nat) : State :=
  s.each ((s.homeAt port).hotRows.filter (fun e => e.2.pend)) (fun t e =>
    if (t.dieAt (port / 128)).nqRoom then
      (t.nqPost (port / 128) (notice 1 port (rowPa port e.2.row.toNat))).mapHome port (fun h =>
        { h with hotRows := tset h.hotRows e.1 { e.2 with pend := false } })
    else t)
/-- NOTIFICATION_REPOST: with the queue below half, dropped posts are made again in ascending port number. -/
def execNotificationRepost (d : Nat) (s : State) : Host.Outcome State Fault Refusal :=
  if 128 ≤ (s.dieAt d).nq.length then .next s
  else
    let ports := (s.homes.map Prod.fst).filter (fun p => p / 128 == d)
    .next (ports.foldl State.repostRows (ports.foldl State.repostHot s))

/-! ### Scrub and retirement (10 R203 to R206) -/

/-- The entry with the lowest score, the lowest index on a tie. -/
def lowestRow : Table HotRow → Option (Nat × HotRow)
  | [] => none
  | (k, r) :: t => match lowestRow t with
    | some (j, x) => if x.score < r.score then some (j, x) else some (k, r)
    | none => some (k, r)

/-- Where a row that is not listed enters, with its first weight. -/
def newRow (l : Table HotRow) (row weight : Nat) : Option (Nat × HotRow) :=
  let r : HotRow := { row := BitVec.ofNat 19 row, score := BitVec.ofNat 16 weight, retq := false, pend := false, hots := 0 }
  match (tab id 0 64).find? (fun k => !thas l k) with
  | some k => some (k, r)
  | none => match lowestRow l with
    | some (k, x) => if x.score.toNat ≤ weight then some (k, r) else none
    | none => none

/-- `n` corrected errors of one kind scored for a row; the post for retirement when the score first reaches THRESH. -/
def State.scoreRow (s : State) (port row weight n : Nat) : State :=
  if n = 0 then s
  else
    let l := (s.homeAt port).hotRows
    let e := match l.find? (fun e => e.2.row.toNat == row) with
      | some (k, r) => some (k, { r with score := satAdd r.score (weight * n) })
      | none => (newRow l row weight).map (fun (e : Nat × HotRow) => (e.1, { e.2 with score := satAdd e.2.score (weight * (n - 1)) }))
    match e with
    | none => s
    | some (k, r) => s.putRow port k r

/-- A clean hot scrub of a row: its score decays, and at 0 the entry leaves. -/
def State.decayRow (s : State) (port row : Nat) : State :=
  let decay := fld (s.dieAt (port / 128)).retthresh 16 4
  match (s.homeAt port).hotRows.find? (fun e => e.2.row.toNat == row) with
  | none => s
  | some (k, r) =>
    let sc := if decay = 0 then r.score else r.score - (r.score >>> decay)
    s.mapHome port (fun h => { h with hotRows := if sc = 0 then tdel h.hotRows k else tset h.hotRows k { r with score := sc } })

/-- One line of a scrub: a line that the hearth holds dirty is only counted; an uncorrectable one becomes poisoned. -/
def State.scrubLine (s : State) (port line : Nat) (ce ue : Bool) : State :=
  let d := port / 128
  let held := thas s.hearth line
  let r := fun (cls : Nat) => Raise.atPort cls 4 port (line * 128)
  let s1 := s.mapHome port (fun h => { h with scrCe := h.scrCe + wn (b2n ce), scrUe := h.scrUe + wn (b2n (ue && !ce)) })
  if held && (s.hearthAt line).dirty then s1
  else if ce then s1.raise d (r 0)
  else if ue then
    (({ s1 with hearth := tdel s1.hearth line } : State).setPoison (line * 128) true).raise d (r 1)
  else s1

/-- The interval that follows from the corrected errors of a run of 4,096 base steps, and the next run begun (R203). -/
def Home.review (h : Home) : Home :=
  let c := h.curivl.toNat
  let v := if 4 ≤ h.revErrs then max 27 (c / 2) else if h.revErrs = 0 then min 219 (2 * c) else c
  { h with curivl := BitVec.ofNat 16 v, revSteps := 0, revErrs := 0 }
/-- A run of base steps is complete. -/
def Home.reviewDue (h : Home) : Bool := !h.fixedOn && 4096 ≤ h.revSteps
/-- A scrub step begins: FIXED takes effect, and a run that is complete is reviewed first (R203, 01 R20). -/
def Home.beginStep (h : Home) : Home :=
  let g := if h.reviewDue then h.review else h
  { g with fixedOn := h.fixed, curivl := if h.fixed then 219 else g.curivl }
/-- The hot-list entry of a row, when a step on it is a hot one: in ADAPTIVE mode 64 hot steps go with each base step (R205; log
entry 110). -/
def Home.hotStep (h : Home) (row : Nat) : Option (Nat × HotRow) :=
  if h.fixedOn then none else h.hotRows.find? (fun e => e.2.row.toNat == row && e.2.hots < 64)
/-- A step on a row counted: the hot steps of a listed row, the base steps and corrected errors of the running review. -/
def Home.countStep (h : Home) (row n : Nat) : Home :=
  match h.hotStep row with
  | some (k, r) => { h with scrSteps := h.scrSteps + 1, hotRows := tset h.hotRows k { r with hots := r.hots + 1 } }
  | none =>
    { h with scrSteps := h.scrSteps + 1, revSteps := if h.fixedOn then h.revSteps else h.revSteps + 1, revErrs := if h.fixedOn then h.revErrs else h.revErrs + n,
             hotRows := h.hotRows.map (fun e => if e.2.row.toNat = row then (e.1, { e.2 with hots := 0 }) else e) }

/-- SCRUB_STEP: one row scrubbed, line by line; the error code finds a corrected error in the lines of `ce` and an
uncorrectable one in the other lines of `ue`. It waits for a refresh or an alert's commands that its bank needs first (R208, R209). -/
def execScrubStep (port row : Nat) (ce ue : BitVec 16) (s : State) : Host.Outcome State Fault Refusal :=
  if 512 ≤ port ∨ 393216 ≤ row ∨ (s.homeAt port).stalls (lineOf (rowPa port row)) then .next s
  else
    let n := ((tab id 0 16).filter ce.getLsbD).length
    let s0 := s.mapHome port Home.beginStep
    let clean := ((s0.homeAt port).hotStep row).isSome && ce == 0 && ue == 0
    let s1 := s0.mapHome port (fun h => h.countStep row n)
    let s2 := s1.each (tab id 0 16) (fun t i => t.scrubLine port (rowPa port row / 128 + i) (ce.getLsbD i) (ue.getLsbD i))
    .next (if clean then s2.decayRow port row else s2.scoreRow port row (fld (s.dieAt (port / 128)).retthresh 24 4) n)

/-- SCRUB_RATE_REVIEW: the interval follows the corrected errors of the last 4,096 base steps. -/
def execScrubRateReview (port : Nat) (s : State) : Host.Outcome State Fault Refusal :=
  if (s.homeAt port).reviewDue then .next (s.mapHome port Home.review) else .next s

/-! ### Refresh (10 R207 to R209) -/

/-- A bank's postpone count. -/
def Home.postponed (h : Home) (bank : Nat) : Nat := (nth 0 h.postpone.toList bank).toNat
def Home.setPostponed (h : Home) (bank n : Nat) : Home := { h with postpone := vput h.postpone bank (BitVec.ofNat 4 n) }

/-- A forced all-bank refresh asked for: under way at once, unless refresh-management commands go first. -/
def Home.forceAll (h : Home) : Home :=
  if h.allBank then h else { h with allBank := true, abActive := h.alerts.isEmpty, rfmDone := [], fabCnt := h.fabCnt + 1 }

/-- The postpone count of a bank of an LPDDR 6 channel, its key, and a change of it (R207; log entry 111). -/
def lpKey (channel bank : Nat) : Nat := channel * 64 + bank
def Package.lpSet (g : Package) (channel bank n : Nat) : Package :=
  { g with lpPost := if n = 0 then g.lpPost.filter (fun e => e.1 != lpKey channel bank) else tset g.lpPost (lpKey channel bank) (BitVec.ofNat 4 n) }
/-- A refresh due in an LPDDR 6 channel: postponed up to 8, and then an all-bank refresh of the channel, which sets its counts to 0. -/
def Package.lpRefresh (g : Package) (channel bank : Nat) (how : RefreshChoice) : Package :=
  let n := (tget (0 : BitVec 4) g.lpPost (lpKey channel bank)).toNat
  match how with
  | .done => g
  | .postponed => if n < 8 then g.lpSet channel bank (n + 1) else { g with lpPost := g.lpPost.filter (fun e => e.1 / 64 != channel) }
  | .pulledIn => g.lpSet channel bank (n - 1)

/-- REFRESH_DUE: a bank's refresh begins, is postponed (at a count of 8 forced as an all-bank refresh instead), or one more is
pulled in. A port from 512 up stands for a channel of the LPDDR 6 controllers. -/
def execRefreshDue (port bank : Nat) (how : RefreshChoice) (s : State) : Host.Outcome State Fault Refusal :=
  if 512 ≤ port ∧ bank < 64 then .next (s.mapPkg (fun g => g.lpRefresh (port - 512) bank how))
  else if 512 ≤ port ∨ 16 ≤ bank then .next s
  else .next (s.mapHome port (fun h =>
    match how with
    | .done => { h with due := ninsert h.due bank }
    | .postponed => if h.postponed bank < 8 then h.setPostponed bank (h.postponed bank + 1) else h.forceAll
    | .pulledIn => h.setPostponed bank (h.postponed bank - 1)))

/-- One bank named by an alert: its refresh-management command is owed, followed by an all-bank refresh at a count of 8. -/
def Home.alert (h : Home) (bank : Nat) : Home :=
  if 16 ≤ bank ∨ h.alerts.contains bank ∨ (h.allBank ∧ !h.abActive ∧ h.rfmDone.contains bank) then h
  else
    let g : Home := { h with alerts := ninsert h.alerts bank, rfmCnt := h.rfmCnt + 1 }
    if h.postponed bank = 8 ∧ !h.abActive then { g.forceAll with abAlert := true } else g

/-- ACTIVATION_ALERT. -/
def execActivationAlert (port : Nat) (banks : List Nat) (s : State) : Host.Outcome State Fault Refusal :=
  if 512 ≤ port then .next s else .next (s.mapHome port (fun h => banks.foldl Home.alert h))

/-- The end of the refresh or the command under way, after this many cycles; the next of a sequence begins. Cycles count in LATSTALL
where an alert stalls activates (R208). -/
def Home.refreshed (h : Home) (stalled : Nat) : Home :=
  if h.abActive then
    { h with abActive := false, allBank := false, abAlert := false, rfmDone := [], due := [], postpone := Vector.replicate 16 0,
             latstall := h.latstall + wn (if h.abAlert then stalled else 0) }
  else match h.alerts with
    | [] => { h with due := h.due.drop 1 }
    | b :: t =>
      { h with alerts := t, rfmDone := if h.allBank then ninsert h.rfmDone b else [], abActive := h.allBank && t.isEmpty,
               latstall := h.latstall + wn stalled }
/-- REFRESH_COMPLETE. -/
def execRefreshComplete (port stalled : Nat) (s : State) : Host.Outcome State Fault Refusal :=
  if 512 ≤ port then .next s else .next (s.mapHome port (fun h => h.refreshed stalled))

/-! ### The vertical bus (10 R210, R213) -/

/-- The lanes of a group. -/
def State.vbusAt (s : State) (d g : Nat) : VbusGroup := tget VbusGroup.good (s.dieAt d).vbus g
def State.setVbus (s : State) (d g : Nat) (x : VbusGroup) : State := s.mapDie d (fun y => { y with vbus := tset y.vbus g x })

/-- VBUSOK.SPARES or GRPDIS moved on by 1. -/
def vbusokAdd (x : BitVec 24) (lo : Nat) : BitVec 24 :=
  BitVec.ofNat 24 (setBits x.toNat lo 8 (min (fld x lo 8 + 1) 64))

/-- A group disabled, its hearth parts emptied into their tiers first. -/
def State.disableGroup (s : State) (d g : Nat) : State :=
  let lines := (s.hearth.map Prod.fst).filter (fun l => homeOf (lineBase l) / 2 == 64 * d + g)
  (lines.foldl State.hearthEvict s).setVbus d g { s.vbusAt d g with disabled := true }
/-- VBUS_LANE of a group. -/
def vbusRaise (d g : Nat) : Raise := { Raise.bare 11 3 with port := some (128 * d + 2 * g), detail := g }
/-- A lane that has failed three frames in a row steered to the spare; or its group, which has none left, disabled and its hearth parts
bypassed. -/
def State.laneSteer (s : State) (d g : Nat) : State :=
  let x := s.vbusAt d g
  if x.disabled || decide (x.fails < 3) then s
  else if x.steered.isNone then
    ((s.setVbus d g { x with steered := x.lane, lane := none, fails := 0 }).mapDie d (fun y =>
      { y with vbusok := vbusokAdd y.vbusok 16 })).raise d (vbusRaise d g)
  else
    ((s.disableGroup d g).mapDie d (fun y =>
      { y with vbusok := vbusokAdd y.vbusok 8 })).raise d (vbusRaise d g)
/-- VBUS_CRC_ERROR: the frame is replayed; the lane that fails three frames in a row is to be steered, and is so before the next frame. A
frame without an error ends a run; whether one came since the last error is a free value. -/
def execVbusCrcError (d g lane : Nat) (s0 : State) : Host.Outcome State Fault Refusal :=
  if 4 ≤ d ∨ 64 ≤ g ∨ 256 ≤ lane then .next s0
  else
    let s := s0.laneSteer d g
    let x := s.vbusAt d g
    if x.disabled then .next s
    else .next ((s.setVbus d g
      { x with replays := x.replays + 1, lane := some lane,
               fails := if x.lane = some lane ∧ !Config.goodFrame s.fresh then satAdd x.fails 1 else 1 }).used 1)
/-- VBUS_LANE_STEER: the steering that is owed, at the next frame boundary. -/
def execVbusLaneSteer (d g : Nat) (s : State) : Host.Outcome State Fault Refusal :=
  if 4 ≤ d ∨ 64 ≤ g then .next s else .next (s.laneSteer d g)

end Sys2Proof.Machine
end

