-- ==== Sys2Proof/Machine/Outside.lean ====
section
/-! DEFINITION. What comes from outside the cores: in-field tests, clocks, power and heat, boots and resets, the host port,
CXL, the Atfin ports and the sideband bus (17_outside R363 to R383, 15_error_tables R344, R345, 10_memory_integrity R211,
R212). -/

namespace Sys2Proof.Machine

/-! ### In-field tests (15 R344, R345) -/

/-- The cores of a forge. -/
def coresOf (g : Nat) : List Nat := tab id (8 * g) 8
/-- A core that the in-field test of its forge may take or has taken. -/
def Core.testable (c : Core) : Bool := c.status == .idle && c.bound.isNone && (c.reserved == none || c.reserved == some .test)

/-- IN_FIELD_TEST: a test asked for reserves the forge's idle cores, and starts once it has all eight. -/
def execInFieldTest (g : Nat) (s : State) : Host.Outcome State Fault Refusal :=
  let f := s.forgeAt g
  if 64 ≤ g ∨ !f.iftWant ∨ f.iftRun ∨ f.gangRes.isSome then .next s
  else
    let t := s.each ((coresOf g).filter (fun a => (s.coreAt a).testable)) (fun t a => t.mapCore a (fun c => { c with reserved := some .test }))
    if (coresOf g).all (fun a => (s.coreAt a).testable) then
      .next (t.mapForge g (fun f => { f with iftRun := true, iftWant := false }))
    else .next t

/-- The phase banks and the billet directory of a forge invalidated. -/
def Forge.dropBillets (g : Forge) : Forge :=
  { g with active := Bank.invalid, shadow := Bank.invalid, dir := Vector.replicate 16 DirEntry.empty }

/-- What a test's end leaves: LAST and RUNS; on a pass the suspect window cleared, on a failure IFT_FAIL. -/
def State.testEnd (s : State) (g : Nat) (r : TestResult) : State :=
  let t := s.mapForge g (fun f =>
    let f1 := { f.dropBillets with iftRun := false, iftRuns := f.iftRuns + 1, iftLast := if r = .pass then 1 else 2 }
    if r = .pass then { f1 with chunks := 0, homes := 0, pkgs := 0 } else f1)
  match r with
  | .pass => t
  | .failCore => t.raise (g / 16) { Raise.bare 10 0 with forge := some g }
  | .failAnvil => t.raise (g / 16) { Raise.bare 10 1 with forge := some g }

/-- IN_FIELD_TEST_END. -/
def execInFieldTestEnd (g : Nat) (r : TestResult) (s : State) : Host.Outcome State Fault Refusal :=
  if 64 ≤ g ∨ !(s.forgeAt g).iftRun then .next s
  else
    let t := s.each (coresOf g) (fun t a =>
      if (t.coreAt a).reserved = some .test then t.mapCore a (fun c => { c with reserved := none }) else t)
    .next (t.testEnd g r)

/-- IFT_INTERVAL: an interval of IVL has passed; an IVL of 0 schedules none. -/
def execIftInterval (g : Nat) (s : State) : Host.Outcome State Fault Refusal :=
  if 64 ≤ g ∨ (s.forgeAt g).iftIvl = 0 then .next s else .next (s.mapForge g (fun f => { f with iftWant := true }))
/-- IFT_START: IFTCTL written with START, its IVL kept. -/
def execIftStart (g : Nat) (s : State) : Host.Outcome State Fault Refusal :=
  if 64 ≤ g then .next s else .next (s.forgeWrite g 0x0A00 (((s.forgeAt g).iftIvl.zeroExtend 64 <<< 16) ||| 1))

/-! ### Island clocks (01 R20, R23, 17 R377, R378) -/

/-- An island exists. -/
def islandOk (d q : Nat) : Bool := decide (d < 4) && decide (q < 32)
def State.islandAt (s : State) (d q : Nat) : Island := (s.dieAt d).island q
def State.mapIsland (s : State) (d q : Nat) (f : Island → Island) : State :=
  s.mapDie d (fun x => x.setIsland q (f (x.island q)))

/-- The clock of an island, with what capping and throttling take off its locked setpoint: capping leaves at least half of it (R380);
throttling at least 0.8 GHz (log entry 19). -/
def Island.clock (i : Island) : BitVec 8 :=
  let f := i.locked.toNat
  let capped := max (f - i.capSteps.toNat) ((f + 1) / 2)
  BitVec.ofNat 8 (max (capped - i.hotSteps.toNat) (min capped 16))
/-- The applied clock brought in line. -/
def Island.apply (i : Island) : Island := { i with applied := i.clock }

/-- ISLAND_RELOCK: the island has locked its new clock, and its cores go on. -/
def execIslandRelock (d q : Nat) (s : State) : Host.Outcome State Fault Refusal :=
  if !islandOk d q || !(s.islandAt d q).relock then .next s
  else .next (s.mapIsland d q (fun i => Island.apply { i with locked := i.freq, relock := false }))
/-- ISLCTL_WRITE. -/
def execIslctlWrite (d q : Nat) (v : Word) (s : State) : Host.Outcome State Fault Refusal :=
  if islandOk d q then .next (s.islandWrite d q v) else .next s
/-- VOLTAGE_LOOP_ADJUST: VCUR follows the timing monitors, a free value; with VFIX it is VSET, raised to their minimum. -/
def execVoltageLoopAdjust (d q : Nat) (s : State) : Host.Outcome State Fault Refusal :=
  if !islandOk d q then .next s
  else
    let v := loopVoltage s.fresh
    .next ((s.mapIsland d q (fun i => { i with vcur := if i.vfix then maxB i.vset v else v })).used 1)

/-- The cores of an island. -/
def quadCores (d q : Nat) : List Nat := tab id (128 * d + 4 * q) 4
/-- A core frozen with a packet of class DROOP, unless it is stopped already. -/
def State.droopFreeze (s : State) (d q a : Nat) : State :=
  let st := (s.coreAt a).status
  if st.stopped then s
  else
    let r : Raise := { Raise.bare 13 0 with agent := some a, pc := (s.coreAt a).regs.pc, detail := q }
    s.freezeWith a 13 (fun t ck sb => t.raisePacket d r false ck sb) r.target
/-- DROOP_STRETCH: in RIDE mode the clock stretches and DROOP goes through the matrix; in STOP mode the island's cores
freeze. -/
def execDroopStretch (d q : Nat) (s : State) : Host.Outcome State Fault Refusal :=
  if !islandOk d q then .next s
  else if (s.islandAt d q).droop then .next ((quadCores d q).foldl (fun t a => t.droopFreeze d q a) s)
  else if (s.islandAt d q).stretch then .next s
  else .next ((s.mapIsland d q (fun i => { i with stretch := true })).raise d { Raise.bare 13 0 with detail := q, behalf := some (128 * d + 4 * q) })
/-- DROOP_RECOVER. -/
def execDroopRecover (d q : Nat) (s : State) : Host.Outcome State Fault Refusal :=
  if islandOk d q then .next (s.mapIsland d q (fun i => { i with stretch := false })) else .next s

/-! ### Brown-out and power (17 R379, R380) -/

/-- BROWNOUT_HOLD. -/
def execBrownoutHold (s : State) : Host.Outcome State Fault Refusal := .next (s.mapPkg (fun g => { g with hold := true }))
/-- AVG and PEAK. -/
def Package.power (g : Package) (avg : BitVec 16) : Package :=
  { g with pwrAvg := avg, pwrPeak := if g.pwrPeak < avg then avg else g.pwrPeak }
/-- Every island of the package. -/
def allIslands : List (Nat × Nat) := (tab id 0 4).flatMap (fun d => (tab id 0 32).map (fun q => (d, q)))
/-- An island whose clock capping can still lower. -/
def Island.mayCap (i : Island) : Bool := decide ((i.locked.toNat + 1) / 2 < i.locked.toNat - i.capSteps.toNat)
/-- POWER_CAP_STEP: above CAP, the highest-clocked islands that can go lower go down one step. -/
def execPowerCapStep (avg : BitVec 16) (s : State) : Host.Outcome State Fault Refusal :=
  let s1 := s.mapPkg (fun g => g.power avg)
  if avg ≤ s.pkg.pwrcap then .next s1
  else
    let l := allIslands.filter (fun x => (s.islandAt x.1 x.2).mayCap)
    let top := (l.map (fun x => (s.islandAt x.1 x.2).applied.toNat)).foldl max 0
    let s2 := s1.each (l.filter (fun x => (s.islandAt x.1 x.2).applied.toNat == top)) (fun t x =>
      t.mapIsland x.1 x.2 (fun i => Island.apply { i with capSteps := i.capSteps + 1 }))
    .next ((s2.mapPkg (fun g => { g with capping := true })).toHost (if s.pkg.capping then [] else [.msix 4]))
/-- POWER_CAP_RESTORE: below CAP by 5 %, the clocks return. -/
def execPowerCapRestore (avg : BitVec 16) (s : State) : Host.Outcome State Fault Refusal :=
  let s1 := s.mapPkg (fun g => g.power avg)
  if s.pkg.pwrcap.toNat * 95 ≤ avg.toNat * 100 then .next s1
  else
    let held := allIslands.filter (fun x => (s.islandAt x.1 x.2).capSteps != 0)
    let s2 := s1.each held (fun t x => t.mapIsland x.1 x.2 (fun i => Island.apply { i with capSteps := 0 }))
    .next (s2.mapPkg (fun g => { g with capping := false }))

/-! ### Heat (17 R381, R382) -/

/-- CONVERTER_ROW_HOT: at 95 °C AUTO quench is entered, from the next pass boundary on. -/
def execConverterRowHot (g : Nat) (temp : BitVec 8) (s : State) : Host.Outcome State Fault Refusal :=
  if 64 ≤ g then .next s
  else .next (s.mapForge g (fun f => { f with rowTemp := temp, hotQuench := f.hotQuench || decide (95 ≤ temp) }))
/-- QUENCH_EXIT: below 90 °C. -/
def execQuenchExit (g : Nat) (temp : BitVec 8) (s : State) : Host.Outcome State Fault Refusal :=
  if 64 ≤ g then .next s
  else .next (s.mapForge g (fun f => { f with rowTemp := temp, hotQuench := f.hotQuench && !decide (temp < 90) }))
/-- JUNCTION_HOT: at 100 °C an episode of throttling begins; THERMAL is raised once. -/
def execJunctionHot (d q : Nat) (temp : BitVec 8) (s : State) : Host.Outcome State Fault Refusal :=
  let t := s.mapIsland d q (fun i => { i with junction := temp })
  if !islandOk d q then .next s
  else if decide (temp < 100) || (s.islandAt d q).hot then .next t
  else .next ((t.mapIsland d q (fun i => { i with hot := true })).raise d { Raise.bare 12 0 with detail := q, behalf := some (128 * d + 4 * q) })
/-- THROTTLE_STEP: the clock goes down a step, or below 97 °C the episode ends and the clock returns. -/
def execThrottleStep (d q : Nat) (temp : BitVec 8) (s : State) : Host.Outcome State Fault Refusal :=
  let t := s.mapIsland d q (fun i => { i with junction := temp })
  if !islandOk d q then .next s
  else if !(s.islandAt d q).hot then .next t
  else if temp < 97 then .next (t.mapIsland d q (fun i => Island.apply { i with hot := false, hotSteps := 0 }))
  else .next (t.mapIsland d q (fun i => Island.apply { i with hotSteps := satAdd i.hotSteps 1 }))
/-- PHOTONIC_HOT. -/
def execPhotonicHot (g : Nat) (s : State) : Host.Outcome State Fault Refusal :=
  if 64 ≤ g then .next s else .next (s.raise (g / 16) { Raise.bare 12 1 with forge := some g })
/-- THERMAL_TRIP: a junction at 110 °C or above, by a free number of degrees; the cores stop, TRIP is set, and the sideband's alert line is
asserted. -/
def execThermalTrip (s : State) : Host.Outcome State Fault Refusal :=
  .next (((s.mapPkg (fun g =>
    { g with trip := true, alert := true, tripTemp := BitVec.ofNat 8 (110 + (Config.tripTemp s.fresh).val) })).used 1).toHost
      (if s.pkg.trip then [] else [.msix 4]))

/-! ### Boots and resets (17 R373, R374, 10 R211, R212) -/

/-- What the checks of an image find: its signature by a key with the fused digest, then its security version (R374; DEDUCED, log entry 132). -/
def verdictOf (h : Option ImageHeader) : ImageVerdict :=
  match h with
  | none => .flashRead
  | some h => if !h.signed || h.key ≠ Config.fusedKey then .badSignature else if h.svn < Config.fusedSvn then .rollback else .good h
/-- What the checks of a flash slot find: the image that the device wrote itself stands there, where the flash answers. -/
def Package.slotFound (g : Package) (x : BootInputs) (k : BitVec 1) : ImageVerdict :=
  let found := if k = 0 then x.slotA else x.slotB
  verdictOf (found.map (fun h => ((if k = 0 then g.slotImage[0] else g.slotImage[1]) : Option ImageHeader).getD h))
/-- CODE of a failed check. -/
def verdictCode : ImageVerdict → BitVec 8
  | .good _ => 0
  | .badSignature => 1
  | .rollback => 2
  | .flashRead => 3

/-- What survives a reset in the board flash, at the far end of the links, and in the model's own record of them; what waited for the
host is in-flight work, which is discarded. -/
def Package.afterReset (g : Package) : Package :=
  { Package.reset with
    bootNext := g.bootNext, slotImage := g.slotImage, fwctl := g.fwctl, cmds := g.cmds, hostUp := g.hostUp,
    sent := g.sent, answers := g.answers, flits := g.flits, replies := g.replies }

/-- Bytes that a reset leaves in the tiers, and their poison. -/
def keepCells (m : Memory) (lo hi : Nat) : Memory := m.filter (fun c => within c.1 lo (hi - lo))
/-- The machine with every core, forge, die, home and register at reset, and the tiers between `lo` and `hi` kept. -/
def State.cleared (s : State) (lo hi : Nat) (trip : Bool) : State :=
  { State.reset with
    pkg := { s.pkg.afterReset with trip := trip }, mem := keepCells s.mem lo hi, poison := s.poison.filter (fun a => within a lo (hi - lo)),
    serial := s.serial, fresh := s.fresh, cur := s.cur, schedule := s.schedule }

/-- What a die's lane test finds: spare lanes in use and groups disabled, of 64 groups with one spare each. -/
def laneTest (x : BootInputs) (d : Nat) : Nat × Nat :=
  let v := nth ((0, 0) : BitVec 8 × BitVec 8) x.vbus d
  (min v.1.toNat 64, min v.2.toNat 64)
/-- Every stack has trained. -/
def memoryOk (x : BootInputs) : Bool := x.trained == 0xFF
/-- VBUSOK after a die's lane test and the training of its two stacks; HBMDEG stays while a pseudo-channel of the die is lost (R213). -/
def State.vbusokOf (s : State) (x : BootInputs) (d : Nat) : BitVec 24 :=
  let lost := x.lostHomes.any (fun h => h / 128 == d) || s.homes.any (fun h => h.1 / 128 == d && h.2.degraded)
  let s0 := x.trained.getLsbD (2 * d)
  let s1 := x.trained.getLsbD (2 * d + 1)
  BitVec.ofNat 24 ((laneTest x d).1 * 65536 + (laneTest x d).2 * 256 + b2n lost * 8 + b2n s1 * 4 + b2n s0 * 2 + b2n (s0 && s1))
/-- The soft repairs of a die as the lane test finds them, in its lowest groups (log entry 112): a spare steered for each lane that
needs one, and groups disabled, their hearth parts emptied, with VBUS_LANE for each that was not before (R210, R212). -/
def State.testLanes (s : State) (x : BootInputs) (d : Nat) : State :=
  let n := laneTest x d
  let t := s.mapDie d (fun y =>
    { y with vbusok := s.vbusokOf x d, vbus := (tab id 0 n.1).foldl (fun v g => tset v g { VbusGroup.good with steered := some 0 }) [] })
  t.each (tab id 0 n.2) (fun t g =>
    let u := t.disableGroup d g
    if (s.vbusAt d g).disabled then u else u.raise d (vbusRaise d g))
/-- Step 3: the lane tests and the training of every die; a pseudo-channel that lost a lane raises UE_MEM once. -/
def State.bootLanes (s : State) (x : BootInputs) : State :=
  let s1 := s.each (tab id 0 4) (fun t d => t.testLanes x d)
  s1.each (x.lostHomes.filter (fun h => decide (h < 512) && !(s.homeAt h).degraded)) (fun t h =>
    (t.mapHome h (fun y => { y with degraded := true })).raise (h / 128)
      (Raise.atPort 1 4 h (h * 0x30000000)))

/-- Whether boot firmware can program a decoder so, behind those it has programmed: one range of the CXL window on one expander (R370). -/
def hdmOk (x : BootInputs) (g : Table HdmRange) (k : Nat) (r : HdmRange) : Bool :=
  decide (k < if x.cxl1 then 8 else 4) && !thas g k && decide (r.expander < 4) && decide (0 < r.len) && decide (cxlBase ≤ r.base) &&
  decide (r.base + r.len ≤ cxlTop) && g.all (fun e => decide (r.base + r.len ≤ e.2.base) || decide (e.2.base + e.2.len ≤ r.base))
/-- The HDM decoders as a boot programs them. -/
def hdmOf (x : BootInputs) : Table HdmRange := x.hdm.foldl (fun g e => if hdmOk x g e.1 e.2 then tset g e.1 e.2 else g) []
/-- An Atfin port trained on some wavelengths: up if there is one. -/
def AtfPort.trained (p : AtfPort) (waves : BitVec 8) : AtfPort :=
  { p with up := waves != 0, degraded := waves != 0 && waves != 0xFF, retrain := false, waves := waves, failed := 0 }
/-- Wavelengths that train on a port. -/
def wavesOf (x : BootInputs) (k : Nat) : BitVec 8 := nth 0xFF x.waves k
/-- Step 4: the decoders, the options fitted, and the Atfin ports, with a message for each that comes up. -/
def State.bootLinks (s : State) (x : BootInputs) (hdm : Table HdmRange) : State :=
  let ports := if x.atfin then (tab id 0 16).map (fun k => (k, AtfPort.reset.trained (wavesOf x k))) else []
  let t := s.mapPkg (fun g =>
    { g with atfin := x.atfin, cxl1 := x.cxl1, lpddr := x.lpddrGiB != 0, hbm4e := x.hbm4e, lpddrGiB := x.lpddrGiB,
             hdm := hdm, cxlGone := [], pkgId := x.pkgId, atf := ports })
  t.toHost ((ports.filter (fun p => p.2.up)).map (fun _ => .msix 3))
/-- Step 5: every forge's test. -/
def State.bootTests (s : State) (x : BootInputs) : State :=
  s.each (tab id 0 64) (fun t g =>
    t.testEnd g (match x.failForges.find? (fun y => y.1 == g) with | some y => y.2 | none => .pass))
/-- BOOTSTAT's STAGE and CODE set, with one message for each stage that was reached. -/
def State.bootStage (s : State) (stage : BitVec 4) (code : BitVec 8) (messages : Nat) : State :=
  (s.mapPkg (fun g => { g with bootStage := stage, bootCode := code })).toHost (List.replicate messages (.msix 0))
/-- The supervisors park. -/
def State.parkSups (s : State) : State :=
  s.each (tab id 512 8) (fun t a => t.mapCore a (fun c => { c with status := .parked }))

/-- The boot from step 2 on, `done` steps reported before it, with the ranges of the HDM decoders. -/
def State.boot (s : State) (x : BootInputs) (hdm : Table HdmRange) (done : Nat) : State :=
  let first := s.pkg.bootNext ^^^ (if s.pkg.fwctl then 1 else 0)
  let s0 := s.mapPkg (fun g => { g with fwctl := false })
  let run := fun (slot : BitVec 1) (h : ImageHeader) =>
    let s1 := (s0.mapPkg (fun g => { g with bootSlot := slot, bootSvn := h.svn, bootDigest := h.digest })).bootLanes x
    if !memoryOk x then (s1.bootStage 15 4 (done + 2)).parkSups
    else
      let s2 := ((s1.bootLinks x hdm).bootTests x).mapPkg (fun g => { g with fwMaj := 2, fwMin := h.fwMin })
      s2.bootStage 6 (if x.failForges.any (fun y => y.2 != .pass) then 5 else 0) (done + 5)
  match s.pkg.slotFound x first with
  | .good h => run first h
  | _ => match s.pkg.slotFound x (~~~first) with
    | .good h => run (~~~first) h
    | v => (s0.bootStage 15 (verdictCode v) (done + 1)).parkSups

/-- COLD_BOOT: HBM, LPDDR 6 and scratchpad are zero-filled; the expanders keep what they hold. -/
def execColdBoot (x : BootInputs) (s : State) : Host.Outcome State Fault Refusal :=
  .next ((s.cleared cxlBase cxlTop false).boot x (hdmOf x) 1)

/-- What a reset changes in registers that report their changes to the host (R367). -/
def State.resetMessages (s : State) : List HostOut :=
  (if bootWord s.pkg = 0 then [] else [.msix 0]) ++ (if s.pkg.fwstat = 0 then [] else [.msix 5]) ++
  ((s.pkg.atf.filter (fun p => p.2.up || p.2.degraded)).map (fun _ => .msix 3))
/-- A warm reset: the tiers are kept, everything else starts again, and boot reruns from step 2, with the HDM ranges that were there
(10 R212). -/
def State.warm (s : State) (x : BootInputs) : State :=
  ((s.cleared 0 cxlTop s.pkg.trip).toHost s.resetMessages).boot x (if s.pkg.hdm ≠ [] ∨ s.pkg.bootStage = 6 then s.pkg.hdm else hdmOf x) 0

/-- PCIE_RESET: each of the three acts as a warm reset; one asked for in a brown-out hold runs after it (R379). -/
def execPcieReset (_kind : PcieReset) (x : BootInputs) (s : State) : Host.Outcome State Fault Refusal :=
  .next (if s.pkg.hold then s.mapPkg (fun g => { g with resetAsked := some x }) else s.warm x)

/-! ### Atfin ports (R371, R372) -/

def State.atfAt (s : State) (k : Nat) : AtfPort := tget AtfPort.reset s.pkg.atf k
def State.setAtf (s : State) (k : Nat) (p : AtfPort) : State := s.mapPkg (fun g => { g with atf := tset g.atf k p })
/-- A raise by a port, on the die that carries it (log entry 20). -/
def State.linkRaise (s : State) (cls k : Nat) : State := s.raise (k / 4) { Raise.bare cls 5 with port := some k, detail := k }

/-- The replay buffer sent again, oldest first. -/
def State.atfReplay (s : State) (k : Nat) : State :=
  let p := s.atfAt k
  (s.setAtf k { p with replays := satAdd p.replays p.buffer.length }).mapPkg (fun g => { g with flits := p.buffer.reverse ++ g.flits })

/-- A collective operation that has not ended and reads or writes another package's memory. -/
def State.collAbroad (s : State) (k : Nat) : Bool :=
  let far := fun (c : Cmd) (kind : Kind) (va : Word) (n : Nat) =>
    match s.whereIs c kind (pieces n va.toNat n) with | .ok l => l.any isPeer | .error _ => false
  match s.colls[k]? with
  | some (_, l) => l.any (fun m => !m.done &&
      (let n := sizeOf' (fmtBits (tcwFmtA m.cmd.tcw)) (collN m.cmd.tcw)
       far m.cmd .load (collSrc m.cmd.tcw) n || far m.cmd .store (collDst m.cmd.tcw) n))
  | none => false
/-- With no port to the fabric up, the requests that wait end: LINK_DOWN names the access, a returning member completes with
an access error, a reduction is reported by REL.pod (09 R198), and a collective that waits for the fabric ends LINK (11 R232). -/
def State.fabricLost (s : State) (k : Nat) : State :=
  let l := s.atomics.filter (fun r => r.remote && r.done.isNone)
  let t := s.each l (fun t r =>
    t.raise (dieOf r.agent) (r.linkDown k))
  let u : State := { t with atomics := t.atomics.map (fun r =>
    if r.remote && r.done.isNone then { r with done := some { old := 0, flags := 0, bad := false, gone := true } } else r) }
  ((tab id 0 s.colls.length).filter s.collAbroad).foldl (fun u j =>
    match u.colls[j]? with | some (o, l) => u.endColl j o l stLink 0 | none => u) u

/-- A retraining that ends well: the port replays its buffer, sends what has waited, and goes on over the wavelengths that are left. -/
def State.retrained (s : State) (k : Nat) (waves : BitVec 8) : State :=
  let p := s.atfAt k
  let q : AtfPort := { p.trained waves with retrains := satAdd p.retrains 1, held := [] }
  let s1 := (s.setAtf k q).atfReplay k
  let s2 := s1.mapPkg (fun g =>
    { g with atf := tset g.atf k { tget AtfPort.reset g.atf k with buffer := p.buffer ++ p.held }, flits := p.held.reverse ++ g.flits })
  (s2.toHost (if q.degraded = p.degraded ∧ p.up then [] else [.msix 3])).linkRaise 6 k
/-- A retraining that fails: the third in a row takes the port down, and its requests move to the ports that own their addresses now. -/
def State.retrainFailed (s : State) (k : Nat) : State :=
  let p := s.atfAt k
  if p.failed < 2 then (s.setAtf k { p with retrain := true, failed := p.failed + 1 }).linkRaise 6 k
  else
    let s1 := ((s.setAtf k { AtfPort.reset with retrains := p.retrains, replays := p.replays, asked := p.asked }).toHost [.msix 3]).linkRaise 6 k
    let s2 := (p.buffer ++ p.held).foldl (fun t a => t.mapPkg (fun g => g.sendFlit a)) (s1.linkRaise 7 k)
    if s2.pkg.fabricUp then s2 else s2.fabricLost k

/-! ### Commands to the package (R368, R374 to R376, R383) -/

/-- The post-transport test: lane tests in place, every Atfin port retrained, every forge's test asked for. -/
def State.transportTest (s : State) (x : BootInputs) : State :=
  let s1 := s.bootLanes x
  if !memoryOk x then s1.bootStage 15 4 1
  else
    let s2 := s1.each (s1.pkg.atf.map Prod.fst) (fun t k =>
      if wavesOf x k != 0 then t.retrained k (wavesOf x k) else if (t.atfAt k).up then t.retrainFailed k else t)
    s2.each (tab id 0 64) (fun t g => t.mapForge g (fun f => { f with iftWant := true }))
/-- An answer given. -/
def State.answer (s : State) (x : Answer) : State := s.mapPkg (fun g => { g with answers := x :: g.answers })
/-- Whether a command of the sideband can be served now: a warm reset waits for the end of a brown-out hold (R379). A host command runs at
a step of its own. -/
def State.servable (s : State) (c : PkgCmd) : Bool :=
  match c with | .host _ _ => false | .warmReset _ => !s.pkg.hold | _ => true
/-- A command of the sideband served (R383). FLASH_WINDOW is answered to the boot ROM alone, with 32 bytes of the board flash (log entry
85). -/
def State.serve (s : State) (c : PkgCmd) : State :=
  match c with
  | .host _ _ => s
  | .readStatus => s.answer (.block [bootWord s.pkg, pwrWord s.pkg, s.thermWord])
  | .warmReset x => s.warm x
  | .postTransport x => s.transportTest x
  | .setCap v => s.mapPkg (fun g => { g with pwrcap := capWrite v })
  | .readFeat => s.answer (.block (tab (featWord s.pkg) 0 4))
  | .flashWindow off =>
    if s.pkg.bootStage = 0 then s.answer (.block (tab (fun k => wn (ofBytes (tab Config.flashByte (off + 8 * k) 8))) 0 4))
    else s.answer .nack
  | .unknown => s.answer .nack
/-- Commands of the sideband served in the order of arrival, up to one that must wait; `n` bounds their number. -/
def State.serveAll (s : State) : Nat → State
  | 0 => s
  | n + 1 =>
    match s.pkg.cmds with
    | [] => s
    | c :: t => if s.servable c then ((s.mapPkg (fun g => { g with cmds := t })).serve c).serveAll n else s
/-- A command of the sideband arrives: served at once, or behind those that wait (R383). -/
def State.sideband (s : State) (c : PkgCmd) : State :=
  if s.pkg.cmds.isEmpty && s.servable c then s.serve c else s.mapPkg (fun g => { g with cmds := g.cmds ++ [c] })
/-- The codes of R383's table. -/
def sidebandCodes : List (BitVec 8) := [1, 2, 3, 4, 5, 0x10]

/-- The oldest command, when it is host command `n`, run: with NONCE as it stood when it was written; then what waited behind it. -/
def State.hostcmd (s : State) (n : BitVec 4) (run : State → Vector Word 4 → State) : State :=
  match s.pkg.cmds with
  | .host m nonce :: t =>
    if m = n then
      let u := run (s.mapPkg (fun g => { g with cmds := t })) nonce
      u.serveAll u.pkg.cmds.length
    else s
  | _ => s
/-- HOSTCMD_WARM_RESET. -/
def execHostcmdWarmReset (x : BootInputs) (s : State) : Host.Outcome State Fault Refusal :=
  .next (if s.pkg.hold then s else s.hostcmd 1 (fun t _ => t.warm x))
/-- HOSTCMD_POST_TRANSPORT. -/
def execHostcmdPostTransport (x : BootInputs) (s : State) : Host.Outcome State Fault Refusal := .next (s.hostcmd 2 (fun t _ => t.transportTest x))
/-- HOSTCMD_QUOTE (R375). -/
def execHostcmdQuote (s : State) : Host.Outcome State Fault Refusal :=
  .next (s.hostcmd 3 (fun t nonce => ((t.mapPkg (fun g =>
    { g with quote := some { nonce := nonce, digest := g.bootDigest, feat := featWord g 0, boot := bootWord g, n := t.fresh } })).used 1).toHost
      [.msix 6]))
/-- An image written into the slot that was not booted, to run from the next reset (R376). -/
def Package.writeSlot (g : Package) (h : ImageHeader) : Package :=
  let other := ~~~g.bootSlot
  { g with bootNext := other, slotImage := if other = 0 then g.slotImage.set 0 (some h) else g.slotImage.set 1 (some h) }
/-- The staged image checked as the boot ROM does, and written or rejected; one that a flash without an answer can not take is rejected too
(log entry 132). -/
def Package.commitFw (g : Package) (flash : Bool) : Package :=
  let reject := fun (v : ImageVerdict) => { g with fwstat := BitVec.ofNat 16 ((verdictCode v).toNat * 256 + 2) }
  match verdictOf (some (Config.stagedImage g.staging)) with
  | .good h => if flash then { g.writeSlot h with fwstat := 1 } else reject .flashRead
  | v => reject v
/-- HOSTCMD_FW_COMMIT (R376): a message when FWSTAT changes (R367). -/
def execHostcmdFwCommit (flash : Bool) (s : State) : Host.Outcome State Fault Refusal :=
  .next (s.hostcmd 4 (fun t _ =>
    (t.mapPkg (fun g => g.commitFw flash)).toHost (if (t.pkg.commitFw flash).fwstat = t.pkg.fwstat then [] else [.msix 5])))

/-- BROWNOUT_RESUME: everything goes on, PWRSTAT.HOLD is set, and each die raises DROOP; a reset asked for in the hold runs now, and
commands that waited for it (R379). -/
def execBrownoutResume (s : State) : Host.Outcome State Fault Refusal :=
  if !s.pkg.hold then .next s
  else
    let t := (s.mapPkg (fun g => { g with hold := false, pwrHold := true, resetAsked := none })).toHost (if s.pkg.pwrHold then [] else [.msix 4])
    let u := t.each (tab id 0 4) (fun t d => t.raise d (Raise.bare 13 0))
    let v := match s.pkg.resetAsked with | some x => u.warm x | none => u
    .next (v.serveAll v.pkg.cmds.length)

/-- POWER_REMOVAL: nothing remains but fuses and the board flash (R363). -/
def execPowerRemoval (s : State) : Host.Outcome State Fault Refusal :=
  let t := s.cleared cxlBase cxlTop false
  .next (t.mapPkg (fun g => { g with powered := false, fwctl := false, cmds := [] }))

/-! ### The sideband (17 R383) -/

/-- READ_STATUS. -/
def execReadStatus (s : State) : Host.Outcome State Fault Refusal := .next (s.sideband .readStatus)
/-- WARM_RESET. -/
def execWarmReset (x : BootInputs) (s : State) : Host.Outcome State Fault Refusal := .next (s.sideband (.warmReset x))
/-- POST_TRANSPORT. -/
def execPostTransport (x : BootInputs) (s : State) : Host.Outcome State Fault Refusal := .next (s.sideband (.postTransport x))
/-- SET_CAP. -/
def execSetCap (v : Word) (s : State) : Host.Outcome State Fault Refusal := .next (s.sideband (.setCap v))
/-- READ_FEAT. -/
def execReadFeat (s : State) : Host.Outcome State Fault Refusal := .next (s.sideband .readFeat)
/-- FLASH_WINDOW. -/
def execFlashWindow (off : Nat) (s : State) : Host.Outcome State Fault Refusal := .next (s.sideband (.flashWindow off))

/-! ### The host port (17 R364, R369) -/

/-- HOST_LINK_DOWN. -/
def execHostLinkDown (s : State) : Host.Outcome State Fault Refusal := .next (s.mapPkg (fun g => { g with hostUp := false }))
/-- HOST_LINK_UP: what waited is sent in its order. -/
def execHostLinkUp (s : State) : Host.Outcome State Fault Refusal :=
  .next (s.mapPkg (fun g => { g with hostUp := true, sent := g.hostOut.reverse ++ g.sent, hostOut := [] }))

/-- Bytes of committed storage read at their homes by an agent outside; those of a poisoned line are free values (log entry
21). -/
def State.homeBytes (s : State) (pa n : Nat) : List Byte :=
  tab (fun a => if s.homePoison (lineOf a) then Config.poisonedByte (s.fresh * 2 ^ 64 + a) else s.homeByte a) pa n
/-- Whether a range of physical addresses has storage that may be reached. -/
def State.storageAt (s : State) (pa n : Nat) : Bool := s.reachable pa && s.reachable (pa + (n - 1))
/-- A range of BAR2, which is 4 TiB, with storage behind it (17 R364). -/
def State.bar2At (s : State) (off n : Nat) : Bool := decide (off + n ≤ 2 ^ 42) && s.storageAt off n
/-- Bytes written at their homes by an agent outside the dies: served and ordered there, with notices to the four dies (08
R183). -/
def State.outsideWrite (s : State) (pa : Nat) (bytes : List Byte) : State :=
  let t : Table Byte := ((tab (fun i => pa + i) 0 bytes.length).zip bytes).foldl (fun t x => tset t x.1 x.2) []
  let lines := (t.map (fun x => lineOf x.1)).foldl ninsert []
  lines.foldl (fun s l =>
    let d := lineBytes t l
    (s.homeWrite false 512 l d.1 d.2 (d.2 == fullMask) false true).sendNotices l) s

/-- A host read of a BAR served. -/
def State.hostRead (s : State) (bar : HostBar) (off size : Nat) : State :=
  match bar with
  | .bar0 =>
    match evSelector off with
    | some _ => s.answer (.read 0)
    | none =>
      let r := s.mmioRead s.slotClass (off / 8 * 8)
      r.1.answer (.read (pickBytes wn r.2 off (min size (8 - off % 8))))
  | .bar2 =>
    if s.bar2At off size then
      let b := s.homeBytes off size
      let t := (s.touchRange off size).used 1
      if size ≤ 8 then t.answer (.read (wn (ofBytes b)))
      else t.answer (.block (tab (fun k => wn (ofBytes (tab (nth 0 b) (8 * k) 8))) 0 ((size + 7) / 8)))
    else s.answer .completerAbort
/-- HOST_MEM_READ: it waits behind the posted writes. -/
def execHostMemRead (bar : HostBar) (off size : Nat) (s : State) : Host.Outcome State Fault Refusal :=
  if s.pkg.hostWrites.isEmpty && s.pkg.hostUp && size != 0 && !(bar == .bar2 && s.bar2At off size && s.rangeHeld off size) then .next (s.hostRead bar off size) else .next s

/-- A host write performed; `none` while its target waits for room. -/
def State.hostPerform (s : State) (w : HostWrite) : Option State :=
  match w.bar with
  | .bar0 =>
    if w.data.length ≠ 8 ∨ w.off % 8 ≠ 0 then some (s.answer .unsupported)
    else if (evSelector w.off).isSome then some s
    else s.mmioWrite none w.off (wn (ofBytes w.data))
  | .bar2 =>
    let n := w.data.length
    if n = 0 ∨ !s.bar2At w.off n then some s
    else if s.rangeHeld w.off n then none
    else some (s.outsideWrite w.off w.data)
/-- Posted writes performed in order, up to the first that must wait; `n` bounds their number. -/
def State.hostDrain (s : State) : Nat → State
  | 0 => s
  | n + 1 =>
    match s.pkg.hostWrites with
    | [] => s
    | w :: t => match s.hostPerform w with
      | some u => (u.mapPkg (fun g => { g with hostWrites := t })).hostDrain n
      | none => s
/-- Every posted write that can be performed now. -/
def State.hostDrainAll (s : State) : State := s.hostDrain s.pkg.hostWrites.length
/-- HOST_MEM_WRITE. -/
def execHostMemWrite (bar : HostBar) (off size v : Nat) (s : State) : Host.Outcome State Fault Refusal :=
  if !s.pkg.hostUp then .next s
  else
    let w : HostWrite := { bar := bar, off := off, data := toBytes size v }
    .next (s.mapPkg (fun g => { g with hostWrites := g.hostWrites ++ [w] })).hostDrainAll

/-! ### CXL (17 R370, 13 R292) -/

/-- CXL_SURPRISE_REMOVAL: the expander is gone, and lines held dirty for it in the hearth are poisoned with HEARTH_UE. -/
def execCxlSurpriseRemoval (port expander : Nat) (s : State) : Host.Outcome State Fault Refusal :=
  let k := port * 4 + expander
  let ranges := (s.pkg.hdm.filter (fun e => e.1 / 4 == port && e.2.expander == expander)).map Prod.snd
  if 4 ≤ expander ∨ ranges.isEmpty ∨ s.pkg.cxlGone.contains k then .next s
  else
    let t := s.mapPkg (fun g => { g with cxlGone := ninsert g.cxlGone k })
    let lost := (s.hearth.filter (fun h => h.2.dirty && ranges.any (fun r => within (h.1 * 128) r.base r.len))).map Prod.fst
    .next (t.each lost (fun t l =>
      (t.poisonLine l).raise (homeOf (l * 128) / 128) (Raise.atPort 15 3 (homeOf (l * 128)) (l * 128))))

/-! ### Atfin (17 R371, R372) -/

/-- A port carries traffic. -/
def AtfPort.live (p : AtfPort) : Bool := p.up && !p.retrain

/-- The port stops sending and retrains. -/
def State.atfRetrain (s : State) (k : Nat) : State :=
  let p := s.atfAt k
  if p.live then s.setAtf k { p with retrain := true } else s
/-- ATFIN_LOCK_LOST. -/
def execAtfinLockLost (k : Nat) (s : State) : Host.Outcome State Fault Refusal := .next (s.atfRetrain k)
/-- ATFIN_REPLAY_LIMIT. -/
def execAtfinReplayLimit (k : Nat) (s : State) : Host.Outcome State Fault Refusal := .next (s.atfRetrain k)

/-- ATFIN_REPLAY_REQUEST. -/
def execAtfinReplayRequest (k : Nat) (s : State) : Host.Outcome State Fault Refusal :=
  if (s.atfAt k).live then .next (s.atfReplay k) else .next s
/-- ATFIN_FLIT_ACK: the oldest flit leaves the replay buffer. -/
def execAtfinFlitAck (k : Nat) (s : State) : Host.Outcome State Fault Refusal :=
  let p := s.atfAt k
  if p.up then .next (s.setAtf k { p with buffer := p.buffer.drop 1 }) else .next s

/-- ATFIN_RETRAIN_END. -/
def execAtfinRetrainEnd (k : Nat) (ok : Bool) (waves : BitVec 8) (s : State) : Host.Outcome State Fault Refusal :=
  let p := s.atfAt k
  .next (if !p.up || !p.retrain then s else if ok && waves != 0 then s.retrained k waves else s.retrainFailed k)

/-- The first request of a list that waits for a switch's answer to an agent. -/
def takeRemote (a : Nat) : List AtomicReq → Option (List AtomicReq × AtomicReq × List AtomicReq)
  | [] => none
  | r :: t =>
    if r.agent == a && r.remote && r.done.isNone then some ([], r, t)
    else (takeRemote a t).map (fun x => (r :: x.1, x.2.1, x.2.2))
/-- The answer of a switch or of a peer's home to a core's oldest request: the old value of a returning member, the acknowledgement
of a reduction. A reduction at a home makes its delivery now (09 R195, R197). -/
def State.switchAnswer (s : State) (a : Nat) (old : Word) : State :=
  match takeRemote a s.atomics with
  | none => s
  | some (x, r, y) =>
    let e : AtomicReq := { r with done := some (amoDone r old) }
    ({ s with atomics := x ++ (if r.dropped || r.accepted then [] else [e]) ++ y } : State).sendDelivery r old
/-- A core's oldest request failed (09 R198): the place of performance met poison; or the switch's path failed, which raises
LINK_DOWN; or the home reported an access error. A reduction that a switch accepted is kept for REL.pod to report. -/
def State.atomicFailed (s : State) (a : Nat) (poison : Bool) : State :=
  match takeRemote a s.atomics with
  | none => s
  | some (x, r, y) =>
    let e : AtomicReq := { r with done := some { old := 0, flags := 0, bad := poison, gone := !poison } }
    let t : State := { s with atomics := x ++ (if r.dropped then [] else [e]) ++ y }
    if r.window && !poison then t.raise (dieOf a) (r.linkDown (atfPortOf r.addr)) else t
/-- A member of the AMO group: fn[6:0] is assigned. -/
def amoAssigned (fn : BitVec 7) : Bool := if amoSize fn = 4 then amoMember fn ≤ 8 else amoMember fn ≤ 18
/-- Another package's atomic performed at its home here, with notices to the four dies (09 R196, 08 R183); `none` answers an access
error or poison. -/
def State.servePeer (s : State) (pa : Nat) (fn : BitVec 7) (b d : Word) : State :=
  let z := amoSize fn
  let reply := fun (t : State) (l : Option (List Byte)) => t.mapPkg (fun g => { g with replies := l :: g.replies })
  if !amoAssigned fn || pa % z != 0 || !s.storageAt pa z || s.expanderGone [(pa, sramAttr)] then reply s none
  else
    let t := s.homeTouch (lineOf pa)
    if t.homePoison (lineOf pa) then reply t none
    else
      let old := t.homeBytes pa z
      let n := amoNew fn (ofBytes old) (fld b 0 (8 * z)) d.toNat
      reply (match n.1 with | some v => t.outsideWrite pa (toBytes z v) | none => t.sendNotices (lineOf pa)) (some old)
/-- What a flit that passed its check carries. -/
def State.takeFlit (s : State) (b : FlitBody) : State :=
  match b with
  | .peerRead pa n =>
    if s.storageAt pa n then ((s.touchRange pa n).used 1).mapPkg (fun g => { g with replies := some (s.homeBytes pa n) :: g.replies })
    else s.mapPkg (fun g => { g with replies := none :: g.replies })
  | .peerWrite pa n v => if n ≠ 0 ∧ s.storageAt pa n then s.outsideWrite pa (toBytes n v.toNat) else s
  | .switchReply a old => s.switchAnswer a old
  | .mergedWrite pa v => if s.storageAt pa 8 then s.outsideWrite pa (toBytes 8 v.toNat) else s
  | .peerAtomic pa fn b d => s.servePeer pa fn b d
  | .atomicFail a poison => s.atomicFailed a poison
  | .barArrival n => s.each (tab id 0 512) (fun t a => t.mapCore a (fun c => c.setBar n (c.bar n).arrive))
/-- A home that a flit asks of can not serve it now, so that it has not been taken yet (10 R208). -/
def State.flitHeld (s : State) (b : FlitBody) : Bool :=
  match b with
  | .peerRead pa n => s.storageAt pa n && s.rangeHeld pa n
  | .peerAtomic pa fn _ _ => s.storageAt pa (amoSize fn) && s.rangeHeld pa (amoSize fn)
  | .peerWrite pa n _ => s.storageAt pa n && s.rangeHeld pa n
  | .mergedWrite pa _ => s.storageAt pa 8 && s.rangeHeld pa 8
  | _ => false
/-- ATFIN_FLIT_ARRIVAL: a flit with a CRC error is not taken; the far end is asked to send it again. -/
def execAtfinFlitArrival (k : Nat) (flit : Flit) (s : State) : Host.Outcome State Fault Refusal :=
  let p := s.atfAt k
  .next (if !p.live then s else if !flit.crcOk then s.setAtf k { p with asked := p.asked + 1 }
    else if s.flitHeld flit.body then s else s.takeFlit flit.body)

/-! ### Writes and reads of registers with rows of their own -/

/-- A doubleword that the host writes to a register, behind its earlier posted writes (R364). -/
def hostPost (off : Nat) (v : Word) (s : State) : Host.Outcome State Fault Refusal := execHostMemWrite .bar0 off 8 v.toNat s
/-- The BAR0 offset of word 7 of a WTT entry. -/
def wttOff (core entry : Nat) : Nat := core / 128 * 0x1000000 + 0x20000 + core % 128 * 0x800 + entry * 64 + 56
/-- WTT_POST. -/
def execWttPost (core entry : Nat) (s : State) : Host.Outcome State Fault Refusal :=
  if core < 512 ∧ entry < 32 then hostPost (wttOff core entry) 1 s else .next s
/-- WTT_CANCEL. -/
def execWttCancel (core entry : Nat) (s : State) : Host.Outcome State Fault Refusal :=
  if core < 512 ∧ entry < 32 then hostPost (wttOff core entry) 2 s else .next s
/-- WTT_KILL. -/
def execWttKill (core entry : Nat) (s : State) : Host.Outcome State Fault Refusal :=
  if core < 512 ∧ entry < 32 then hostPost (wttOff core entry) 3 s else .next s
/-- TEAM_LAUNCH. -/
def execTeamLaunch (v : Word) (s : State) : Host.Outcome State Fault Refusal := hostPost 0x4000248 v s

/-- Word 3 of a port written by supervisor agent `sup`, or by the host; a supervisor's write that must wait has not been made yet. -/
def State.portWord3 (s : State) (d : Nat) (save : Bool) (sup : Nat) (w3 : Word) : Host.Outcome State Fault Refusal :=
  if within sup 512 8 then .next ((s.portSubmit d save (sup - 512) w3).getD s)
  else hostPost (d * 0x1000000 + (if save then 0x4058 else 0x4018)) w3 s
/-- MIG_PORT_SUBMIT. -/
def execMigPortSubmit (d sup : Nat) (w3 : Word) (s : State) : Host.Outcome State Fault Refusal := s.portWord3 d false sup w3
/-- MIG_PORT_POP. -/
def execMigPortPop (d : Nat) (s : State) : Host.Outcome State Fault Refusal := .next (s.portPop d false).1
/-- SAVE_PORT_SUBMIT. -/
def execSavePortSubmit (d sup : Nat) (w3 : Word) (s : State) : Host.Outcome State Fault Refusal := s.portWord3 d true sup w3
/-- SAVE_PORT_POP. -/
def execSavePortPop (d : Nat) (s : State) : Host.Outcome State Fault Refusal := .next (s.portPop d true).1
/-- NQ_POP. -/
def execNqPop (d : Nat) (s : State) : Host.Outcome State Fault Refusal := .next (s.nqTake d).1
/-- HDOOR. -/
def execHdoor (v : Word) (s : State) : Host.Outcome State Fault Refusal := hostPost 0x4000340 v s
/-- HRELEASE. -/
def execHrelease (v : Word) (s : State) : Host.Outcome State Fault Refusal := hostPost 0x40003D8 v s
/-- SMSG_DOORBELL: the last word of SMSG written by a supervisor. -/
def execSmsgDoorbell (v : Word) (s : State) : Host.Outcome State Fault Refusal := .next (s.globalWrite (some 512) 0x3B8 v)
/-- HIST_CLEAR. -/
def execHistClear (g : Nat) (v : Word) (s : State) : Host.Outcome State Fault Refusal :=
  if g < 64 then hostPost (g / 16 * 0x1000000 + 0xA00B00 + g % 16 * 0x10000) v s else .next s

/-- The physical address of an event-unit word of a forge window (16 R357). -/
def evPa (g : Nat) (sel : BitVec 8) : Nat := mmioBase + g / 16 * 0x1000000 + 0xA00000 + g % 16 * 0x10000 + 0xC00 + 8 * sel.toNat
/-- EV_WINDOW_LOAD by the present core. -/
def execEvWindowLoad (g : Nat) (sel : BitVec 8) (d : BitVec 5) (s : State) : Host.Outcome State Fault Refusal :=
  issue (Plan.memory [] [sR d] 0) (fun s => s.mmioLoad d 0 (evPa g sel) 8 wn) s
/-- EV_WINDOW_STORE by the present core. -/
def execEvWindowStore (g : Nat) (sel : BitVec 8) (s : State) : Host.Outcome State Fault Refusal :=
  issue (Plan.memory [] [] 0) (fun s => s.mmioStore 0 (evPa g sel) 8 0) s

/-- LSPLIT_WRITE. -/
def execLsplitWrite (core : Nat) (v : Word) (s : State) : Host.Outcome State Fault Refusal :=
  if core < 512 then .next (s.setLsplit core v) else .next s
/-- L2SCR_WRITE. -/
def execL2scrWrite (core : Nat) (v : Word) (s : State) : Host.Outcome State Fault Refusal :=
  if core < 512 then .next (s.setL2scr core v) else .next s
/-- HSAMPLE_WRITE. -/
def execHsampleWrite (d : Nat) (v : Word) (s : State) : Host.Outcome State Fault Refusal := .next (s.setHsample d v)
/-- REGISTER_WRITE: a doubleword of the MMIO windows written by the host. -/
def execRegisterWrite (pa : Nat) (v : Word) (s : State) : Host.Outcome State Fault Refusal :=
  if isMmio pa && pa % 8 == 0 then hostPost (pa - mmioBase) v s else .next s

end Sys2Proof.Machine
end

