-- ==== Sys2Proof/Machine/Scheduler.lean ====
section
/-! DEFINITION. The scheduler: aging, dispatch, gang reservations, team launches, and the report of a late pre-emption
(14_task_tables R302 to R305, R318, R321, R324). -/

namespace Sys2Proof.Machine

/-! ### Aging (R302) -/

/-- TASK_AGING_TICK: AGE goes up, and with its wrap EPRIO. -/
def execTaskAgingTick (core entry : Nat) (s : State) : Host.Outcome State Fault Refusal :=
  let e := (s.coreAt core).entry entry
  if core < 512 ∧ wttReady e then
    .next (s.mapCore core (fun c =>
      c.setEntry entry { e with age := e.age + 1, eprio := if e.age = 255 then satAdd e.eprio 1 else e.eprio }))
  else .next s

/-! ### Selection (R303) -/

/-- Whether an entry may be selected: not a co-start copy whose team's turn has not come. A team that has started governs its copies no
more: one that REPEAT has armed again is selected like any entry. -/
def State.selectable (s : State) (a k : Nat) : Bool :=
  let e := (s.coreAt a).entry k
  match e.state with
  | .preempted => true
  | .eligible => !imageCostart e.image || !s.pkg.teams.any (fun t => t.id == imageTeam e.image) || (s.teamCopy a).map Prod.snd == some k
  | _ => false
/-- Of two entries of a core, the one selected first. -/
def Core.sooner (c : Core) (i j : Nat) : Bool :=
  let x := c.entry i
  let y := c.entry j
  decide (y.eprio < x.eprio) || (x.eprio == y.eprio && (decide (x.since < y.since) || (x.since == y.since && decide (i < j))))
/-- The entry that a core selects. -/
def State.selection (s : State) (a : Nat) : Option Nat :=
  ((tab id 0 32).filter (s.selectable a)).foldl (fun m k =>
    match m with
    | some j => if (s.coreAt a).sooner k j then some k else some j
    | none => some k) none

/-! ### Dispatch (R303) -/

/-- What selecting an entry does: a request for a gang reservation, a reservation for a team, a fresh dispatch, or a
restore. -/
def State.dispatchEntry (s : State) (a k : Nat) : State :=
  let e := (s.coreAt a).entry k
  if imageGmask e.image ≠ 0 then
    if e.asked.isSome then s else (s.mapCore a (fun c => c.setEntry k { e with asked := some s.serial })).tick
  else if e.state = .preempted then s.restoreTask a k
  else match s.teamCopy a with
    | some (t, j) => if j = k then s.reserveTeam a t k else (s.startEntry a k).dispatchOn a a k
    | none => (s.startEntry a k).dispatchOn a a k

/-- DISPATCH: an idle core is taken by its forge's gang reservation or in-field test, or selects. -/
def execDispatch (core : Nat) (s : State) : Host.Outcome State Fault Refusal :=
  if !(s.coreAt core).free || 512 ≤ core then .next s
  else
    let g := s.forgeAt (forgeOf core)
    if (s.gangOver core).isSome then .next (s.reserveGang core)
    else if g.iftWant && g.gangRes.isNone then .next (s.mapCore core (fun c => { c with reserved := some .test }))
    else match s.selection core with
      | none => .next s
      | some k => .next (s.dispatchEntry core k)

/-- RESTORE: the PREEMPTED entry that an idle core selects. -/
def execRestore (core entry : Nat) (s : State) : Host.Outcome State Fault Refusal :=
  let e := (s.coreAt core).entry entry
  if core < 512 ∧ (s.coreAt core).free ∧ s.selection core = some entry ∧ e.state = .preempted ∧ imageGmask e.image = 0 ∧
    s.gangOver core = none ∧ !((s.forgeAt (forgeOf core)).iftWant && (s.forgeAt (forgeOf core)).gangRes.isNone)
  then .next (s.restoreTask core entry) else .next s

/-! ### Gangs (R318) -/

/-- The requests for a forge's gang reservation: core, entry, when it was asked. An entry that is WAITING for a while keeps its request's time
(DEDUCED, log entry 129). -/
def State.gangRequests (s : State) (g : Nat) : List (Nat × Nat × Nat) :=
  (tab id (8 * g) 8).flatMap (fun b => (tab id 0 32).filterMap (fun k =>
    let e := (s.coreAt b).entry k
    if wttReady e && imageGmask e.image != 0 then e.asked.map (fun n => (b, k, n)) else none))
/-- The request that is granted: highest EPRIO, earliest request, lowest leader slot. -/
def State.gangPick (s : State) (g : Nat) : Option (Nat × Nat) :=
  ((s.gangRequests g).foldl (fun (m : Option (Nat × Nat × Nat)) x =>
    match m with
    | none => some x
    | some y =>
      let p := ((s.coreAt x.1).entry x.2.1).eprio
      let q := ((s.coreAt y.1).entry y.2.1).eprio
      if q < p ∨ (p = q ∧ x.2.2 < y.2.2) then some x else some y) none).map (fun x => (x.1, x.2.1))

/-- GANG_RESERVATION. -/
def execGangReservation (g : Nat) (s : State) : Host.Outcome State Fault Refusal :=
  if (s.forgeAt g).gangRes.isSome || 64 ≤ g then .next s
  else match s.gangPick g with
    | none => .next s
    | some (b, k) =>
      let t := s.mapCore b (fun c => c.setEntry k { c.entry k with rsv := true, asked := none })
      let u := t.mapForge g (fun x => { x with gangRes := some (b, k) })
      .next (u.each (tab id (8 * g) 8) State.reserveGang)

/-- GANG_DISPATCH: with every member reserved, all start as one gang, or are restored. -/
def execGangDispatch (g : Nat) (s : State) : Host.Outcome State Fault Refusal :=
  match (s.forgeAt g).gangRes with
  | none => .next s
  | some (b, k) =>
    let e := (s.coreAt b).entry k
    let cores := taskCores b e
    if !cores.all (fun a => (s.coreAt a).reserved == some (.gang b k)) || (e.state = .preempted && s.imagesHeld b k) then .next s
    else
      let t := s.mapForge g (fun x => { x with gangRes := none })
      match e.state with
      | .preempted => .next (t.restoreTask b k)
      | .eligible =>
        let u := (t.startEntry b k).each cores (fun t a => t.dispatchOn a b k)
        .next (u.each cores (fun t a => t.mapCore a (fun c =>
          { c with gang := some { mask := imageGmask e.image, lslot := BitVec.ofNat 3 (slotOf b), pos := BitVec.ofNat 3 (taskPos a b e), issued := 0, runtime := false, led := true } })))
      | _ => .next s

/-! ### Team launches (R305) -/

/-- The image that the launch unit posts. -/
def launchImage (l : Launch) : Vector Word 7 :=
  let w := imageOf l.image.toList
  (w.set 0 (putBit w[0] 61 l.costart)).set 2 (wn (setBits w[2].toNat 48 16 l.team.toNat))

/-- LAUNCH_UNIT_POST: the oldest launch posts into its entry of a core, once the entry is free and, for a co-start launch,
a team slot is. -/
def execLaunchUnitPost (core : Nat) (s : State) : Host.Outcome State Fault Refusal :=
  match s.pkg.launches with
  | [] => .next s
  | l :: rest =>
    let known := s.pkg.teams.any (fun t => t.id == l.team)
    if !l.cores.contains core || !wttOpen ((s.coreAt core).entry l.idx) || (l.costart && !known && decide (16 ≤ s.pkg.teams.length)) then .next s
    else
      let t := s.postEntry core l.idx (launchImage l)
      let left := l.cores.filter (fun a => a != core)
      .next (t.mapPkg (fun g =>
        { g with launches := if left.isEmpty then rest else { l with cores := left } :: rest,
                 teams := if l.costart && !known then g.teams ++ [{ id := l.team, cores := l.all, idx := l.idx }] else g.teams }))

/-- COSTART_DISPATCH: every copy of the team whose turn it is, ELIGIBLE on its reserved core, starts. -/
def execCostartDispatch (team : Nat) (s : State) : Host.Outcome State Fault Refusal :=
  match s.pkg.teams with
  | [] => .next s
  | t :: rest =>
    if t.id.toNat ≠ team || !t.cores.all (fun a => (s.coreAt a).reserved == some (.team team) && (s.teamCopy a).isSome) then .next s
    else
      let u := s.each t.cores (fun u a => (u.startEntry a t.idx).dispatchOn a a t.idx)
      .next (u.mapPkg (fun g => { g with teams := rest }))

/-! ### A late pre-emption (R321) -/

/-- PREBUDGET_EXPIRY: OVERDUE, and a notice of class PREEMPT_LATE. -/
def execPrebudgetExpiry (core : Nat) (s : State) : Host.Outcome State Fault Refusal :=
  let c := s.coreAt core
  if 512 ≤ core || !s.pend core || c.overdue || c.preBudget == 0 then .next s
  else
    let t := s.mapCore core (fun c => { c with overdue := true })
    let r : Raise := { Raise.bare 0 0 with agent := some core }
    .next (t.sendPacket (dieOf core) r.target
      (t.packet (dieOf core) { cls := 0x18, src := 0, notice := true, npages := 0, type := 0, agent := some core, forge := none, pc := c.regs.pc, addr := 0, detail := 0 }
        c.chunkWords c.sbWord) none)

end Sys2Proof.Machine
end

