-- ==== Sys2Proof/Machine/VecCvt.lean ====
section
/-! DEFINITION. VCVT, major 0x30 (05_vector_registers R113, 02_formats R46 to R48). -/

namespace Sys2Proof.Machine

/-- The element of v[d] at `k` after a conversion of code `c` and part `p`: the source element it comes from, when the
conversion writes it (R47). -/
def cvtSource (c part k : Nat) : Option Nat :=
  let w := cvtWidths c
  if w.1 ≤ w.2 then some (part * lanes w.2 + k)
  else
    let n := lanes w.1
    if part * n ≤ k && k < part * n + n then some (k - part * n) else none

/-- A conversion of one vector: each element of v[d] that the conversion reaches and the predicate activates. The
predicate bit of a 4-bit element is that of its byte (R47). -/
def Core.convert (x : Core) (d a : BitVec 5) (c part : Nat) (p : BitVec 3) : Core :=
  let w := cvtWidths c
  let q := x.readP p
  let old := x.readV d
  let rs := tab (fun k =>
    match (if active q w.2 k then cvtSource c part k else none) with
    | some j => (cvtElem c x.regs.frm (elem w.1 (x.readV a) j), true)
    | none => (quiet (elem w.2 old k), false)) 0 (lanes w.2)
  let y := ofElems w.2 (rs.map (fun r => r.1.1))
  (if rs.all Prod.snd then x.writeV d y else x.mergeV d y).raiseFl (flagsOf (rs.map Prod.fst))

/-- VCVT (R113). -/
def execVcvt (d a c : BitVec 5) (x : BitVec 2) (p : BitVec 3) (l : BitVec 4) (s : State) :
    Host.Outcome State Fault Refusal :=
  issue (Plan.multi [vR a, pR p] [vR d] l) (fun s => .done (s.me (fun y => y.convert d a c.toNat x.toNat p))) s

end Sys2Proof.Machine
end

