-- ==== Sys2Proof/Machine/VecFloat.lean ====
section
/-! DEFINITION. Vector floating-point arithmetic, majors 0x2B to 0x2D (05_vector_registers R104 to R106). -/

namespace Sys2Proof.Machine

/-- VADD.F32 (R104). -/
def execVaddF32 (d a b : BitVec 5) (p : BitVec 3) (l : BitVec 4) (s : State) : Host.Outcome State Fault Refusal :=
  opVV d a b p l 32 (fadd fmtF32) s

/-- VSUB.F32 (R104). -/
def execVsubF32 (d a b : BitVec 5) (p : BitVec 3) (l : BitVec 4) (s : State) : Host.Outcome State Fault Refusal :=
  opVV d a b p l 32 (fsub fmtF32) s

/-- VMUL.F32 (R104). -/
def execVmulF32 (d a b : BitVec 5) (p : BitVec 3) (l : BitVec 4) (s : State) : Host.Outcome State Fault Refusal :=
  opVV d a b p l 32 (fmul fmtF32) s

/-- VFMA.F32: A · B + D, one rounding (R104). -/
def execVfmaF32 (d a b : BitVec 5) (p : BitVec 3) (l : BitVec 4) (s : State) : Host.Outcome State Fault Refusal :=
  opVVD d a b p l 32 (ffma fmtF32) s

/-- VFMS.F32: A · B − D, one rounding (R104). -/
def execVfmsF32 (d a b : BitVec 5) (p : BitVec 3) (l : BitVec 4) (s : State) : Host.Outcome State Fault Refusal :=
  opVVD d a b p l 32 (ffms fmtF32) s

/-- VMIN.F32 (R104, R30). -/
def execVminF32 (d a b : BitVec 5) (p : BitVec 3) (l : BitVec 4) (s : State) : Host.Outcome State Fault Refusal :=
  opVV d a b p l 32 (fun _ => fminmax false fmtF32) s

/-- VMAX.F32 (R104, R30). -/
def execVmaxF32 (d a b : BitVec 5) (p : BitVec 3) (l : BitVec 4) (s : State) : Host.Outcome State Fault Refusal :=
  opVV d a b p l 32 (fun _ => fminmax true fmtF32) s

/-- VDIV.F32 (R104). -/
def execVdivF32 (d a b : BitVec 5) (p : BitVec 3) (l : BitVec 4) (s : State) : Host.Outcome State Fault Refusal :=
  opVV d a b p l 32 (fdiv fmtF32) s

/-- VSQRT.F32 (R104). -/
def execVsqrtF32 (d a : BitVec 5) (p : BitVec 3) (l : BitVec 4) (s : State) : Host.Outcome State Fault Refusal :=
  opVU d a p l 32 (fsqrt fmtF32) s

/-- VABS.F32 (R104). -/
def execVabsF32 (d a : BitVec 5) (p : BitVec 3) (l : BitVec 4) (s : State) : Host.Outcome State Fault Refusal :=
  opVU d a p l 32 (fun _ => fabs fmtF32) s

/-- VNEG.F32 (R104). -/
def execVnegF32 (d a : BitVec 5) (p : BitVec 3) (l : BitVec 4) (s : State) : Host.Outcome State Fault Refusal :=
  opVU d a p l 32 (fun _ => fneg fmtF32) s

/-- VRCPE.F32 (R105). -/
def execVrcpeF32 (d a : BitVec 5) (p : BitVec 3) (l : BitVec 4) (s : State) : Host.Outcome State Fault Refusal :=
  opVU d a p l 32 (fun _ => frcpe fmtF32) s

/-- VRSQE.F32 (R105). -/
def execVrsqeF32 (d a : BitVec 5) (p : BitVec 3) (l : BitVec 4) (s : State) : Host.Outcome State Fault Refusal :=
  opVU d a p l 32 (fun _ => frsqe fmtF32) s

/-- VCEQ.F32 (R106, R30). -/
def execVceqF32 (d : BitVec 3) (a b : BitVec 5) (p : BitVec 3) (l : BitVec 4) (s : State) : Host.Outcome State Fault Refusal :=
  opVC d a b p l 32 (fcompare .eq fmtF32) s

/-- VCLT.F32 (R106, R30). -/
def execVcltF32 (d : BitVec 3) (a b : BitVec 5) (p : BitVec 3) (l : BitVec 4) (s : State) : Host.Outcome State Fault Refusal :=
  opVC d a b p l 32 (fcompare .lt fmtF32) s

/-- VCLE.F32 (R106, R30). -/
def execVcleF32 (d : BitVec 3) (a b : BitVec 5) (p : BitVec 3) (l : BitVec 4) (s : State) : Host.Outcome State Fault Refusal :=
  opVC d a b p l 32 (fcompare .le fmtF32) s

/-- VADD.BF16 (R104). -/
def execVaddBf16 (d a b : BitVec 5) (p : BitVec 3) (l : BitVec 4) (s : State) : Host.Outcome State Fault Refusal :=
  opVV d a b p l 16 (fadd fmtBF16) s

/-- VSUB.BF16 (R104). -/
def execVsubBf16 (d a b : BitVec 5) (p : BitVec 3) (l : BitVec 4) (s : State) : Host.Outcome State Fault Refusal :=
  opVV d a b p l 16 (fsub fmtBF16) s

/-- VMUL.BF16 (R104). -/
def execVmulBf16 (d a b : BitVec 5) (p : BitVec 3) (l : BitVec 4) (s : State) : Host.Outcome State Fault Refusal :=
  opVV d a b p l 16 (fmul fmtBF16) s

/-- VFMA.BF16: A · B + D, one rounding (R104). -/
def execVfmaBf16 (d a b : BitVec 5) (p : BitVec 3) (l : BitVec 4) (s : State) : Host.Outcome State Fault Refusal :=
  opVVD d a b p l 16 (ffma fmtBF16) s

/-- VFMS.BF16: A · B − D, one rounding (R104). -/
def execVfmsBf16 (d a b : BitVec 5) (p : BitVec 3) (l : BitVec 4) (s : State) : Host.Outcome State Fault Refusal :=
  opVVD d a b p l 16 (ffms fmtBF16) s

/-- VMIN.BF16 (R104, R30). -/
def execVminBf16 (d a b : BitVec 5) (p : BitVec 3) (l : BitVec 4) (s : State) : Host.Outcome State Fault Refusal :=
  opVV d a b p l 16 (fun _ => fminmax false fmtBF16) s

/-- VMAX.BF16 (R104, R30). -/
def execVmaxBf16 (d a b : BitVec 5) (p : BitVec 3) (l : BitVec 4) (s : State) : Host.Outcome State Fault Refusal :=
  opVV d a b p l 16 (fun _ => fminmax true fmtBF16) s

/-- VABS.BF16 (R104). -/
def execVabsBf16 (d a : BitVec 5) (p : BitVec 3) (l : BitVec 4) (s : State) : Host.Outcome State Fault Refusal :=
  opVU d a p l 16 (fun _ => fabs fmtBF16) s

/-- VNEG.BF16 (R104). -/
def execVnegBf16 (d a : BitVec 5) (p : BitVec 3) (l : BitVec 4) (s : State) : Host.Outcome State Fault Refusal :=
  opVU d a p l 16 (fun _ => fneg fmtBF16) s

/-- VRCPE.BF16 (R105). -/
def execVrcpeBf16 (d a : BitVec 5) (p : BitVec 3) (l : BitVec 4) (s : State) : Host.Outcome State Fault Refusal :=
  opVU d a p l 16 (fun _ => frcpe fmtBF16) s

/-- VRSQE.BF16 (R105). -/
def execVrsqeBf16 (d a : BitVec 5) (p : BitVec 3) (l : BitVec 4) (s : State) : Host.Outcome State Fault Refusal :=
  opVU d a p l 16 (fun _ => frsqe fmtBF16) s

/-- VCEQ.BF16 (R106, R30). -/
def execVceqBf16 (d : BitVec 3) (a b : BitVec 5) (p : BitVec 3) (l : BitVec 4) (s : State) : Host.Outcome State Fault Refusal :=
  opVC d a b p l 16 (fcompare .eq fmtBF16) s

/-- VCLT.BF16 (R106, R30). -/
def execVcltBf16 (d : BitVec 3) (a b : BitVec 5) (p : BitVec 3) (l : BitVec 4) (s : State) : Host.Outcome State Fault Refusal :=
  opVC d a b p l 16 (fcompare .lt fmtBF16) s

/-- VCLE.BF16 (R106, R30). -/
def execVcleBf16 (d : BitVec 3) (a b : BitVec 5) (p : BitVec 3) (l : BitVec 4) (s : State) : Host.Outcome State Fault Refusal :=
  opVC d a b p l 16 (fcompare .le fmtBF16) s

/-- VADD.F16 (R104). -/
def execVaddF16 (d a b : BitVec 5) (p : BitVec 3) (l : BitVec 4) (s : State) : Host.Outcome State Fault Refusal :=
  opVV d a b p l 16 (fadd fmtF16) s

/-- VSUB.F16 (R104). -/
def execVsubF16 (d a b : BitVec 5) (p : BitVec 3) (l : BitVec 4) (s : State) : Host.Outcome State Fault Refusal :=
  opVV d a b p l 16 (fsub fmtF16) s

/-- VMUL.F16 (R104). -/
def execVmulF16 (d a b : BitVec 5) (p : BitVec 3) (l : BitVec 4) (s : State) : Host.Outcome State Fault Refusal :=
  opVV d a b p l 16 (fmul fmtF16) s

/-- VFMA.F16: A · B + D, one rounding (R104). -/
def execVfmaF16 (d a b : BitVec 5) (p : BitVec 3) (l : BitVec 4) (s : State) : Host.Outcome State Fault Refusal :=
  opVVD d a b p l 16 (ffma fmtF16) s

/-- VFMS.F16: A · B − D, one rounding (R104). -/
def execVfmsF16 (d a b : BitVec 5) (p : BitVec 3) (l : BitVec 4) (s : State) : Host.Outcome State Fault Refusal :=
  opVVD d a b p l 16 (ffms fmtF16) s

/-- VMIN.F16 (R104, R30). -/
def execVminF16 (d a b : BitVec 5) (p : BitVec 3) (l : BitVec 4) (s : State) : Host.Outcome State Fault Refusal :=
  opVV d a b p l 16 (fun _ => fminmax false fmtF16) s

/-- VMAX.F16 (R104, R30). -/
def execVmaxF16 (d a b : BitVec 5) (p : BitVec 3) (l : BitVec 4) (s : State) : Host.Outcome State Fault Refusal :=
  opVV d a b p l 16 (fun _ => fminmax true fmtF16) s

/-- VABS.F16 (R104). -/
def execVabsF16 (d a : BitVec 5) (p : BitVec 3) (l : BitVec 4) (s : State) : Host.Outcome State Fault Refusal :=
  opVU d a p l 16 (fun _ => fabs fmtF16) s

/-- VNEG.F16 (R104). -/
def execVnegF16 (d a : BitVec 5) (p : BitVec 3) (l : BitVec 4) (s : State) : Host.Outcome State Fault Refusal :=
  opVU d a p l 16 (fun _ => fneg fmtF16) s

/-- VRCPE.F16 (R105). -/
def execVrcpeF16 (d a : BitVec 5) (p : BitVec 3) (l : BitVec 4) (s : State) : Host.Outcome State Fault Refusal :=
  opVU d a p l 16 (fun _ => frcpe fmtF16) s

/-- VRSQE.F16 (R105). -/
def execVrsqeF16 (d a : BitVec 5) (p : BitVec 3) (l : BitVec 4) (s : State) : Host.Outcome State Fault Refusal :=
  opVU d a p l 16 (fun _ => frsqe fmtF16) s

/-- VCEQ.F16 (R106, R30). -/
def execVceqF16 (d : BitVec 3) (a b : BitVec 5) (p : BitVec 3) (l : BitVec 4) (s : State) : Host.Outcome State Fault Refusal :=
  opVC d a b p l 16 (fcompare .eq fmtF16) s

/-- VCLT.F16 (R106, R30). -/
def execVcltF16 (d : BitVec 3) (a b : BitVec 5) (p : BitVec 3) (l : BitVec 4) (s : State) : Host.Outcome State Fault Refusal :=
  opVC d a b p l 16 (fcompare .lt fmtF16) s

/-- VCLE.F16 (R106, R30). -/
def execVcleF16 (d : BitVec 3) (a b : BitVec 5) (p : BitVec 3) (l : BitVec 4) (s : State) : Host.Outcome State Fault Refusal :=
  opVC d a b p l 16 (fcompare .le fmtF16) s

end Sys2Proof.Machine
end

