-- ==== Sys2Proof/Machine/VecLogic.lean ====
section
/-! DEFINITION. Logical and predicate operations, major 0x2E (05_vector_registers R107, R108). -/

namespace Sys2Proof.Machine

/-- A single-cycle operation on bytes of v[a] and v[b], predicated by byte (R107). -/
def opVlog (d a b : BitVec 5) (p : BitVec 3) (f : Nat → Nat → Nat) : State → Host.Outcome State Fault Refusal :=
  issue (Plan.simple [vR a, vR b, pR p] [vR d]) (fun s => .done (s.me (fun c =>
    c.putV d p 8 (fun k => quiet (f (elem 8 (c.readV a) k) (elem 8 (c.readV b) k))))))
/-- A single-cycle operation on predicates. -/
def opPred (d a b : BitVec 3) (f : PWord → PWord → PWord) : State → Host.Outcome State Fault Refusal :=
  issue (Plan.simple [pR a, pR b] [pR d]) (fun s => .done (s.me (fun c => c.writeP d (f (c.readP a) (c.readP b)))))

/-- VAND (R107). -/
def execVand (d a b : BitVec 5) (p : BitVec 3) (s : State) : Host.Outcome State Fault Refusal :=
  opVlog d a b p (fun x y => x &&& y) s
/-- VOR (R107). -/
def execVor (d a b : BitVec 5) (p : BitVec 3) (s : State) : Host.Outcome State Fault Refusal :=
  opVlog d a b p (fun x y => x ||| y) s
/-- VXOR (R107). -/
def execVxor (d a b : BitVec 5) (p : BitVec 3) (s : State) : Host.Outcome State Fault Refusal :=
  opVlog d a b p (fun x y => x ^^^ y) s
/-- VANDN (R107). -/
def execVandn (d a b : BitVec 5) (p : BitVec 3) (s : State) : Host.Outcome State Fault Refusal :=
  opVlog d a b p (fun x y => x &&& (255 - y)) s
/-- VSEL: the predicate selects, and every byte is written (R107). -/
def execVsel (d a b : BitVec 5) (p : BitVec 3) (s : State) : Host.Outcome State Fault Refusal :=
  issue (Plan.simple [vR a, vR b, pR p] [vR d]) (fun s => .done (s.me (fun c =>
    c.writeV d (vtab 8 (fun k => if active (c.readP p) 8 k then elem 8 (c.readV a) k else elem 8 (c.readV b) k))))) s
/-- VPAND (R108). -/
def execVpand (d a b : BitVec 3) (s : State) : Host.Outcome State Fault Refusal := opPred d a b (fun x y => x &&& y) s
/-- VPOR (R108). -/
def execVpor (d a b : BitVec 3) (s : State) : Host.Outcome State Fault Refusal := opPred d a b (fun x y => x ||| y) s
/-- VPXOR (R108). -/
def execVpxor (d a b : BitVec 3) (s : State) : Host.Outcome State Fault Refusal := opPred d a b (fun x y => x ^^^ y) s
/-- VPNOT (R108). -/
def execVpnot (d a : BitVec 3) (s : State) : Host.Outcome State Fault Refusal :=
  issue (Plan.simple [pR a] [pR d]) (fun s => .done (s.me (fun c => c.writeP d (~~~(c.readP a))))) s

/-- The elements of `w` bits that both predicates activate, in rising order. -/
def bothActive (w : Nat) (p q : PWord) : List Nat := (tab id 0 (lanes w)).filter (fun k => active p w k && active q w k)

/-- VPCNT: how many elements are active in p[a] and p[pm] (R108). -/
def execVpcnt (d : BitVec 5) (a : BitVec 3) (e : BitVec 5) (p : BitVec 3) (l : BitVec 4) (s : State) :
    Host.Outcome State Fault Refusal :=
  opM [pR a, pR p] d l (fun c => wn (bothActive (widthE e.toNat) (c.readP a) (c.readP p)).length) s
/-- VPFIRST: the lowest such element, or N (R108). -/
def execVpfirst (d : BitVec 5) (a : BitVec 3) (e : BitVec 5) (p : BitVec 3) (l : BitVec 4) (s : State) :
    Host.Outcome State Fault Refusal :=
  opM [pR a, pR p] d l (fun c =>
    wn ((bothActive (widthE e.toNat) (c.readP a) (c.readP p)).head?.getD (lanes (widthE e.toNat)))) s

end Sys2Proof.Machine
end

