-- ==== Sys2Proof/Machine/VecMove.lean ====
section
/-! DEFINITION. Moves between register files, major 0x35 (05_vector_registers R119). -/

namespace Sys2Proof.Machine

/-- VMVSV: every element becomes the low bits of s[a]. -/
def execVmvsv (d a : BitVec 5) (w : BitVec 3) (l : BitVec 4) (s : State) : Host.Outcome State Fault Refusal :=
  opW [sR a] d l (fun _ => true)
    (fun c => (vtab (widthW w.toNat) (fun _ => bits (c.readS a).toNat 0 (widthW w.toNat)), flNone)) s
/-- VMVVS: element s[b] mod N of v[a], zero-extended. -/
def execVmvvs (d a b : BitVec 5) (w : BitVec 3) (l : BitVec 4) (s : State) : Host.Outcome State Fault Refusal :=
  opM [vR a, sR b] d l
    (fun c => wn (elem (widthW w.toNat) (c.readV a) ((c.readS b).toNat % lanes (widthW w.toNat)))) s
/-- VPLD: a slice of v[a] into p[d]. -/
def execVpld (d : BitVec 3) (a : BitVec 5) (n : BitVec 3) (l : BitVec 4) (s : State) :
    Host.Outcome State Fault Refusal :=
  issue (Plan.multi [vR a] [pR d] l)
    (fun s => .done (s.me (fun c => c.writeP d (BitVec.ofNat 256 (elem 256 (c.readV a) n.toNat))))) s
/-- VPST: p[a] into a slice of v[d]. -/
def execVpst (d : BitVec 5) (a : BitVec 3) (n : BitVec 3) (l : BitVec 4) (s : State) :
    Host.Outcome State Fault Refusal :=
  opW [pR a] d l (fun _ => false) (fun c => (setElem 256 (c.readV d) n.toNat (c.readP a).toNat, flNone)) s

end Sys2Proof.Machine
end

