-- ==== Sys2Proof/Machine/Dispatch.lean ====
section
/-! DEFINITION. The meaning of every row of the opcode table: one arm per constructor of `Instr`. -/

namespace Sys2Proof.Machine

/-- One instruction word, engine command, or step of the device's own, from state to outcome. -/
def exec (i : Instr) (s : State) : Host.Outcome State Fault Refusal :=
  match i with
  | .illegalInstruction w => Sys2Proof.Machine.execIllegalInstruction w s
  | .emul w => Sys2Proof.Machine.execEmul w s
  | .mapply g => Sys2Proof.Machine.execMapply g s
  | .mcolsum g => Sys2Proof.Machine.execMcolsum g s
  | .mloadb g => Sys2Proof.Machine.execMloadb g s
  | .mswapb g => Sys2Proof.Machine.execMswapb g s
  | .mrotb g => Sys2Proof.Machine.execMrotb g s
  | .mprobe g => Sys2Proof.Machine.execMprobe g s
  | .sfact d slot => Sys2Proof.Machine.execSfact d slot s
  | .sfactq d slot => Sys2Proof.Machine.execSfactq d slot s
  | .tcopy d slot => Sys2Proof.Machine.execTcopy d slot s
  | .tcopy2 d slot => Sys2Proof.Machine.execTcopy2 d slot s
  | .tgath d slot => Sys2Proof.Machine.execTgath d slot s
  | .tscat d slot => Sys2Proof.Machine.execTscat d slot s
  | .tfill d slot => Sys2Proof.Machine.execTfill d slot s
  | .tpref d slot => Sys2Proof.Machine.execTpref d slot s
  | .creds k => Sys2Proof.Machine.execCreds k s
  | .cgath k => Sys2Proof.Machine.execCgath k s
  | .cbcast k => Sys2Proof.Machine.execCbcast k s
  | .callred k => Sys2Proof.Machine.execCallred k s
  | .migr d => Sys2Proof.Machine.execMigr d s
  | .migra d => Sys2Proof.Machine.execMigra d s
  | .mevac d => Sys2Proof.Machine.execMevac d s
  | .svctxRequest d => Sys2Proof.Machine.execSvctxRequest d s
  | .svctxForced d => Sys2Proof.Machine.execSvctxForced d s
  | .svctxFrozen d => Sys2Proof.Machine.execSvctxFrozen d s
  | .rsctx d => Sys2Proof.Machine.execRsctx d s
  | .engineStart d e => Sys2Proof.Machine.execEngineStart d e s
  | .collectiveStart core => Sys2Proof.Machine.execCollectiveStart core s
  | .commandEnd d e slot => Sys2Proof.Machine.execCommandEnd d e slot s
  | .anvilArbiterRound g => Sys2Proof.Machine.execAnvilArbiterRound g s
  | .anvilPass g => Sys2Proof.Machine.execAnvilPass g s
  | .passDrain g => Sys2Proof.Machine.execPassDrain g s
  | .holdingBufferDrain core => Sys2Proof.Machine.execHoldingBufferDrain core s
  | .shadowTransferEnd g => Sys2Proof.Machine.execShadowTransferEnd g s
  | .batchBoundary g => Sys2Proof.Machine.execBatchBoundary g s
  | .probeSet g => Sys2Proof.Machine.execProbeSet g s
  | .probeReferenceEnd g => Sys2Proof.Machine.execProbeReferenceEnd g s
  | .probeUpdate g => Sys2Proof.Machine.execProbeUpdate g s
  | .probeStaleTimeout g => Sys2Proof.Machine.execProbeStaleTimeout g s
  | .chunkCommit agent => Sys2Proof.Machine.execChunkCommit agent s
  | .writeNotice => Sys2Proof.Machine.execWriteNotice s
  | .scoreboardComplete agent entry => Sys2Proof.Machine.execScoreboardComplete agent entry s
  | .lateFault agent entry => Sys2Proof.Machine.execLateFault agent entry s
  | .runAhead agent => Sys2Proof.Machine.execRunAhead agent s
  | .atomicPerform => Sys2Proof.Machine.execAtomicPerform s
  | .reductionDelivery => Sys2Proof.Machine.execReductionDelivery s
  | .feWaitRelease word => Sys2Proof.Machine.execFeWaitRelease word s
  | .linkSlotArrival core dir => Sys2Proof.Machine.execLinkSlotArrival core dir s
  | .barrierArrival => Sys2Proof.Machine.execBarrierArrival s
  | .eventRelease g => Sys2Proof.Machine.execEventRelease g s
  | .taskAgingTick core entry => Sys2Proof.Machine.execTaskAgingTick core entry s
  | .dispatch core => Sys2Proof.Machine.execDispatch core s
  | .restore core entry => Sys2Proof.Machine.execRestore core entry s
  | .gangReservation g => Sys2Proof.Machine.execGangReservation g s
  | .gangDispatch g => Sys2Proof.Machine.execGangDispatch g s
  | .launchUnitPost core => Sys2Proof.Machine.execLaunchUnitPost core s
  | .costartDispatch team => Sys2Proof.Machine.execCostartDispatch team s
  | .prebudgetExpiry core => Sys2Proof.Machine.execPrebudgetExpiry core s
  | .save core => Sys2Proof.Machine.execSave core s
  | .packetRingWrite sup => Sys2Proof.Machine.execPacketRingWrite sup s
  | .migrationLineCopy d entry => Sys2Proof.Machine.execMigrationLineCopy d entry s
  | .migrationSwitch d entry => Sys2Proof.Machine.execMigrationSwitch d entry s
  | .migrationAbort d entry => Sys2Proof.Machine.execMigrationAbort d entry s
  | .hotnessSample port => Sys2Proof.Machine.execHotnessSample port s
  | .hotnessHalving port => Sys2Proof.Machine.execHotnessHalving port s
  | .notificationRepost d => Sys2Proof.Machine.execNotificationRepost d s
  | .scrubStep port row ce ue => Sys2Proof.Machine.execScrubStep port row ce ue s
  | .scrubRateReview port => Sys2Proof.Machine.execScrubRateReview port s
  | .refreshDue port bank how => Sys2Proof.Machine.execRefreshDue port bank how s
  | .activationAlert port banks => Sys2Proof.Machine.execActivationAlert port banks s
  | .vbusCrcError d group lane => Sys2Proof.Machine.execVbusCrcError d group lane s
  | .vbusLaneSteer d group => Sys2Proof.Machine.execVbusLaneSteer d group s
  | .inFieldTest g => Sys2Proof.Machine.execInFieldTest g s
  | .iftInterval g => Sys2Proof.Machine.execIftInterval g s
  | .iftStart g => Sys2Proof.Machine.execIftStart g s
  | .islandRelock d q => Sys2Proof.Machine.execIslandRelock d q s
  | .islctlWrite d q v => Sys2Proof.Machine.execIslctlWrite d q v s
  | .droopStretch d q => Sys2Proof.Machine.execDroopStretch d q s
  | .droopRecover d q => Sys2Proof.Machine.execDroopRecover d q s
  | .brownoutHold => Sys2Proof.Machine.execBrownoutHold s
  | .brownoutResume => Sys2Proof.Machine.execBrownoutResume s
  | .powerCapStep avg => Sys2Proof.Machine.execPowerCapStep avg s
  | .powerCapRestore avg => Sys2Proof.Machine.execPowerCapRestore avg s
  | .converterRowHot g temp => Sys2Proof.Machine.execConverterRowHot g temp s
  | .quenchExit g temp => Sys2Proof.Machine.execQuenchExit g temp s
  | .junctionHot d q temp => Sys2Proof.Machine.execJunctionHot d q temp s
  | .throttleStep d q temp => Sys2Proof.Machine.execThrottleStep d q temp s
  | .photonicHot g => Sys2Proof.Machine.execPhotonicHot g s
  | .thermalTrip => Sys2Proof.Machine.execThermalTrip s
  | .coldBoot inputs => Sys2Proof.Machine.execColdBoot inputs s
  | .pcieReset kind inputs => Sys2Proof.Machine.execPcieReset kind inputs s
  | .hostLinkDown => Sys2Proof.Machine.execHostLinkDown s
  | .hostLinkUp => Sys2Proof.Machine.execHostLinkUp s
  | .hostMemRead bar off size => Sys2Proof.Machine.execHostMemRead bar off size s
  | .hostMemWrite bar off size v => Sys2Proof.Machine.execHostMemWrite bar off size v s
  | .cxlSurpriseRemoval port expander => Sys2Proof.Machine.execCxlSurpriseRemoval port expander s
  | .atfinLockLost port => Sys2Proof.Machine.execAtfinLockLost port s
  | .atfinReplayRequest port => Sys2Proof.Machine.execAtfinReplayRequest port s
  | .atfinFlitAck port => Sys2Proof.Machine.execAtfinFlitAck port s
  | .atfinReplayLimit port => Sys2Proof.Machine.execAtfinReplayLimit port s
  | .atfinRetrainEnd port ok waves => Sys2Proof.Machine.execAtfinRetrainEnd port ok waves s
  | .hostcmdWarmReset inputs => Sys2Proof.Machine.execHostcmdWarmReset inputs s
  | .hostcmdPostTransport inputs => Sys2Proof.Machine.execHostcmdPostTransport inputs s
  | .hostcmdQuote => Sys2Proof.Machine.execHostcmdQuote s
  | .hostcmdFwCommit flash => Sys2Proof.Machine.execHostcmdFwCommit flash s
  | .readStatus => Sys2Proof.Machine.execReadStatus s
  | .warmReset inputs => Sys2Proof.Machine.execWarmReset inputs s
  | .postTransport inputs => Sys2Proof.Machine.execPostTransport inputs s
  | .setCap v => Sys2Proof.Machine.execSetCap v s
  | .readFeat => Sys2Proof.Machine.execReadFeat s
  | .flashWindow off => Sys2Proof.Machine.execFlashWindow off s
  | .wttPost core entry => Sys2Proof.Machine.execWttPost core entry s
  | .wttCancel core entry => Sys2Proof.Machine.execWttCancel core entry s
  | .wttKill core entry => Sys2Proof.Machine.execWttKill core entry s
  | .teamLaunch v => Sys2Proof.Machine.execTeamLaunch v s
  | .migPortSubmit d sup w3 => Sys2Proof.Machine.execMigPortSubmit d sup w3 s
  | .migPortPop d => Sys2Proof.Machine.execMigPortPop d s
  | .savePortSubmit d sup w3 => Sys2Proof.Machine.execSavePortSubmit d sup w3 s
  | .savePortPop d => Sys2Proof.Machine.execSavePortPop d s
  | .nqPop d => Sys2Proof.Machine.execNqPop d s
  | .hdoor v => Sys2Proof.Machine.execHdoor v s
  | .hrelease v => Sys2Proof.Machine.execHrelease v s
  | .smsgDoorbell v => Sys2Proof.Machine.execSmsgDoorbell v s
  | .histClear g v => Sys2Proof.Machine.execHistClear g v s
  | .evWindowLoad g sel d => Sys2Proof.Machine.execEvWindowLoad g sel d s
  | .evWindowStore g sel => Sys2Proof.Machine.execEvWindowStore g sel s
  | .lsplitWrite core v => Sys2Proof.Machine.execLsplitWrite core v s
  | .l2scrWrite core v => Sys2Proof.Machine.execL2scrWrite core v s
  | .hsampleWrite d v => Sys2Proof.Machine.execHsampleWrite d v s
  | .registerWrite pa v => Sys2Proof.Machine.execRegisterWrite pa v s
  | .voltageLoopAdjust d q => Sys2Proof.Machine.execVoltageLoopAdjust d q s
  | .refreshComplete port stalled => Sys2Proof.Machine.execRefreshComplete port stalled s
  | .powerRemoval => Sys2Proof.Machine.execPowerRemoval s
  | .inFieldTestEnd g result => Sys2Proof.Machine.execInFieldTestEnd g result s
  | .dieToDiePathFailure k => Sys2Proof.Machine.execDieToDiePathFailure k s
  | .atfinFlitArrival port flit => Sys2Proof.Machine.execAtfinFlitArrival port flit s
  | .homeAcknowledge => Sys2Proof.Machine.execHomeAcknowledge s
  | .msgDelivery => Sys2Proof.Machine.execMsgDelivery s
  | .skxDelivery => Sys2Proof.Machine.execSkxDelivery s
  | .ill => Sys2Proof.Machine.execIll s
  | .nop => Sys2Proof.Machine.execNop s
  | .csrr d c => Sys2Proof.Machine.execCsrr d c s
  | .csrw d a c => Sys2Proof.Machine.execCsrw d a c s
  | .csrs d a c => Sys2Proof.Machine.execCsrs d a c s
  | .csrc d a c => Sys2Proof.Machine.execCsrc d a c s
  | .fence sc => Sys2Proof.Machine.execFence sc s
  | .rel sc => Sys2Proof.Machine.execRel sc s
  | .acq sc => Sys2Proof.Machine.execAcq sc s
  | .chunke => Sys2Proof.Machine.execChunke s
  | .svc n => Sys2Proof.Machine.execSvc n s
  | .halt => Sys2Proof.Machine.execHalt s
  | .resume d a => Sys2Proof.Machine.execResume d a s
  | .tlbi a m => Sys2Proof.Machine.execTlbi a m s
  | .frply a => Sys2Proof.Machine.execFrply a s
  | .l2flw a => Sys2Proof.Machine.execL2flw a s
  | .hflush d a m => Sys2Proof.Machine.execHflush d a m s
  | .add d a b => Sys2Proof.Machine.execAdd d a b s
  | .sub d a b => Sys2Proof.Machine.execSub d a b s
  | .and d a b => Sys2Proof.Machine.execAnd d a b s
  | .or d a b => Sys2Proof.Machine.execOr d a b s
  | .xor d a b => Sys2Proof.Machine.execXor d a b s
  | .andn d a b => Sys2Proof.Machine.execAndn d a b s
  | .orn d a b => Sys2Proof.Machine.execOrn d a b s
  | .xnor d a b => Sys2Proof.Machine.execXnor d a b s
  | .sll d a b => Sys2Proof.Machine.execSll d a b s
  | .srl d a b => Sys2Proof.Machine.execSrl d a b s
  | .sra d a b => Sys2Proof.Machine.execSra d a b s
  | .rol d a b => Sys2Proof.Machine.execRol d a b s
  | .ror d a b => Sys2Proof.Machine.execRor d a b s
  | .slt d a b => Sys2Proof.Machine.execSlt d a b s
  | .sltu d a b => Sys2Proof.Machine.execSltu d a b s
  | .seq d a b => Sys2Proof.Machine.execSeq d a b s
  | .min d a b => Sys2Proof.Machine.execMin d a b s
  | .max d a b => Sys2Proof.Machine.execMax d a b s
  | .minu d a b => Sys2Proof.Machine.execMinu d a b s
  | .maxu d a b => Sys2Proof.Machine.execMaxu d a b s
  | .mul d a b l => Sys2Proof.Machine.execMul d a b l s
  | .mulh d a b l => Sys2Proof.Machine.execMulh d a b l s
  | .mulhu d a b l => Sys2Proof.Machine.execMulhu d a b l s
  | .div d a b l => Sys2Proof.Machine.execDiv d a b l s
  | .divu d a b l => Sys2Proof.Machine.execDivu d a b l s
  | .rem d a b l => Sys2Proof.Machine.execRem d a b l s
  | .remu d a b l => Sys2Proof.Machine.execRemu d a b l s
  | .clz d a => Sys2Proof.Machine.execClz d a s
  | .ctz d a => Sys2Proof.Machine.execCtz d a s
  | .popc d a => Sys2Proof.Machine.execPopc d a s
  | .brev d a => Sys2Proof.Machine.execBrev d a s
  | .bswap d a => Sys2Proof.Machine.execBswap d a s
  | .sextb d a => Sys2Proof.Machine.execSextb d a s
  | .sexth d a => Sys2Proof.Machine.execSexth d a s
  | .sextw d a => Sys2Proof.Machine.execSextw d a s
  | .zextw d a => Sys2Proof.Machine.execZextw d a s
  | .addw d a b => Sys2Proof.Machine.execAddw d a b s
  | .subw d a b => Sys2Proof.Machine.execSubw d a b s
  | .adds d a b => Sys2Proof.Machine.execAdds d a b s
  | .hadd d a b => Sys2Proof.Machine.execHadd d a b s
  | .addi d a imm => Sys2Proof.Machine.execAddi d a imm s
  | .andi d a imm => Sys2Proof.Machine.execAndi d a imm s
  | .ori d a imm => Sys2Proof.Machine.execOri d a imm s
  | .xori d a imm => Sys2Proof.Machine.execXori d a imm s
  | .slti d a imm => Sys2Proof.Machine.execSlti d a imm s
  | .sltiu d a imm => Sys2Proof.Machine.execSltiu d a imm s
  | .lui d imm => Sys2Proof.Machine.execLui d imm s
  | .slli d a n => Sys2Proof.Machine.execSlli d a n s
  | .srli d a n => Sys2Proof.Machine.execSrli d a n s
  | .srai d a n => Sys2Proof.Machine.execSrai d a n s
  | .rori d a n => Sys2Proof.Machine.execRori d a n s
  | .beq a b o => Sys2Proof.Machine.execBeq a b o s
  | .bne a b o => Sys2Proof.Machine.execBne a b o s
  | .blt a b o => Sys2Proof.Machine.execBlt a b o s
  | .bge a b o => Sys2Proof.Machine.execBge a b o s
  | .bltu a b o => Sys2Proof.Machine.execBltu a b o s
  | .bgeu a b o => Sys2Proof.Machine.execBgeu a b o s
  | .jal o => Sys2Proof.Machine.execJal o s
  | .jalr d a imm => Sys2Proof.Machine.execJalr d a imm s
  | .lb d a o l => Sys2Proof.Machine.execLb d a o l s
  | .lh d a o l => Sys2Proof.Machine.execLh d a o l s
  | .lw d a o l => Sys2Proof.Machine.execLw d a o l s
  | .ld d a o l => Sys2Proof.Machine.execLd d a o l s
  | .lbu d a o l => Sys2Proof.Machine.execLbu d a o l s
  | .lhu d a o l => Sys2Proof.Machine.execLhu d a o l s
  | .lwu d a o l => Sys2Proof.Machine.execLwu d a o l s
  | .sb d a o l => Sys2Proof.Machine.execSb d a o l s
  | .sh d a o l => Sys2Proof.Machine.execSh d a o l s
  | .sw d a o l => Sys2Proof.Machine.execSw d a o l s
  | .sd d a o l => Sys2Proof.Machine.execSd d a o l s
  | .lds d a o l => Sys2Proof.Machine.execLds d a o l s
  | .ldse d a l => Sys2Proof.Machine.execLdse d a l s
  | .stf a b l => Sys2Proof.Machine.execStf a b l s
  | .feclr a l => Sys2Proof.Machine.execFeclr a l s
  | .feset a l => Sys2Proof.Machine.execFeset a l s
  | .feq d a l => Sys2Proof.Machine.execFeq d a l s
  | .fadd d a b l => Sys2Proof.Machine.execFadd d a b l s
  | .fsub d a b l => Sys2Proof.Machine.execFsub d a b l s
  | .fmul d a b l => Sys2Proof.Machine.execFmul d a b l s
  | .fdiv d a b l => Sys2Proof.Machine.execFdiv d a b l s
  | .fsqrt d a l => Sys2Proof.Machine.execFsqrt d a l s
  | .fmin d a b l => Sys2Proof.Machine.execFmin d a b l s
  | .fmax d a b l => Sys2Proof.Machine.execFmax d a b l s
  | .fceq d a b l => Sys2Proof.Machine.execFceq d a b l s
  | .fclt d a b l => Sys2Proof.Machine.execFclt d a b l s
  | .fcle d a b l => Sys2Proof.Machine.execFcle d a b l s
  | .fmac d a b l => Sys2Proof.Machine.execFmac d a b l s
  | .fcvtdl d a l => Sys2Proof.Machine.execFcvtdl d a l s
  | .fcvtld d a l => Sys2Proof.Machine.execFcvtld d a l s
  | .fcvtsd d a l => Sys2Proof.Machine.execFcvtsd d a l s
  | .fcvtds d a l => Sys2Proof.Machine.execFcvtds d a l s
  | .fclass d a l => Sys2Proof.Machine.execFclass d a l s
  | .bext d a p n => Sys2Proof.Machine.execBext d a p n s
  | .bexts d a p n => Sys2Proof.Machine.execBexts d a p n s
  | .bins d a p n => Sys2Proof.Machine.execBins d a p n s
  | .amoswap d a b l => Sys2Proof.Machine.execAmoswap d a b l s
  | .amoadd d a b l => Sys2Proof.Machine.execAmoadd d a b l s
  | .amoand d a b l => Sys2Proof.Machine.execAmoand d a b l s
  | .amoor d a b l => Sys2Proof.Machine.execAmoor d a b l s
  | .amoxor d a b l => Sys2Proof.Machine.execAmoxor d a b l s
  | .amomin d a b l => Sys2Proof.Machine.execAmomin d a b l s
  | .amomax d a b l => Sys2Proof.Machine.execAmomax d a b l s
  | .amominu d a b l => Sys2Proof.Machine.execAmominu d a b l s
  | .amomaxu d a b l => Sys2Proof.Machine.execAmomaxu d a b l s
  | .amoswapI32 d a b l => Sys2Proof.Machine.execAmoswapI32 d a b l s
  | .amoaddI32 d a b l => Sys2Proof.Machine.execAmoaddI32 d a b l s
  | .amoandI32 d a b l => Sys2Proof.Machine.execAmoandI32 d a b l s
  | .amoorI32 d a b l => Sys2Proof.Machine.execAmoorI32 d a b l s
  | .amoxorI32 d a b l => Sys2Proof.Machine.execAmoxorI32 d a b l s
  | .amominI32 d a b l => Sys2Proof.Machine.execAmominI32 d a b l s
  | .amomaxI32 d a b l => Sys2Proof.Machine.execAmomaxI32 d a b l s
  | .amominuI32 d a b l => Sys2Proof.Machine.execAmominuI32 d a b l s
  | .amomaxuI32 d a b l => Sys2Proof.Machine.execAmomaxuI32 d a b l s
  | .cas d a b l => Sys2Proof.Machine.execCas d a b l s
  | .casgt d a b l => Sys2Proof.Machine.execCasgt d a b l s
  | .casver d a b l => Sys2Proof.Machine.execCasver d a b l s
  | .castag d a b l => Sys2Proof.Machine.execCastag d a b l s
  | .amofadd d a b l => Sys2Proof.Machine.execAmofadd d a b l s
  | .redadd d a b l => Sys2Proof.Machine.execRedadd d a b l s
  | .redmin d a b l => Sys2Proof.Machine.execRedmin d a b l s
  | .redmax d a b l => Sys2Proof.Machine.execRedmax d a b l s
  | .redfadd d a b l => Sys2Proof.Machine.execRedfadd d a b l s
  | .redor d a b l => Sys2Proof.Machine.execRedor d a b l s
  | .barArr n => Sys2Proof.Machine.execBarArr n s
  | .barWait n => Sys2Proof.Machine.execBarWait n s
  | .barArrw n => Sys2Proof.Machine.execBarArrw n s
  | .barInit n a sc => Sys2Proof.Machine.execBarInit n a sc s
  | .evwait d a => Sys2Proof.Machine.execEvwait d a s
  | .evsig a b => Sys2Proof.Machine.execEvsig a b s
  | .msg a b => Sys2Proof.Machine.execMsg a b s
  | .cntadd n a => Sys2Proof.Machine.execCntadd n a s
  | .cntwait n a => Sys2Proof.Machine.execCntwait n a s
  | .tkpost d a b => Sys2Proof.Machine.execTkpost d a b s
  | .tkcancel d a => Sys2Proof.Machine.execTkcancel d a s
  | .tkexit => Sys2Proof.Machine.execTkexit s
  | .tkyield a b => Sys2Proof.Machine.execTkyield a b s
  | .prehint a b => Sys2Proof.Machine.execPrehint a b s
  | .gang a => Sys2Proof.Machine.execGang a s
  | .split => Sys2Proof.Machine.execSplit s
  | .cropen a => Sys2Proof.Machine.execCropen a s
  | .crclose => Sys2Proof.Machine.execCrclose s
  | .tkstat d a => Sys2Proof.Machine.execTkstat d a s
  | .qsend q a t => Sys2Proof.Machine.execQsend q a t s
  | .qsendv q a t => Sys2Proof.Machine.execQsendv q a t s
  | .qpush q a => Sys2Proof.Machine.execQpush q a s
  | .qpop d q l => Sys2Proof.Machine.execQpop d q l s
  | .qpopv d q l => Sys2Proof.Machine.execQpopv d q l s
  | .qstat d q => Sys2Proof.Machine.execQstat d q s
  | .qflush q => Sys2Proof.Machine.execQflush q s
  | .lkrd d k l => Sys2Proof.Machine.execLkrd d k l s
  | .lkrdf d k l => Sys2Proof.Machine.execLkrdf d k l s
  | .lkwr k a => Sys2Proof.Machine.execLkwr k a s
  | .lkstat d => Sys2Proof.Machine.execLkstat d s
  | .tloc d a l => Sys2Proof.Machine.execTloc d a l s
  | .tfix d a => Sys2Proof.Machine.execTfix d a s
  | .tretry d a => Sys2Proof.Machine.execTretry d a s
  | .trrd d a b l => Sys2Proof.Machine.execTrrd d a b l s
  | .wspsw a => Sys2Proof.Machine.execWspsw a s
  | .mbatch d => Sys2Proof.Machine.execMbatch d s
  | .mdrain d => Sys2Proof.Machine.execMdrain d s
  | .skcomb d a b => Sys2Proof.Machine.execSkcomb d a b s
  | .ckacc k a l => Sys2Proof.Machine.execCkacc k a l s
  | .ckaccx k a l => Sys2Proof.Machine.execCkaccx k a l s
  | .ckaccf k a l => Sys2Proof.Machine.execCkaccf k a l s
  | .ckaccv k a e l => Sys2Proof.Machine.execCkaccv k a e l s
  | .ckchk k a b l => Sys2Proof.Machine.execCkchk k a b l s
  | .ckchkf k a b l => Sys2Proof.Machine.execCkchkf k a b l s
  | .ckclr k => Sys2Proof.Machine.execCkclr k s
  | .ckrd d k => Sys2Proof.Machine.execCkrd d k s
  | .fshl d a b c => Sys2Proof.Machine.execFshl d a b c s
  | .fshr d a b c => Sys2Proof.Machine.execFshr d a b c s
  | .bextv d a b c => Sys2Proof.Machine.execBextv d a b c s
  | .binsv d a b c => Sys2Proof.Machine.execBinsv d a b c s
  | .vaddI32 d a b p l => Sys2Proof.Machine.execVaddI32 d a b p l s
  | .vsubI32 d a b p l => Sys2Proof.Machine.execVsubI32 d a b p l s
  | .vmulI32 d a b p l => Sys2Proof.Machine.execVmulI32 d a b p l s
  | .vmacI32 d a b p l => Sys2Proof.Machine.execVmacI32 d a b p l s
  | .vminI32 d a b p l => Sys2Proof.Machine.execVminI32 d a b p l s
  | .vmaxI32 d a b p l => Sys2Proof.Machine.execVmaxI32 d a b p l s
  | .vminuI32 d a b p l => Sys2Proof.Machine.execVminuI32 d a b p l s
  | .vmaxuI32 d a b p l => Sys2Proof.Machine.execVmaxuI32 d a b p l s
  | .vabsI32 d a p l => Sys2Proof.Machine.execVabsI32 d a p l s
  | .vnegI32 d a p l => Sys2Proof.Machine.execVnegI32 d a p l s
  | .vshlI32 d a b p l => Sys2Proof.Machine.execVshlI32 d a b p l s
  | .vshrI32 d a b p l => Sys2Proof.Machine.execVshrI32 d a b p l s
  | .vsraI32 d a b p l => Sys2Proof.Machine.execVsraI32 d a b p l s
  | .vceqI32 d a b p l => Sys2Proof.Machine.execVceqI32 d a b p l s
  | .vcltI32 d a b p l => Sys2Proof.Machine.execVcltI32 d a b p l s
  | .vcltuI32 d a b p l => Sys2Proof.Machine.execVcltuI32 d a b p l s
  | .vaddI16 d a b p l => Sys2Proof.Machine.execVaddI16 d a b p l s
  | .vsubI16 d a b p l => Sys2Proof.Machine.execVsubI16 d a b p l s
  | .vmulI16 d a b p l => Sys2Proof.Machine.execVmulI16 d a b p l s
  | .vmacI16 d a b p l => Sys2Proof.Machine.execVmacI16 d a b p l s
  | .vminI16 d a b p l => Sys2Proof.Machine.execVminI16 d a b p l s
  | .vmaxI16 d a b p l => Sys2Proof.Machine.execVmaxI16 d a b p l s
  | .vminuI16 d a b p l => Sys2Proof.Machine.execVminuI16 d a b p l s
  | .vmaxuI16 d a b p l => Sys2Proof.Machine.execVmaxuI16 d a b p l s
  | .vabsI16 d a p l => Sys2Proof.Machine.execVabsI16 d a p l s
  | .vnegI16 d a p l => Sys2Proof.Machine.execVnegI16 d a p l s
  | .vshlI16 d a b p l => Sys2Proof.Machine.execVshlI16 d a b p l s
  | .vshrI16 d a b p l => Sys2Proof.Machine.execVshrI16 d a b p l s
  | .vsraI16 d a b p l => Sys2Proof.Machine.execVsraI16 d a b p l s
  | .vceqI16 d a b p l => Sys2Proof.Machine.execVceqI16 d a b p l s
  | .vcltI16 d a b p l => Sys2Proof.Machine.execVcltI16 d a b p l s
  | .vcltuI16 d a b p l => Sys2Proof.Machine.execVcltuI16 d a b p l s
  | .vaddI8 d a b p l => Sys2Proof.Machine.execVaddI8 d a b p l s
  | .vsubI8 d a b p l => Sys2Proof.Machine.execVsubI8 d a b p l s
  | .vmulI8 d a b p l => Sys2Proof.Machine.execVmulI8 d a b p l s
  | .vmacI8 d a b p l => Sys2Proof.Machine.execVmacI8 d a b p l s
  | .vminI8 d a b p l => Sys2Proof.Machine.execVminI8 d a b p l s
  | .vmaxI8 d a b p l => Sys2Proof.Machine.execVmaxI8 d a b p l s
  | .vminuI8 d a b p l => Sys2Proof.Machine.execVminuI8 d a b p l s
  | .vmaxuI8 d a b p l => Sys2Proof.Machine.execVmaxuI8 d a b p l s
  | .vabsI8 d a p l => Sys2Proof.Machine.execVabsI8 d a p l s
  | .vnegI8 d a p l => Sys2Proof.Machine.execVnegI8 d a p l s
  | .vshlI8 d a b p l => Sys2Proof.Machine.execVshlI8 d a b p l s
  | .vshrI8 d a b p l => Sys2Proof.Machine.execVshrI8 d a b p l s
  | .vsraI8 d a b p l => Sys2Proof.Machine.execVsraI8 d a b p l s
  | .vceqI8 d a b p l => Sys2Proof.Machine.execVceqI8 d a b p l s
  | .vcltI8 d a b p l => Sys2Proof.Machine.execVcltI8 d a b p l s
  | .vcltuI8 d a b p l => Sys2Proof.Machine.execVcltuI8 d a b p l s
  | .vaddF32 d a b p l => Sys2Proof.Machine.execVaddF32 d a b p l s
  | .vsubF32 d a b p l => Sys2Proof.Machine.execVsubF32 d a b p l s
  | .vmulF32 d a b p l => Sys2Proof.Machine.execVmulF32 d a b p l s
  | .vfmaF32 d a b p l => Sys2Proof.Machine.execVfmaF32 d a b p l s
  | .vminF32 d a b p l => Sys2Proof.Machine.execVminF32 d a b p l s
  | .vmaxF32 d a b p l => Sys2Proof.Machine.execVmaxF32 d a b p l s
  | .vfmsF32 d a b p l => Sys2Proof.Machine.execVfmsF32 d a b p l s
  | .vdivF32 d a b p l => Sys2Proof.Machine.execVdivF32 d a b p l s
  | .vabsF32 d a p l => Sys2Proof.Machine.execVabsF32 d a p l s
  | .vnegF32 d a p l => Sys2Proof.Machine.execVnegF32 d a p l s
  | .vsqrtF32 d a p l => Sys2Proof.Machine.execVsqrtF32 d a p l s
  | .vrcpeF32 d a p l => Sys2Proof.Machine.execVrcpeF32 d a p l s
  | .vrsqeF32 d a p l => Sys2Proof.Machine.execVrsqeF32 d a p l s
  | .vceqF32 d a b p l => Sys2Proof.Machine.execVceqF32 d a b p l s
  | .vcltF32 d a b p l => Sys2Proof.Machine.execVcltF32 d a b p l s
  | .vcleF32 d a b p l => Sys2Proof.Machine.execVcleF32 d a b p l s
  | .vaddBf16 d a b p l => Sys2Proof.Machine.execVaddBf16 d a b p l s
  | .vsubBf16 d a b p l => Sys2Proof.Machine.execVsubBf16 d a b p l s
  | .vmulBf16 d a b p l => Sys2Proof.Machine.execVmulBf16 d a b p l s
  | .vfmaBf16 d a b p l => Sys2Proof.Machine.execVfmaBf16 d a b p l s
  | .vminBf16 d a b p l => Sys2Proof.Machine.execVminBf16 d a b p l s
  | .vmaxBf16 d a b p l => Sys2Proof.Machine.execVmaxBf16 d a b p l s
  | .vfmsBf16 d a b p l => Sys2Proof.Machine.execVfmsBf16 d a b p l s
  | .vabsBf16 d a p l => Sys2Proof.Machine.execVabsBf16 d a p l s
  | .vnegBf16 d a p l => Sys2Proof.Machine.execVnegBf16 d a p l s
  | .vrcpeBf16 d a p l => Sys2Proof.Machine.execVrcpeBf16 d a p l s
  | .vrsqeBf16 d a p l => Sys2Proof.Machine.execVrsqeBf16 d a p l s
  | .vceqBf16 d a b p l => Sys2Proof.Machine.execVceqBf16 d a b p l s
  | .vcltBf16 d a b p l => Sys2Proof.Machine.execVcltBf16 d a b p l s
  | .vcleBf16 d a b p l => Sys2Proof.Machine.execVcleBf16 d a b p l s
  | .vaddF16 d a b p l => Sys2Proof.Machine.execVaddF16 d a b p l s
  | .vsubF16 d a b p l => Sys2Proof.Machine.execVsubF16 d a b p l s
  | .vmulF16 d a b p l => Sys2Proof.Machine.execVmulF16 d a b p l s
  | .vfmaF16 d a b p l => Sys2Proof.Machine.execVfmaF16 d a b p l s
  | .vminF16 d a b p l => Sys2Proof.Machine.execVminF16 d a b p l s
  | .vmaxF16 d a b p l => Sys2Proof.Machine.execVmaxF16 d a b p l s
  | .vfmsF16 d a b p l => Sys2Proof.Machine.execVfmsF16 d a b p l s
  | .vabsF16 d a p l => Sys2Proof.Machine.execVabsF16 d a p l s
  | .vnegF16 d a p l => Sys2Proof.Machine.execVnegF16 d a p l s
  | .vrcpeF16 d a p l => Sys2Proof.Machine.execVrcpeF16 d a p l s
  | .vrsqeF16 d a p l => Sys2Proof.Machine.execVrsqeF16 d a p l s
  | .vceqF16 d a b p l => Sys2Proof.Machine.execVceqF16 d a b p l s
  | .vcltF16 d a b p l => Sys2Proof.Machine.execVcltF16 d a b p l s
  | .vcleF16 d a b p l => Sys2Proof.Machine.execVcleF16 d a b p l s
  | .vand d a b p => Sys2Proof.Machine.execVand d a b p s
  | .vor d a b p => Sys2Proof.Machine.execVor d a b p s
  | .vxor d a b p => Sys2Proof.Machine.execVxor d a b p s
  | .vandn d a b p => Sys2Proof.Machine.execVandn d a b p s
  | .vsel d a b p => Sys2Proof.Machine.execVsel d a b p s
  | .vpand d a b => Sys2Proof.Machine.execVpand d a b s
  | .vpor d a b => Sys2Proof.Machine.execVpor d a b s
  | .vpxor d a b => Sys2Proof.Machine.execVpxor d a b s
  | .vpnot d a => Sys2Proof.Machine.execVpnot d a s
  | .vpcnt d a e p l => Sys2Proof.Machine.execVpcnt d a e p l s
  | .vpfirst d a e p l => Sys2Proof.Machine.execVpfirst d a e p l s
  | .vperm d a b p l => Sys2Proof.Machine.execVperm d a b p l s
  | .vbcast d a b w l => Sys2Proof.Machine.execVbcast d a b w l s
  | .vext d a b p l => Sys2Proof.Machine.execVext d a b p l s
  | .vins d a b w l => Sys2Proof.Machine.execVins d a b w l s
  | .vslup d a b p l => Sys2Proof.Machine.execVslup d a b p l s
  | .vsldn d a b p l => Sys2Proof.Machine.execVsldn d a b p l s
  | .viota d e p l => Sys2Proof.Machine.execViota d e p l s
  | .vcompr d a e p l => Sys2Proof.Machine.execVcompr d a e p l s
  | .vredi d a e p l => Sys2Proof.Machine.execVredi d a e p l s
  | .vredf d a e p l => Sys2Proof.Machine.execVredf d a e p l s
  | .vredmx d a e p l => Sys2Proof.Machine.execVredmx d a e p l s
  | .vredmn d a e p l => Sys2Proof.Machine.execVredmn d a e p l s
  | .vcvt d a c x p l => Sys2Proof.Machine.execVcvt d a c x p l s
  | .vqgrp d a b t l => Sys2Proof.Machine.execVqgrp d a b t l s
  | .vdqgrp d a b t l => Sys2Proof.Machine.execVdqgrp d a b t l s
  | .vqmx d a b t l => Sys2Proof.Machine.execVqmx d a b t l s
  | .vdqmx d a b t l => Sys2Proof.Machine.execVdqmx d a b t l s
  | .vscacc d a b p l => Sys2Proof.Machine.execVscacc d a b p l s
  | .vbfpn d a b f l => Sys2Proof.Machine.execVbfpn d a b f l s
  | .vbfpx d a f l => Sys2Proof.Machine.execVbfpx d a f l s
  | .vzpc d a b p l => Sys2Proof.Machine.execVzpc d a b p l s
  | .vld d a o l => Sys2Proof.Machine.execVld d a o l s
  | .vst d a o l => Sys2Proof.Machine.execVst d a o l s
  | .vlds d a b p l => Sys2Proof.Machine.execVlds d a b p l s
  | .vsts d a b p l => Sys2Proof.Machine.execVsts d a b p l s
  | .vgth d a b p l => Sys2Proof.Machine.execVgth d a b p l s
  | .vsct d a b p l => Sys2Proof.Machine.execVsct d a b p l s
  | .vldb d a w l => Sys2Proof.Machine.execVldb d a w l s
  | .vmvsv d a w l => Sys2Proof.Machine.execVmvsv d a w l s
  | .vmvvs d a b w l => Sys2Proof.Machine.execVmvvs d a b w l s
  | .vpld d a n l => Sys2Proof.Machine.execVpld d a n l s
  | .vpst d a n l => Sys2Proof.Machine.execVpst d a n l s

end Sys2Proof.Machine
end

