-- ==== Sys2Proof/Machine/Upset.lean ====
section
/-! DEFINITION. Errors in storage and what the codes make of them (10_memory_integrity R201, R202, R205, R206,
07_memories R152, 15_error_tables R325). -/

namespace Sys2Proof.Machine

/-- A raise of a memory port or a hearth part for a line: ADDR is the VA of the access that found the error, if any. -/
def lineRaise (cls src line : Nat) (va : Option (Nat × Word)) : Raise :=
  let r := Raise.atPort cls src (homeOf (lineBase line)) (lineBase line)
  match va with | some x => { r with addr := x.2, behalf := some x.1 } | none => r
/-- A raise of CE_MEM (false) or UE_MEM (true) that names a core. -/
def coreRaise (s : State) (src a addr : Nat) (va : Option Word) (ue : Bool) : Raise :=
  { Raise.bare (b2n ue) src with agent := some a, pc := (s.coreAt a).regs.pc, addr := va.getD (wn addr) }

/-- A demand read finds an error in a line of its tier: the data is corrected and the stored line left as it is, and the
row scored; or the line becomes poisoned. A line that the hearth part serves is not read from its tier, and an expander
reports poison alone. -/
def State.tierUpset (s : State) (va : Option (Nat × Word)) (line : Nat) (ue : Bool) : State :=
  let pa := line * 128
  let h := homeOf pa
  if !hasStorage s.pkg pa || thas s.hearth line then s
  else if ue then (s.poisonLine line).raise (h / 128) (lineRaise 1 4 line va)
  else if cxlBase ≤ pa then s
  else
    let s1 := s.mapHome h (fun x => { x with demCe := x.demCe + 1 })
    let s2 := if pa < hbmTop then s1.scoreRow h (pa % 0x30000000 / 2048) (fld (s.dieAt (h / 128)).retthresh 20 4) 1 else s1
    s2.raise (h / 128) (lineRaise 0 4 line va)

/-- An error in a hearth part's line: corrected; a clean line refetched; a dirty one poisoned, with HEARTH_UE. -/
def State.hearthUpset (s : State) (va : Option (Nat × Word)) (line : Nat) (ue : Bool) : State :=
  let d := homeOf (lineBase line) / 128
  if !thas s.hearth line then s
  else if !ue then s.raise d (lineRaise 0 3 line va)
  else if (s.hearthAt line).dirty then ((s.poisonLine line).raise d (lineRaise 1 3 line va)).raise d (lineRaise 15 3 line va)
  else ({ s with hearth := tdel s.hearth line } : State).raise d (lineRaise 0 3 line va)

/-- An error in a cached line: corrected; a clean line refetched, which an L2 counts as CE_MEM; a line with dirty bytes
poisoned, its home at write-back. -/
def State.cacheUpset (s : State) (a line : Nat) (l2 ue : Bool) (va : Option Word) : State :=
  let c := s.coreAt a
  match findLine (if l2 then c.l2 else c.l1) line with
  | none => s
  | some x =>
    let r := coreRaise s (if l2 then 2 else 0) a (lineBase line) va
    let put := fun (f : List CacheLine → List CacheLine) =>
      s.mapCore a (fun c => if l2 then { c with l2 := f c.l2 } else { c with l1 := f c.l1 })
    if !ue then s.raise (dieOf a) (r false)
    else if x.dirty = 0 then (put (fun l => dropLine l line)).raise (dieOf a) (r !l2)
    else (put (fun l => putLine l { x with poison := true, bad := true })).raise (dieOf a) (r true)

/-- An error in a word of SRAM: corrected, or the word poisoned; one in its flag bits makes it empty as well. -/
def State.sramUpset (s : State) (core off : Nat) (ue flag : Bool) (va : Option Word) : State :=
  let w := sramBase core + off / 8 * 8
  let r := coreRaise s 0 core (off / 8 * 8) va
  if 512 ≤ core ∨ !sramAssigned (s.coreAt core) off then s
  else if !ue && !flag then s.raise (dieOf core) (r false)
  else
    let t := s.setPoison w true
    (if flag then t.setFull w false else t).raise (dieOf core) (r true)

/-- TLB_PARITY of a core. -/
def State.parityRaise (s : State) (a : Nat) : State :=
  s.raise (dieOf a) { Raise.bare 14 0 with agent := some a, pc := (s.coreAt a).regs.pc }

/-- A storage error comes about. Phase banks, trim codes and ADC tables carry no code: nothing is raised. -/
def State.upset (s : State) : Upset → State
  | .tier va line ue => s.tierUpset va line ue
  | .hearth va line ue => s.hearthUpset va line ue
  | .cache a line l2 ue va => if a < 520 then s.cacheUpset a line l2 ue va else s
  | .sram core off ue flag va => s.sramUpset core off ue flag va
  | .coreTlb a k =>
    if a < 520 ∧ k < (s.coreAt a).tlb.length then (s.mapCore a (fun c => { c with tlb := c.tlb.eraseIdx k })).parityRaise a else s
  | .dieTlb a k =>
    if a < 520 ∧ k < (s.dieAt (dieOf a)).l2tlb.length then
      (s.mapDie (dieOf a) (fun d => { d with l2tlb := d.l2tlb.eraseIdx k })).parityRaise a
    else s
  | .swage d slot pa ue =>
    match tfind (s.dieAt d).swage slot with
    | some x => s.raise d { Raise.bare (b2n ue) 7 with agent := some x.cmd.core, pc := (s.coreAt x.cmd.core).regs.pc, addr := wn pa }
    | none => s
  | .phase f shadow i v =>
    let put := fun (b : Bank) => if i < 18432 then
        { b with image := BitVec.ofNat 147456 (setBits b.image.toNat (8 * i) 8 v.toNat) } else b
    if f < 64 then s.mapForge f (fun g => if shadow then { g with shadow := put g.shadow } else { g with active := put g.active }) else s
  | .trim f i v => if f < 64 ∧ i < 4032 then s.mapForge f (fun g => { g with trim := tset g.trim i v }) else s
  | .adc f i v => if f < 64 ∧ i < 64 then s.mapForge f (fun g => { g with adc := tset g.adc i v }) else s

end Sys2Proof.Machine
end

