-- ==== Sys2Proof/Machine/Window.lean ====
section
/-! DEFINITION. What the forge window and the debug window reach beside the doublewords whose offsets the rules give: the
banks, trim codes and ADC tables of a forge (06_special_registers R127), and the SRAM region of a core (07_memories R142,
R159). Log entry 34. -/

namespace Sys2Proof.Machine

/-- A doubleword of a forge's anvil state. -/
def State.forgeItem (s : State) (f : Nat) (item : ForgeItem) : Word :=
  let g := s.forgeAt f
  match item with
  | .image shadow i => if i < 2304 then wn (bits (if shadow then g.shadow else g.active).image.toNat (64 * i) 64) else 0
  | .trims i => if i < 1008 then wn (ofDigits 16 (tab (fun k => (trimCode f g k).toNat) (4 * i) 4)) else 0
  | .adcs i => if i < 32 then wn (ofDigits 32 (tab (fun k => (nth 0 (adcTable f g) k).toNat) (2 * i) 2)) else 0

/-- A doubleword of it written: trim codes while TFRZ is set and ADC entries while AFRZ is set, into the pending copies;
any other write is ignored. -/
def Forge.putItem (g : Forge) (item : ForgeItem) (v : Word) : Forge :=
  match item with
  | .image _ _ => g
  | .trims i =>
    if g.tfrz && i < 1008 then
      { g with trimPend := (tab id 0 4).foldl (fun t k => tset t (4 * i + k) (BitVec.ofNat 16 (fld v (16 * k) 16))) g.trimPend }
    else g
  | .adcs i =>
    if g.afrz && i < 32 then
      { g with adcPend := (tab id 0 2).foldl (fun t k => tset t (2 * i + k) (BitVec.ofNat 32 (fld v (32 * k) 32))) g.adcPend }
    else g

/-- A read, answered, or a write of anvil state through the forge window. -/
def State.itemAccess (s : State) (f : Nat) (item : ForgeItem) (write : Option Word) : State :=
  if 64 ≤ f then s
  else match write with
    | none => s.answer (.read (s.forgeItem f item))
    | some v => s.mapForge f (fun g => g.putItem item v)

/-- A read, answered, or a write of a word of a core's SRAM region through its debug window; a write lands only while the
core is frozen, halted or idle (R333), with the word's full/empty bit, and is a write for the signatures (R159). -/
def State.debugWord (s : State) (core off : Nat) (write : Option (Word × Bool)) : State :=
  let c := s.coreAt core
  let w := sramBase core + off / 8 * 8
  if 512 ≤ core ∨ !sramAssigned c off then s
  else match write with
    | none => s.answer (.read (wn (ofBytes (memBytes s.mem w 8))))
    | some (v, full) =>
      if c.status.stopped || c.status == .idle then (s.sramPut w (toBytes 8 v.toNat)).feSet w full else s

/-- A read, answered, or a write of a barrier word of a core through its debug window (16 R353, R333). -/
def State.barrierWord (s : State) (core : Nat) (n : BitVec 5) (write : Option Word) : State :=
  let c := s.coreAt core
  if 512 ≤ core then s
  else match write with
    | none => s.answer (.read (barWord (c.bar n)))
    | some v => if c.status.stopped || c.status == .idle then s.mapCore core (fun c => c.setBar n (barOf v)) else s

end Sys2Proof.Machine
end

