-- ==== Sys2Proof/Machine/Fetch.lean ====
section
/-! DEFINITION. How a turn is taken: the fetch of a word, the fate of a word that is no instruction, whose turns a step can
take, time, and where a word is placed that is to run next (03_encoding R66, 04_scalar_registers R77, R91,
13_translation_tables R284, 15_error_tables R335, 17_outside R379, R381). Lean's runtime has no code for the decoder, so
these definitions have none either; the kernel evaluates them. -/

noncomputable section

namespace Sys2Proof.Machine

/-! ### Fetch (R91, 07 R143) -/

/-- What a fetch finds of a PC's page: the bytes of the word, the leaves that a walk brought, and the translation used. -/
structure FetchPlace where
  cells : List (Nat × LineAttr)
  fills : List (Nat × Hit)
  page  : Nat
  deriving DecidableEq, Repr
/-- Where the word at a PC lies: through the page tables alone, in storage. -/
def State.fetchAt (s : State) (a : Nat) (pc : Word) : Except IFault FetchPlace :=
  if fld pc 0 2 ≠ 0 ∨ !canonical pc then .error (.access pc)
  else match s.xlatePage (dieOf a) (some a) (s.ctxOf a) .fetch pc with
    | .error f => .error f.asIssue
    | .ok (pa, at', h) =>
      let cells := tab (fun i => (i, at')) pa 4
      if at'.cache = .mmio ∨ s.expanderGone cells then .error (.access pc)
      else .ok { cells := cells, fills := if h.walked then [(fld pc 12 36, h)] else [], page := h.key (s.ctxOf a).asid (fld pc 12 36) }

/-- The word of four bytes in ascending address order. -/
def wordOf (l : List Byte) : IWord := wordOfBytes (nth 0 l 0) (nth 0 l 1) (nth 0 l 2) (nth 0 l 3)

/-- What a fetch finds: a word, poison, or a fault; with the TLBs filled. -/
inductive Fetched where
  | word (s : State) (w : IWord)
  | poison (s : State) (w : IWord)
  | fault (f : IFault)
  /-- a home can not serve it now (10 R208) -/
  | held

/-- The word at a core's PC (log entry 22: a fetch enters no signature and fills no cache). -/
def State.fetch (s : State) (a : Nat) : Fetched :=
  let pc := (s.coreAt a).regs.pc
  match s.fetchAt a pc with
  | .error .held => .held
  | .error f => .fault f
  | .ok p =>
    let lines := (linesOf p.cells).map Prod.fst
    if lines.any (fun l => s.homeHeld l && !(s.coreAt a).holdsLine l) || s.touchHeld (dieOf a) (some a) lines then .held else
    let t := (s.tlbFill (dieOf a) (some a) (s.ctxOf a).asid p.fills).mapCore a (fun c => { c with fetched := [p.page] })
    let l := t.loadCells a p.cells
    if l.2 then .poison t (wordOf l.1) else .word t (wordOf l.1)

/-- The row that a word that is no instruction belongs to (R66). -/
def fateOf (r : Reject) (w : IWord) : Instr :=
  match r with
  | .extension => .emul w
  | .majorIllegal | .unassigned | .mustBeZero | .fieldValue => .illegalInstruction w
/-- The row of a word. -/
def rowOfWord (w : IWord) : Instr := match decode w with | .ok i => i | .error r => fateOf r w
/-- A word executed by the core whose turn it is. -/
def execWord (w : IWord) (s : State) : Host.Outcome State Fault Refusal := exec (rowOfWord w) { s with ir := w }

/-! ### A core's turn -/

/-- A change of the next state of an outcome. -/
def after (f : State → State) : Host.Outcome State Fault Refusal → Host.Outcome State Fault Refusal
  | .next s => .next (f s)
  | .fault r => .fault r
  | .refused r => .refused r

/-- A core that issues nothing now: no power, brown-out hold, thermal trip (17 R379, R381), or its island locking a new
clock (01 R20). -/
def State.stalled (s : State) (a : Nat) : Bool :=
  !s.pkg.powered || s.pkg.hold || s.pkg.trip || (!isSup a && ((s.dieAt (dieOf a)).island (localOf a / 4)).relock)

/-- The next instruction of a core fetched and executed. -/
def State.runNext (s : State) (a : Nat) : Host.Outcome State Fault Refusal :=
  match s.fetch a with
  | .fault f => .next (if (s.coreAt a).ahead.isSome then s.endRun else s.stopWhenIdle s (s.takeFetchFault a f) a)
  | .poison t w =>
    if (s.coreAt a).ahead.isSome then .next t.endRun
    else
      let x := t.consume a none (t.coreAt a).regs.pc
      if x.2 then execWord w x.1 else .next (s.stopWhenIdle s x.1 a)
  | .word t w => execWord w t
  | .held => .next s

/-- The entries of a scoreboard that are due executed in the order of issue. -/
def runDue (a : Nat) : List SbEntry → State → Host.Outcome State Fault Refusal
  | [], s => .next s
  | x :: t, s0 =>
    let s := if x.outside then s0.settle a else s0
    if x.outside && s.incomplete a then runDue a t s else
    match s.core.scoreboard.find? (fun e => e.order == x.order && e.due && s.core.status == .running) with
    | none => runDue a t s
    | some e =>
      match execWord e.word (s.beginEntry e) with
      | .next u => runDue a t { u with cur := a }
      | r => r
/-- Whether executing the due entries has brought the core on: one is there no more, or the core has stopped. -/
def State.moved (s : State) (l : List SbEntry) : Bool := s.core.status != .running || l.any (fun e => !s.core.stillWaits e)

/-- The turn of a core: the entries that are due, and if they only wait its next instruction, which stays pending if it is
multi-cycle and `leave` is set. -/
def State.coreTurn (s0 : State) (a : Nat) (leave : Bool) : Host.Outcome State Fault Refusal :=
  let s : State := { s0 with cur := a, leave := leave }
  let c := s.core
  if s.stalled a then .next s
  else if c.save.isSome || s.stopsHere a then exec (.save a) s
  else match c.status with
    | .faulted _ _ => exec (.runAhead a) s
    | .running =>
      if (match c.ahead with | some h => h.ended | none => false) then exec (.runAhead a) s
      else if c.unwinding.isSome then .next (s.unwindEnd a)
      else
        let due := if c.ahead.isSome then [] else c.scoreboard.filter SbEntry.due
        match runDue a due s with
        | .next t =>
          if t.moved due && !due.isEmpty then .next t
          else
            let u : State := { t with cur := a, leave := leave }
            if u.core.ahead.isNone && u.gangHolds a then .next (u.gangHeld a) else u.runNext a
        | r => r
    | _ => .next s

/-! ### The device's own turns -/

/-- A row that is a step of the device or comes from outside, not an instruction that a core issues. -/
def ofDevice (i : Instr) : Bool :=
  match i with
  | .illegalInstruction _ | .emul _ | .evWindowLoad _ _ _ | .evWindowStore _ _ => false
  | _ => (encode i).isNone

/-- A step of an anvil or an engine that a brown-out hold holds back, or one that would bring a core on (17 R379). -/
def heldBack (i : Instr) : Bool :=
  match i with
  | .mapply _ | .mcolsum _ | .mloadb _ | .mswapb _ | .mrotb _ | .mprobe _ | .sfact _ _ | .sfactq _ _ | .tcopy _ _ | .tcopy2 _ _
  | .tgath _ _ | .tscat _ _ | .tfill _ _ | .tpref _ _ | .creds _ | .cgath _ | .cbcast _ | .callred _ | .migr _ | .migra _ | .mevac _
  | .svctxRequest _ | .svctxForced _ | .svctxFrozen _ | .rsctx _ | .engineStart _ _ | .collectiveStart _ | .anvilArbiterRound _
  | .anvilPass _ | .probeSet _ | .migrationLineCopy _ _ | .dispatch _ | .restore _ _ | .gangReservation _ | .gangDispatch _
  | .launchUnitPost _ | .costartDispatch _ | .taskAgingTick _ _ | .prebudgetExpiry _ | .save _ | .runAhead _ | .scoreboardComplete _ _
  | .lateFault _ _ | .chunkCommit _ | .feWaitRelease _ | .inFieldTest _ | .inFieldTestEnd _ _ => true
  | _ => false
/-- Whether a step of the device can take place. -/
def State.enabled (s : State) (i : Instr) : Bool :=
  match i with
  | .coldBoot _ => true
  | _ => s.pkg.powered && ofDevice i && !(s.pkg.hold && heldBack i)

/-- One turn. -/
def State.turn (s : State) : Turn → Host.Outcome State Fault Refusal
  | .core a => if a < 520 then s.coreTurn a false else .fault .noSuchAgent
  | .issue a => if a < 520 then s.coreTurn a true else .fault .noSuchAgent
  | .event i => if s.enabled i then exec i s else .next s
  | .evict a line l2 =>
    if a < 520 then .next (if l2 then s.evictL2 a line else s.evictL1 a line) else .fault .noSuchAgent
  | .evictHearth line => .next (if s.mayLeave line then s.hearthEvict line else s)
  | .dropTlb a k l2 =>
    if a < 520 then
      .next (if l2 then s.mapDie (dieOf a) (fun d => { d with l2tlb := d.l2tlb.eraseIdx k })
        else s.mapCore a (fun c => { c with tlb := c.tlb.eraseIdx k }))
    else .fault .noSuchAgent
  | .upset u => .next (if s.pkg.powered then s.upset u else s)
  | .forgeItem f item write => .next (if s.pkg.powered then s.itemAccess f item write else s)
  | .debugWord core off write => .next (if s.pkg.powered then s.debugWord core off write else s)
  | .barrierWord core n write => .next (if s.pkg.powered then s.barrierWord core n write else s)
  | .sideband code => .next (if s.pkg.powered && !sidebandCodes.contains code then s.sideband .unknown else s)

/-- Whose turn it is, and the state with that turn taken off the schedule. -/
def State.nextTurn (s : State) : Turn × State :=
  match s.schedule with
  | [] => (.core s.cur, s)
  | t :: ts => (t, { s with schedule := ts })

/-! ### Time (16 R347) -/

/-- Events of R360 that count cycles, whose number no rule gives. -/
def openEvent (e : Nat) : Bool := e == 1 || e == 0x0C || e == 0x0D || e == 0x11
/-- The monitoring counters of such events move by free numbers (log entry 29). -/
def Core.pmcDrift (c : Core) (n : Nat) : Core :=
  if c.pmsel.toList.any (fun x => x.getLsbD 8 && openEvent (fld x 0 8)) then
    { c with pmc := Vector.ofFn (fun i =>
        if c.pmsel[i].getLsbD 8 && openEvent (fld c.pmsel[i] 0 8) then c.pmc[i] + wn (Config.pmcCount (n + i.val)) else c.pmc[i]) }
  else c

/-- The dies' cycle counters, which nothing synchronises, move on each by at least 1, by a free number, and open monitoring counters by
free numbers. -/
def State.elapse (s : State) : State :=
  let t := s.each (tab id 0 4) (fun t d => t.mapDie d (fun x => { x with cycle := x.cycle + wn (1 + Config.elapsed (s.fresh + d)) }))
  ({ t with cores := t.cores.map (fun e => (e.1, e.2.pmcDrift (s.fresh + 4 + 32 * e.1))) } : State).used (4 + 32 * 520)

/-- Lines that reach the hearth dirty for an expander that is gone are poisoned, with HEARTH_UE (13 R292). -/
def State.loseLines (s : State) : State :=
  if s.pkg.cxlGone.isEmpty then s
  else
    let lost := (s.hearth.filter (fun h => h.2.dirty && !h.2.poison && s.expanderGone [(lineBase h.1, sramAttr)])).map Prod.fst
    s.each lost (fun t l => (t.poisonLine l).raise (homeOf (lineBase l) / 128) (Raise.atPort 15 3 (homeOf (lineBase l)) (lineBase l)))

/-- What follows every step: entries that have become eligible (14 R301), and posted host writes that may now enter (17
R364). -/
def State.settleStep (s : State) : State := s.evalAll.hostDrainAll.loseLines

/-- One step of the machine. -/
def State.advance (s : State) : Host.Outcome State Fault Refusal :=
  let x := s.elapse.nextTurn
  after State.settleStep (x.2.turn x.1)

/-! ### A word placed to run next -/

/-- A leaf for the page at physical address 0: V, leaf, W, X, UC, HBM, resident. -/
def placedLeaf : Word := 0x4F

/-- The core that runs a placed word: compute core 0, running on its registers with nothing in the way, its PC's page mapped
to physical page 0. -/
def placedCore (c : Core) : Core :=
  let pc := canon c.regs.pc &&& 0xFFFFFFFFFFFFFFFC
  let e : TlbEntry := { asid := c.ctx.asid, vpn := fld pc 12 36, size := 0, leaf := placedLeaf, inMotion := false }
  { c with regs := { c.regs with pc := pc }, status := .running, wait := none, chunk := none, closed := [], ahead := none,
           scoreboard := [], storeBuf := [], tlb := e :: c.tlb, force := [], forced := false, save := none, gang := none,
           unwinding := none }

/-- A word in the place from which compute core 0 fetches next (log entry 1). -/
def State.placeWord (s : State) (w : IWord) : State :=
  let pc := (placedCore (s.coreAt 0)).regs.pc
  let pa := fld pc 0 12
  let s1 := (s.mapCore 0 placedCore).mapDie 0 (fun d =>
    { d with vbusok := d.vbusok ||| 1, islands := tset d.islands 0 { d.island 0 with relock := false } })
  let s2 := (s1.mapHome 0 (fun h => { h with degraded := false })).mapPkg (fun g => { g with powered := true, hold := false, trip := false })
  { s2 with
    mem := memPut s2.mem pa (tab (byteOfWord w) 0 4), poison := nerase s2.poison (lineOf pa * 128), hearth := tdel s2.hearth (lineOf pa),
    pushes := s2.pushes.filter (fun p => p.line != lineOf pa), commits := s2.commits.filter (fun c => !c.lines.contains (lineOf pa)), reissuing := none, cur := 0, schedule := [] }

end Sys2Proof.Machine

end
end

