-- ==== Sys2Proof/Machine/Step.lean ====
section
/-! DEFINITION. The step of the machine, and a state whose next step runs a given word. Both are defined in
`Sys2Proof/Machine/Fetch.lean`. -/

noncomputable section

namespace Sys2Proof.Machine

/-- One step: the turn at the head of the schedule, or the turn of the core that acted last. -/
def step (s : State) : Host.Outcome State Fault Refusal := s.advance

/-- The state with a word stored where the next step fetches it. -/
def State.withFetchWord (s : State) (_nbits w : Nat) : State := s.placeWord (BitVec.ofNat 32 w)

end Sys2Proof.Machine

end
end

