-- ==== Sys2Proof/Safety.lean ====
section
/-! DEFINITION. What the claims are stated in: when the instruction of a core can go ahead, what it leaves alone, and what it
means for one to complete. -/

namespace Sys2Proof.Machine

/-- Nothing holds the next instruction of the acting core back (04 R79, 03 R55, 06 R125): it is in no gang and not in
run-ahead, single-access mode or an unwind, no forced save is asked of it, no token or scoreboard entry blocks a register of
the instruction, no source is poisoned; the turn is no pending entry's, the instruction is driven to its end in it, and the
commits that it waits for complete and squash no younger chunk. -/
def State.ready (s : State) (p : Plan) : Bool :=
  let c := s.core
  c.unwinding.isNone && c.gang.isNone && c.ahead.isNone && !c.forced && !c.sam && !c.tokenBlocks p && !c.sbBlocks p &&
  (c.firstPoison p).isNone && !s.leave && s.reissuing.isNone && (p.cls == .member || (s.selfHit.isNone && !(s.closeSettle s.cur).incomplete s.cur))

/-- What an instruction that neither stores nor writes a special register may change of a core beside its registers: the
chunk bookkeeping, the lookahead counts, the wait and the event counters; the bytes of its uncommitted stores read as before. -/
def Core.plainly (c d : Core) : Prop :=
  d = { c with regs := d.regs, wait := d.wait, chunk := d.chunk, closed := d.closed, sam := d.sam, samCount := d.samCount,
               samLines := d.samLines, samBlocks := d.samBlocks, nextRelease := d.nextRelease, scoreboard := d.scoreboard, pmc := d.pmc } ∧
  ∀ a n, d.pendingByte a n = c.pendingByte a n

/-- Nothing changes but the acting core, and of it only what `Core.plainly` admits; every byte of storage reads as before. -/
def State.quiet (s t : State) : Prop :=
  { t with cores := s.cores } = s ∧ (∀ b, b ≠ s.cur → t.coreAt b = s.coreAt b) ∧ s.core.plainly t.core ∧
  ∀ a k, t.ownByte s.cur a k = s.ownByte s.cur a k

/-- An instruction completes at the next PC `pc`, with the registers of `c`, and changes nothing else. -/
def CompletesAt (s : State) (i : Instr) (c : Core) (pc : Word) : Prop :=
  ∃ t, exec i s = .next t ∧ t.core.regs = { c.regs with pc := pc } ∧ t.core.wait = none ∧ s.quiet t

/-- An instruction completes at the word behind it, with the registers of `c`, and changes nothing else. -/
def Completes (s : State) (i : Instr) (c : Core) : Prop := CompletesAt s i c (nextPc s.core.regs.pc)

/-- A fault that the acting core finds at issue is taken at once: no older instruction of it is pending, and no closed chunk of its
meets a younger one at its commit (08 R172, R175, 13 R284). -/
def State.faultable (s : State) : Prop := s.core.scoreboard = [] ∧ s.selfHit = none

/-! ### Memory and commits -/

/-- The `n` bytes at `va` are the acting core's own scratchpad, from offset `off` of its region on (07 R144). -/
def State.ownScratch (s : State) (va : Word) (n off : Nat) : Prop :=
  s.cur < 512 ∧ 0 < n ∧ va.toNat = lwb + off ∧ off + n ≤ spSize s.core

/-- The cells of an access to the own scratchpad. -/
def State.scratchCells (s : State) (off n : Nat) : List (Nat × LineAttr) := tab (fun x => (x, sramAttr)) (sramBase s.cur + off) n

/-- No byte of those is poisoned as the core sees it. -/
def State.cleanScratch (s : State) (off n : Nat) : Prop := ∀ k < n, s.ownPoison s.cur (sramBase s.cur + off + k) .sram = false

/-- The bytes of the own scratchpad as the core sees them, from offset `off` on, the first lowest. -/
def State.scratchData (s : State) (off n : Nat) : List Byte := tab (fun x => s.ownByte s.cur x .sram) (sramBase s.cur + off) n
/-- Those bytes as a number. -/
def State.scratchValue (s : State) (off n : Nat) : Nat := ofBytes (s.scratchData off n)

/-- No instruction or store of the core is pending. -/
def State.unburdened (s : State) : Prop := s.core.scoreboard = [] ∧ s.core.storeBuf = []

/-- What a store of the core's own may change of it: as `Core.plainly`, with the bytes it has not committed. -/
def Core.storing (c d : Core) : Prop :=
  d = { c with regs := d.regs, wait := d.wait, chunk := d.chunk, closed := d.closed, sam := d.sam, samCount := d.samCount,
               samLines := d.samLines, samBlocks := d.samBlocks, nextRelease := d.nextRelease, scoreboard := d.scoreboard, storeBuf := d.storeBuf, pmc := d.pmc }

/-- A store completes: its bytes, given by storage address, are what the core reads there; every other byte reads as before;
and nothing else changes but the PC, and with it the registers to those of `c`. -/
def Stores (s : State) (i : Instr) (c : Core) (bytes : List (Nat × Byte)) : Prop :=
  ∃ t, exec i s = .next t ∧ t.core.regs = { c.regs with pc := nextPc s.core.regs.pc } ∧ t.core.wait = none ∧
    { t with cores := s.cores } = s ∧ (∀ b, b ≠ s.cur → t.coreAt b = s.coreAt b) ∧ s.core.storing t.core ∧
    ∀ a k, t.ownByte s.cur a k = match (bytes.reverse.find? (fun x => x.1 == a)).map Prod.snd with | some b => b | none => s.ownByte s.cur a k

/-- Every chunk of the acting core is committed, and its commits are acknowledged. -/
def State.atRest (s : State) : Prop :=
  s.core.chunk = none ∧ s.core.closed = [] ∧ s.pushes.any (fun p => p.agent == s.cur) = false

/-! ### Shapes of results -/

/-- An instruction of registers d, a and b writes s[d] with `f` of s[a] and s[b], and does nothing else. -/
def WritesOfTwo (i : BitVec 5 → BitVec 5 → BitVec 5 → Instr) (f : Word → Word → Word) : Prop :=
  ∀ (s : State) (d a b : BitVec 5), s.ready (Plan.simple [sR a, sR b] [sR d]) = true →
    Completes s (i d a b) (s.core.writeS d (f (s.core.readS a) (s.core.readS b)))

/-- The same for a multi-cycle instruction, with any lookahead count. -/
def WritesOfTwoLa (i : BitVec 5 → BitVec 5 → BitVec 5 → BitVec 4 → Instr) (f : Word → Word → Word) : Prop :=
  ∀ (s : State) (d a b : BitVec 5) (l : BitVec 4), s.ready (Plan.multi [sR a, sR b] [sR d] l) = true →
    Completes s (i d a b l) (s.core.writeS d (f (s.core.readS a) (s.core.readS b)))

/-- An instruction of registers d and a writes s[d] with `f` of s[a], and does nothing else. -/
def WritesOfOne (i : BitVec 5 → BitVec 5 → Instr) (f : Word → Word) : Prop :=
  ∀ (s : State) (d a : BitVec 5), s.ready (Plan.simple [sR a] [sR d]) = true →
    Completes s (i d a) (s.core.writeS d (f (s.core.readS a)))

/-- A multi-cycle instruction writes s[d] with `f` of FRM, s[a] and s[b], and ORs its flags into FFLAGS. -/
def FloatOfTwo (i : BitVec 5 → BitVec 5 → BitVec 5 → BitVec 4 → Instr) (f : BitVec 2 → Nat → Nat → FRes) : Prop :=
  ∀ (s : State) (d a b : BitVec 5) (l : BitVec 4), s.ready (Plan.multi [sR a, sR b] [sR d] l) = true →
    Completes s (i d a b l) (s.core.putF d (f s.core.regs.frm (s.core.readS a).toNat (s.core.readS b).toNat))

/-- The same with one source. -/
def FloatOfOne (i : BitVec 5 → BitVec 5 → BitVec 4 → Instr) (f : BitVec 2 → Nat → FRes) : Prop :=
  ∀ (s : State) (d a : BitVec 5) (l : BitVec 4), s.ready (Plan.multi [sR a] [sR d] l) = true →
    Completes s (i d a l) (s.core.putF d (f s.core.regs.frm (s.core.readS a).toNat))

/-- Elements of `w` bits of v[d] that p[p] activates become `f` of FRM and the elements of v[a] and v[b]; the others keep
their value and raise nothing. -/
def LanesOfTwo (w : Nat) (i : BitVec 5 → BitVec 5 → BitVec 5 → BitVec 3 → BitVec 4 → Instr) (f : BitVec 2 → Nat → Nat → FRes) : Prop :=
  ∀ (s : State) (d a b : BitVec 5) (p : BitVec 3) (l : BitVec 4), s.ready (Plan.multi [vR a, vR b, pR p] [vR d] l) = true →
    Completes s (i d a b p l)
      (s.core.putV d p w (fun k => f s.core.regs.frm (elem w (s.core.readV a) k) (elem w (s.core.readV b) k)))

/-- The same with the old elements of v[d] as a third source. -/
def LanesOfThree (w : Nat) (i : BitVec 5 → BitVec 5 → BitVec 5 → BitVec 3 → BitVec 4 → Instr)
    (f : BitVec 2 → Nat → Nat → Nat → FRes) : Prop :=
  ∀ (s : State) (d a b : BitVec 5) (p : BitVec 3) (l : BitVec 4), s.ready (Plan.multi [vR a, vR b, vR d, pR p] [vR d] l) = true →
    Completes s (i d a b p l) (s.core.putV d p w (fun k =>
      f s.core.regs.frm (elem w (s.core.readV a) k) (elem w (s.core.readV b) k) (elem w (s.core.readV d) k)))

/-- The same with one source. -/
def LanesOfOne (w : Nat) (i : BitVec 5 → BitVec 5 → BitVec 3 → BitVec 4 → Instr) (f : BitVec 2 → Nat → FRes) : Prop :=
  ∀ (s : State) (d a : BitVec 5) (p : BitVec 3) (l : BitVec 4), s.ready (Plan.multi [vR a, pR p] [vR d] l) = true →
    Completes s (i d a p l) (s.core.putV d p w (fun k => f s.core.regs.frm (elem w (s.core.readV a) k)))

/-- A comparison of elements of `w` bits into p[d]. -/
def Compares (w : Nat) (i : BitVec 3 → BitVec 5 → BitVec 5 → BitVec 3 → BitVec 4 → Instr) (f : Nat → Nat → Bool × FFl) : Prop :=
  ∀ (s : State) (d : BitVec 3) (a b : BitVec 5) (p : BitVec 3) (l : BitVec 4), s.ready (Plan.multi [vR a, vR b, pR p] [pR d] l) = true →
    Completes s (i d a b p l) (s.core.putCmp d p w (fun k => f (elem w (s.core.readV a) k) (elem w (s.core.readV b) k)))

/-- The signed minimum and maximum and the unsigned ones of two elements of `w` bits, each as a code. -/
def laneMin (w x y : Nat) : Nat := if sxt w x < sxt w y then x else y
def laneMax (w x y : Nat) : Nat := if sxt w x < sxt w y then y else x

/-- A conditional branch goes to PC + 4·sext(off16) when its condition holds and the target is canonical, else to PC + 4; a
taken one to a non-canonical target takes an access fault at itself. -/
def BranchesOn (i : BitVec 5 → BitVec 5 → BitVec 16 → Instr) (taken : Word → Word → Prop) : Prop :=
  ∀ (s : State) (a b : BitVec 5) (o : BitVec 16) (target : Word),
    s.ready { Plan.simple [sR a, sR b] [] with ahead := .branches } = true → target = s.core.regs.pc + 4 * o.signExtend 64 →
    (¬taken (s.core.readS a) (s.core.readS b) → Completes s (i a b o) s.core) ∧
    (taken (s.core.readS a) (s.core.readS b) → canonical target = true → CompletesAt s (i a b o) s.core target) ∧
    (taken (s.core.readS a) (s.core.readS b) → canonical target = false → s.faultable →
      exec (i a b o) s = .next (s.takeFault s.cur (.access target)))

/-- 05 R103: the integer members at one width. -/
def IntegerLanes (w : Nat) (add sub mul mac min max minu maxu shl shr sra : BitVec 5 → BitVec 5 → BitVec 5 → BitVec 3 → BitVec 4 → Instr)
    (abs neg : BitVec 5 → BitVec 5 → BitVec 3 → BitVec 4 → Instr)
    (ceq clt cltu : BitVec 3 → BitVec 5 → BitVec 5 → BitVec 3 → BitVec 4 → Instr) : Prop :=
  LanesOfTwo w add (fun _ A B => ((A + B) % 2 ^ w, 0)) ∧ LanesOfTwo w sub (fun _ A B => ((((A : Int) - B) % 2 ^ w).toNat, 0)) ∧
  LanesOfTwo w mul (fun _ A B => (A * B % 2 ^ w, 0)) ∧ LanesOfThree w mac (fun _ A B D => ((D + A * B) % 2 ^ w, 0)) ∧
  LanesOfTwo w min (fun _ A B => (laneMin w A B, 0)) ∧ LanesOfTwo w max (fun _ A B => (laneMax w A B, 0)) ∧
  LanesOfTwo w minu (fun _ A B => (if A < B then A else B, 0)) ∧ LanesOfTwo w maxu (fun _ A B => (if A < B then B else A, 0)) ∧
  LanesOfTwo w shl (fun _ A n => (if w ≤ n then 0 else A * 2 ^ n % 2 ^ w, 0)) ∧ LanesOfTwo w shr (fun _ A n => (if w ≤ n then 0 else A / 2 ^ n, 0)) ∧
  LanesOfTwo w sra (fun _ A n => ((sxt w A / 2 ^ (if w ≤ n then w - 1 else n) % 2 ^ w).toNat, 0)) ∧
  LanesOfOne w abs (fun _ A => ((((sxt w A).natAbs : Int) % 2 ^ w).toNat, 0)) ∧ LanesOfOne w neg (fun _ A => ((-(A : Int) % 2 ^ w).toNat, 0)) ∧
  Compares w ceq (fun A B => (A == B, 0)) ∧ Compares w clt (fun A B => (decide (sxt w A < sxt w B), 0)) ∧
  Compares w cltu (fun A B => (decide (A < B), 0))

/-- 05 R104 to R106: the floating-point members that every format has. -/
def FloatLanes (f : Fmt) (add sub mul fma fms min max : BitVec 5 → BitVec 5 → BitVec 5 → BitVec 3 → BitVec 4 → Instr)
    (abs neg rcpe rsqe : BitVec 5 → BitVec 5 → BitVec 3 → BitVec 4 → Instr)
    (ceq clt cle : BitVec 3 → BitVec 5 → BitVec 5 → BitVec 3 → BitVec 4 → Instr) : Prop :=
  let w := fmtWidth f
  LanesOfTwo w add (fadd f) ∧ LanesOfTwo w sub (fsub f) ∧ LanesOfTwo w mul (fmul f) ∧ LanesOfThree w fma (ffma f) ∧
  LanesOfThree w fms (ffms f) ∧ LanesOfTwo w min (fun _ => fminmax false f) ∧ LanesOfTwo w max (fun _ => fminmax true f) ∧
  LanesOfOne w abs (fun _ => fabs f) ∧ LanesOfOne w neg (fun _ => fneg f) ∧ LanesOfOne w rcpe (fun _ => frcpe f) ∧
  LanesOfOne w rsqe (fun _ => frsqe f) ∧ Compares w ceq (fcompare .eq f) ∧ Compares w clt (fcompare .lt f) ∧ Compares w cle (fcompare .le f)

/-! ### Rounding in exact arithmetic (02 R25 to R38) -/

/-- A code without its sign as a multiple of the format's smallest subnormal (R25); the codes go on upwards past the largest finite one. -/
def Fmt.mag (f : Fmt) (c : Nat) : Nat :=
  if c < 2 ^ f.mbits then c else (2 ^ f.mbits + c % 2 ^ f.mbits) * 2 ^ (c / 2 ^ f.mbits - 1)
/-- A code of a finite value, and its sign. -/
def Fmt.finite (f : Fmt) (x : Nat) : Prop := x < 2 ^ (f.ebits + f.mbits + 1) ∧ x % 2 ^ (f.ebits + f.mbits) ≤ fmtMax f
def Fmt.minus (f : Fmt) (x : Nat) : Bool := x / 2 ^ (f.ebits + f.mbits) % 2 == 1
/-- Its value. -/
def Fmt.value (f : Fmt) (x : Nat) : ℚ :=
  (if f.minus x then -1 else 1) * (f.mag (x % 2 ^ (f.ebits + f.mbits)) : ℚ) * (2 : ℚ) ^ fmtQmin f

/-- The direction of a mode is away from zero for a value of this sign (R27). -/
def awayFrom (rm : BitVec 2) (v : ℝ) : Prop := (rm = 2 ∧ v < 0) ∨ (rm = 3 ∧ 0 < v)
/-- The nonzero `v` rounded as if the format's exponents went on upwards (R27): the code without its sign, between the two codes next
to the value, and whether it is exact. -/
def Fmt.RoundsCode (f : Fmt) (rm : BitVec 2) (v : ℝ) (code : Nat) (exact : Prop) : Prop :=
  ∃ (c : Nat) (u : ℝ), u = |v| / (2 : ℝ) ^ fmtQmin f ∧ (f.mag c : ℝ) ≤ u ∧ u < f.mag (c + 1) ∧ (exact ↔ u = f.mag c) ∧
    ∀ up : Prop, (up ↔ u ≠ f.mag c ∧ ((rm = 0 ∧ ((f.mag c : ℝ) + f.mag (c + 1) < 2 * u ∨ ((f.mag c : ℝ) + f.mag (c + 1) = 2 * u ∧ c % 2 = 1))) ∨
      awayFrom rm v)) → (up → code = c + 1) ∧ (¬up → code = c)
/-- `v` is tiny after rounding to the precision of the format with its exponents unbounded (R29). -/
def Fmt.Tiny (f : Fmt) (rm : BitVec 2) (v : ℝ) : Prop :=
  ∃ u : ℝ, u = |v| / (2 : ℝ) ^ fmtQmin f ∧ u < 2 ^ f.mbits ∧ ¬(rm = 0 ∧ (2 : ℝ) ^ (f.mbits + 2) - 1 ≤ 4 * u) ∧
    ¬(awayFrom rm v ∧ (2 : ℝ) ^ (f.mbits + 1) - 1 < 2 * u)
/-- The nonzero `v` rounded into a format (R27 to R29, and R48 for a format without infinity): the result and its flags. -/
def Fmt.Rounds (f : Fmt) (rm : BitVec 2) (v : ℝ) (r : FRes) : Prop :=
  ∃ (code s : Nat) (exact : Prop), f.RoundsCode rm v code exact ∧ (v < 0 → s = 2 ^ (f.ebits + f.mbits)) ∧ (0 < v → s = 0) ∧
    (fmtMax f < code → r.2 = flOF ||| flNX ∧ (rm = 1 ∨ (rm = 2 ∧ 0 < v) ∨ (rm = 3 ∧ v < 0) → r.1 = s + fmtMax f) ∧
      (¬(rm = 1 ∨ (rm = 2 ∧ 0 < v) ∨ (rm = 3 ∧ v < 0)) → r.1 = if f.noInf then 2 ^ (f.ebits + f.mbits) - 1 else s + fmtInf f)) ∧
    (code ≤ fmtMax f → (f.Tiny rm v → f.flush = true → r = (s, flUF ||| flNX)) ∧
      (¬(f.Tiny rm v ∧ f.flush = true) → r.1 = s + code ∧ (exact → r.2 = 0) ∧ (¬exact → f.Tiny rm v → r.2 = flUF ||| flNX) ∧
        (¬exact → ¬f.Tiny rm v → r.2 = flNX)))
/-- `v` rounded to a whole number (R27, R32). -/
def RoundsInt (rm : BitVec 2) (v : ℝ) (n : ℤ) : Prop :=
  (rm = 0 → |v - n| ≤ 1 / 2 ∧ (|v - n| = 1 / 2 → n % 2 = 0)) ∧ (rm = 1 → |(n : ℝ)| ≤ |v| ∧ |v| < |(n : ℝ)| + 1 ∧ 0 ≤ n * v) ∧
  (rm = 2 → n ≤ v ∧ v < n + 1) ∧ (rm = 3 → v ≤ n ∧ n < v + 1)

/-- 02 R27 to R29, 04 R93, R94, 05 R104: the operations of a format on finite codes are those on their values, rounded once; the cases in
which the exact result is zero or there is none are as R93 and R94 give them. -/
def Fmt.Correct (f : Fmt) : Prop :=
  ∀ (rm : BitVec 2) (x y : Nat) (X Y : ℝ) (top s : Nat), f.finite x → f.finite y → X = f.value x → Y = f.value y → top = 2 ^ (f.ebits + f.mbits) →
    s = (if f.minus x = f.minus y then 0 else top) →
    (X + Y ≠ 0 → f.Rounds rm (X + Y) (fadd f rm x y)) ∧ (X - Y ≠ 0 → f.Rounds rm (X - Y) (fsub f rm x y)) ∧
    (X + Y = 0 → fadd f rm x y = (if f.minus x = f.minus y then x else if rm = 2 then top else 0, 0)) ∧
    (X - Y = 0 → fsub f rm x y = (if f.minus x = !f.minus y then x else if rm = 2 then top else 0, 0)) ∧
    (X * Y ≠ 0 → f.Rounds rm (X * Y) (fmul f rm x y)) ∧ (X * Y = 0 → fmul f rm x y = (s, 0)) ∧
    (X ≠ 0 → Y ≠ 0 → f.Rounds rm (X / Y) (fdiv f rm x y)) ∧ (X = 0 → Y ≠ 0 → fdiv f rm x y = (s, 0)) ∧
    (X ≠ 0 → Y = 0 → fdiv f rm x y = (s + fmtInf f, flDZ)) ∧ (X = 0 → Y = 0 → fdiv f rm x y = (fmtNan f, flNV)) ∧
    (∀ (z : Nat) (Z : ℝ), f.finite z → Z = f.value z → (X * Y + Z ≠ 0 → f.Rounds rm (X * Y + Z) (ffma f rm x y z)) ∧
      (X * Y - Z ≠ 0 → f.Rounds rm (X * Y - Z) (ffms f rm x y z))) ∧
    (∀ R : ℝ, 0 < R → R * R = X → f.Rounds rm R (fsqrt f rm x)) ∧ (X < 0 → fsqrt f rm x = (fmtNan f, flNV)) ∧ (X = 0 → fsqrt f rm x = (x, 0))

/-- 02 R28, R32, R48: conversions between two formats, to FP8 with saturation, and to and from whole numbers. -/
def Fmt.Converts (f g : Fmt) : Prop :=
  ∀ (rm : BitVec 2) (x : Nat) (X : ℝ) (s : Nat), f.finite x → X = f.value x → s = (if f.minus x then 2 ^ (g.ebits + g.mbits) else 0) →
    (X ≠ 0 → g.Rounds rm X (fcvt f g rm x) ∧ fcvtSat f g rm x =
      if (fcvt f g rm x).2.getLsbD 2 then (s + fmtMax g, flOF ||| flNX) else fcvt f g rm x) ∧
    (X = 0 → fcvt f g rm x = (s, 0) ∧ fcvtSat f g rm x = (s, 0)) ∧
    (∀ lo hi : ℤ, lo ≤ hi → ∃ n : ℤ, RoundsInt rm X n ∧ (n < lo → fToInt f rm lo hi x = (lo, flNV)) ∧ (hi < n → fToInt f rm lo hi x = (hi, flNV)) ∧
      (lo ≤ n → n ≤ hi → (fToInt f rm lo hi x).1 = n ∧ ((n : ℝ) = X → (fToInt f rm lo hi x).2 = 0) ∧ ((n : ℝ) ≠ X → (fToInt f rm lo hi x).2 = flNX))) ∧
    ∀ n : ℤ, (n ≠ 0 → f.Rounds rm n (intToF f rm n)) ∧ intToF f rm 0 = (0, 0)

/-- 02 R33: the value of an element code of an MX type before its scale. -/
def mxValue (t c : Nat) : ℚ := if t = 3 then (sxt 8 c : ℚ) / 64 else (mxFmt t).value (c % 2 ^ mxBits t)

/-- 02 R34: a block of finite FP32 codes quantised; `M` is the largest magnitude. -/
def MxQuantises (t : Nat) (xs : List Nat) (scale : Nat) (codes : List Nat) (fl : FFl) : Prop :=
  ∀ (V : Nat → ℝ) (M : ℝ) (X : ℤ), (∀ k, V k = fmtF32.value (nth 0 xs k)) → (∀ k < xs.length, |V k| ≤ M) → (∃ k < xs.length, |V k| = M) →
    (M = 0 → X = -127) →
    (M ≠ 0 → ∃ e : ℤ, (2 : ℝ) ^ e ≤ M ∧ M < (2 : ℝ) ^ (e + 1) ∧ X = max (-127) (min 127 (e - if t = 0 then 8 else if t = 1 then 15 else if t = 2 then 2 else 0))) →
    (scale : ℤ) = X + 127 ∧ codes.length = xs.length ∧ ∃ fls : List FFl, fls.length = xs.length ∧ fl = fls.foldl (fun a b => a ||| b) 0 ∧
      ∀ k < xs.length,
        (t = 3 → ∃ n : ℤ, RoundsInt 0 (V k * (2 : ℝ) ^ (6 - X)) n ∧ nth 0 codes k = ((max (-127) (min 127 n)) % 256).toNat ∧
          nth 0 fls k = if n < -127 ∨ 127 < n then flOF ||| flNX else if (n : ℝ) = V k * (2 : ℝ) ^ (6 - X) then 0 else flNX) ∧
        (t < 3 → ∀ s, s = (if fmtF32.minus (nth 0 xs k) then 2 ^ (mxBits t - 1) else 0) → (V k = 0 → nth 0 codes k = s ∧ nth 0 fls k = 0) ∧
          (V k ≠ 0 → ∃ (c top : Nat) (exact : Prop), (mxFmt t).RoundsCode 0 (V k / (2 : ℝ) ^ X) c exact ∧
            top = (if t = 0 then 0x7E else if t = 1 then 0x7B else 7) ∧ nth 0 codes k = s + min c top ∧ (top < c → nth 0 fls k = flOF ||| flNX) ∧
            (c ≤ top → exact → nth 0 fls k = 0) ∧ (c ≤ top → ¬exact → nth 0 fls k = flNX)))

/-- 02 R37: a group of finite FP32 codes quantised, `L` and `H` their smallest and largest value with 0, while the intermediate FP32 results
are finite: scale, zero point and codes. -/
def AsymQuantises (qmax : Nat) (xs : List Nat) (s z : Nat) (qs : List Nat) : Prop :=
  ∀ (V : Nat → ℝ) (L H : ℝ), (∀ k, V k = fmtF32.value (nth 0 xs k)) → (∀ k < xs.length, L ≤ V k ∧ V k ≤ H) → L ≤ 0 → 0 ≤ H →
    (L = 0 ∨ ∃ k < xs.length, V k = L) → (H = 0 ∨ ∃ k < xs.length, V k = H) → qs.length = xs.length ∧
    (L = H → s = 0 ∧ z = 0 ∧ ∀ k < xs.length, nth 0 qs k = 0) ∧
    (L ≠ H → ∀ span quot half : FRes, fmtF32.Rounds 0 (H - L) span → fmtF32.finite span.1 → fmtF32.Rounds 0 (fmtF32.value span.1 / qmax) quot →
      fmtF32.finite quot.1 → quot.1 ≠ 0 → fmtF16.Rounds 0 (fmtF32.value quot.1) half → s = (if half.1 = 0x7C00 then 0x7BFF else if half.1 = 0 then 1 else half.1) ∧
      (L = 0 → z = 0) ∧
      (L ≠ 0 → ∀ (d : FRes) (n : ℤ), fmtF32.Rounds 0 (-L / fmtF16.value s) d → fmtF32.finite d.1 → RoundsInt 0 (fmtF32.value d.1) n → (z : ℤ) = max 0 (min (qmax : ℤ) n)) ∧
      ∀ k < xs.length, (V k = 0 → nth 0 qs k = z) ∧
        (V k ≠ 0 → ∀ (d : FRes) (n : ℤ), fmtF32.Rounds 0 (V k / fmtF16.value s) d → fmtF32.finite d.1 → RoundsInt 0 (fmtF32.value d.1) n →
          (nth 0 qs k : ℤ) = max 0 (min (qmax : ℤ) (n + z))))

/-- 02 R46: the conversion codes, with the widths of source and destination elements, those between whole numbers in plain arithmetic. -/
def conversions : List (Nat × Nat × Nat × (BitVec 2 → Nat → FRes)) :=
  [(0, 32, 16, fcvt fmtF32 fmtBF16), (1, 32, 16, fcvt fmtF32 fmtF16), (2, 16, 32, fcvt fmtBF16 fmtF32), (3, 16, 32, fcvt fmtF16 fmtF32),
   (4, 32, 8, fcvt fmtF32 fmtE4M3), (5, 32, 8, fcvtSat fmtF32 fmtE4M3), (6, 32, 8, fcvt fmtF32 fmtE5M2), (7, 32, 8, fcvtSat fmtF32 fmtE5M2),
   (8, 8, 32, fcvt fmtE4M3 fmtF32), (9, 8, 32, fcvt fmtE5M2 fmtF32),
   (10, 32, 32, fun rm x => (((fToInt fmtF32 rm (-(2 ^ 31)) (2 ^ 31 - 1) x).1 % 2 ^ 32).toNat, (fToInt fmtF32 rm (-(2 ^ 31)) (2 ^ 31 - 1) x).2)),
   (11, 32, 32, fun rm x => intToF fmtF32 rm (sxt 32 x)),
   (12, 32, 32, fun _ x => (((fToInt fmtF32 1 (-(2 ^ 31)) (2 ^ 31 - 1) x).1 % 2 ^ 32).toNat, (fToInt fmtF32 1 (-(2 ^ 31)) (2 ^ 31 - 1) x).2)),
   (13, 8, 32, fun _ x => ((sxt 8 x % 2 ^ 32).toNat, 0)), (14, 8, 32, fun _ x => (x, 0)), (15, 16, 32, fun _ x => ((sxt 16 x % 2 ^ 32).toNat, 0))] ++
  [(16, 32, 16, fun _ x => ((max (-(2 ^ 15)) (min (2 ^ 15 - 1) (sxt 32 x)) % 2 ^ 16).toNat, 0)),
   (17, 32, 8, fun _ x => ((max (-(2 ^ 7)) (min (2 ^ 7 - 1) (sxt 32 x)) % 2 ^ 8).toNat, 0)), (18, 32, 16, fun _ x => (x % 2 ^ 16, 0)),
   (19, 32, 8, fun _ x => (x % 2 ^ 8, 0)), (20, 16, 16, fcvt fmtF16 fmtBF16), (21, 16, 16, fcvt fmtBF16 fmtF16),
   (22, 8, 16, fun _ x => ((sxt 8 x % 2 ^ 16).toNat, 0)), (23, 16, 8, fun _ x => ((max (-(2 ^ 7)) (min (2 ^ 7 - 1) (sxt 16 x)) % 2 ^ 8).toNat, 0)),
   (24, 32, 8, fun rm x => ((fToInt fmtF32 rm 0 255 x).1.toNat, (fToInt fmtF32 rm 0 255 x).2)), (25, 8, 32, fun rm x => intToF fmtF32 rm x),
   (26, 4, 8, fun _ x => ((sxt 4 x % 2 ^ 8).toNat, 0)), (27, 4, 8, fun _ x => (x, 0)), (28, 8, 4, fun _ x => ((max (-8) (min 7 (sxt 8 x)) % 2 ^ 4).toNat, 0))]

/-! ### Page tables (13 R273 to R275) -/

/-- The address of the PTE that a walk reads after `k` pointers, from the table at `root`. -/
def State.pteAddr (s : State) (va : Word) (root : Nat) : Nat → Nat
  | 0 => root + 8 * (va.toNat / 2 ^ 39 % 512)
  | k + 1 => (s.homeWord (s.pteAddr va root k)).toNat / 2 ^ 12 % 2 ^ 40 * 4096 + 8 * (va.toNat / 2 ^ (12 + 9 * (2 - k)) % 512)
/-- The walk reaches its PTE number `k`: the tables have storage, their lines are clean and can be served, and every PTE before it is a
pointer with its reserved bits zero. -/
def State.Reaches (s : State) (va : Word) (root k : Nat) : Prop :=
  (∀ j ≤ k, s.tableOk (s.pteAddr va root j / 4096 * 4096) = true ∧ s.homeHeld (lineOf (s.pteAddr va root j)) = false ∧
    s.homePoison (lineOf (s.pteAddr va root j)) = false) ∧
  ∀ j < k, (s.homeWord (s.pteAddr va root j)).toNat % 2 ^ 12 = 1 ∧ (s.homeWord (s.pteAddr va root j)).toNat / 2 ^ 52 = 0
/-- A PTE that R275 calls malformed, at a level. -/
def Malformed (p : Word) (level : Nat) : Prop :=
  p.toNat / 2 ^ 52 ≠ 0 ∨ (p.getLsbD 1 = false ∧ p.toNat / 4 % 2 ^ 10 ≠ 0) ∨
  (p.getLsbD 1 = true ∧ (level = 3 ∨ p.toNat / 2 ^ 5 % 4 = 3 ∨ (p.toNat / 2 ^ 7 % 4 ≠ 3 ∧ p.toNat / 2 ^ 12 % 2 ^ (9 * level) ≠ 0) ∨
    (p.toNat / 2 ^ 7 % 4 = 3 ∧ p.toNat / 2 ^ 20 % 2 ^ 32 ≠ 0)))

/-! ### Accesses of the own scratchpad -/

/-- Nothing holds a load of the own scratchpad back: no commit waits for its acknowledgements, and the open
chunk has not written more than 64 lines. -/
def State.atEase (s : State) : Prop := s.commits = [] ∧ (s.core.linesWith []).length ≤ 64

/-- The `n` bytes at `va` are in the own scratchpad from `off` on, none of them poisoned, and nothing holds a load of them back: no
commit waits for its acknowledgements. -/
def State.loadable (s : State) (va : Word) (n off : Nat) : Prop :=
  s.ownScratch va n off ∧ s.cleanScratch off n ∧ s.atEase

/-- Bytes of the own scratchpad from offset `off` on, with the addresses they go to: the `n` low bytes of a number. -/
def State.scratchBytes (s : State) (off n x : Nat) : List (Nat × Byte) :=
  (List.range n).map (fun k => (sramBase s.cur + off + k, BitVec.ofNat 8 (x / 2 ^ (8 * k))))

/-- The lines that the open chunk will have written with the `n` bytes at every listed offset are at most 64. -/
def State.fits (s : State) (l : List (Nat × Nat)) : Prop := (s.core.linesWith (linesOf (l.flatMap (fun x => s.scratchCells x.1 x.2)))).length ≤ 64

/-- The operands of a quantising store: codes of `n` bytes at s[r] and parameters of `m` bytes at s[b], aligned, in the own scratchpad. -/
def State.quantStore (s : State) (r b : BitVec 5) (oc op n m : Nat) : Prop :=
  (s.core.readS r).toNat % n = 0 ∧ (s.core.readS b).toNat % 16 = 0 ∧ s.ownScratch (s.core.readS r) n oc ∧ s.ownScratch (s.core.readS b) m op ∧
  s.fits [(oc, n), (op, m)]
/-- The operands of a dequantising load. -/
def State.quantLoad (s : State) (a b : BitVec 5) (oc op n m : Nat) : Prop :=
  (s.core.readS a).toNat % n = 0 ∧ (s.core.readS b).toNat % 16 = 0 ∧ s.loadable (s.core.readS a) n oc ∧ s.loadable (s.core.readS b) m op

/-- 07 R157: a load of `n` bytes at s[a] + sext(off12) · n, extended. -/
def LoadsScalar (i : BitVec 5 → BitVec 5 → BitVec 12 → BitVec 4 → Instr) (n : Nat) (ext : Nat → Word) : Prop :=
  ∀ (s : State) (d a : BitVec 5) (o : BitVec 12) (l : BitVec 4) (off : Nat), s.ready (Plan.memory [sR a] [sR d] l) = true →
    s.loadable (s.core.readS a + BitVec.ofNat 64 n * o.signExtend 64) n off →
    Completes s (i d a o l) (s.core.writeS d (ext (s.scratchValue off n)))

/-- 07 R157: a store of the low `n` bytes of s[d] at s[a] + sext(off12) · n. -/
def StoresScalar (i : BitVec 5 → BitVec 5 → BitVec 12 → BitVec 4 → Instr) (n : Nat) : Prop :=
  ∀ (s : State) (d a : BitVec 5) (o : BitVec 12) (l : BitVec 4) (off : Nat), s.ready (Plan.memory [sR d, sR a] [] l) = true →
    s.unburdened → s.ownScratch (s.core.readS a + BitVec.ofNat 64 n * o.signExtend 64) n off → s.fits [(off, n)] →
    Stores s (i d a o l) s.core (s.scratchBytes off n (s.core.readS d).toNat)

/-- The `n` bytes at `va` lie in no row of 07 R143: none is canonical or in the heap window, and the context has no view. -/
def State.nowhere (s : State) (va : Word) (n : Nat) : Prop :=
  s.core.views = some [] ∧ ∀ k < n, va.toNat + k < 2 ^ 64 ∧ canonical (BitVec.ofNat 64 (va.toNat + k)) = false ∧
    within (va.toNat + k) s.core.ctx.heapb.toNat s.core.ctx.heapl.toNat = false

/-! ### Instructions that stand alone between chunks -/

/-- No core has a chunk open or waiting for its commit, and no commit waits for its acknowledgements. -/
def State.calm (s : State) : Prop := (∀ b, (s.coreAt b).chunk = none ∧ (s.coreAt b).closed = []) ∧ s.commits = []
/-- The same, and no bytes of the acting core are on their way to a home. -/
def State.still (s : State) : Prop := s.calm ∧ s.pushes.any (fun p => p.agent == s.cur) = false

/-- What an access that is a chunk of its own may change of its core beside the registers: as `Core.plainly`, and it counts as
one committed instruction and chunk. -/
def Core.committing (c d : Core) : Prop :=
  d = { c with regs := d.regs, wait := d.wait, chunk := d.chunk, closed := d.closed, sam := d.sam, samCount := d.samCount,
               samLines := d.samLines, samBlocks := d.samBlocks, nextRelease := d.nextRelease, scoreboard := d.scoreboard, pmc := d.pmc,
               instret := c.instret + 1, chkcmt := c.chkcmt + 1 } ∧ ∀ a n, d.pendingByte a n = c.pendingByte a n

/-- An access of SRAM that is a chunk of its own completes, with the registers of `c`, the banks `mem` and the full/empty bits
`full`; beside them only its core and the chunk count of its forge change. -/
def Performs (s : State) (i : Instr) (c : Core) (mem : List Host.Cell) (full : NatSet) : Prop :=
  ∃ t, exec i s = .next t ∧ t.core.regs = { c.regs with pc := nextPc s.core.regs.pc } ∧ t.core.wait = none ∧ s.core.committing t.core ∧
    (∀ b, b ≠ s.cur → t.coreAt b = s.coreAt b) ∧ { t with cores := s.cores, forges := s.forges } = { s with mem := mem, full := full } ∧
    ∀ g, t.forgeAt g = if g = forgeOf s.cur then { s.forgeAt g with chunks := BitVec.ofNat 32 (min ((s.forgeAt g).chunks.toNat + 1) (2 ^ 32 - 1)) }
      else s.forgeAt g

/-- The aligned word of the own scratchpad at `va`, its storage address `w`, its bytes clean. -/
def State.ownWord (s : State) (va : Word) (n w : Nat) : Prop :=
  ∃ off, s.ownScratch va n off ∧ off % n = 0 ∧ w = sramBase s.cur + off ∧ s.poison.contains (w / 8 * 8) = false

/-- The plan of the full/empty group and the atomics. -/
def alonePlan (srcs dsts : List RegName) (l : BitVec 4) : Plan := { Plan.memory srcs dsts l with cls := .alone, ahead := .ends }

/-- Nobody else waits at the word, and the core is not half way through a wait. -/
def State.unawaited (s : State) (w : Nat) : Prop := s.core.wait = none ∧ ∀ x ∈ s.feWaiters, x.1 ≠ w ∧ x.2 ≠ s.cur

/-- 09 R189 to R193, R197: an atomic on `z` bytes of the own scratchpad, without a delivery: memory becomes what `op` gives of its
old value, s[b] and s[d], if anything, with the flags; a returning one writes s[d] with `ret` of the old value. -/
def Atomic (i : BitVec 5 → BitVec 5 → BitVec 5 → BitVec 4 → Instr) (reads returns : Bool) (z : Nat)
    (op : Nat → Nat → Nat → Option Nat × FFl) (ret : Nat → Word) : Prop :=
  ∀ (s : State) (d a b : BitVec 5) (l : BitVec 4) (w old : Nat) (r : Option Nat × FFl), s.still →
    s.ready (alonePlan ([sR a, sR b] ++ if reads then [sR d] else []) (if returns then [sR d] else []) l) = true →
    s.ownWord (s.core.readS a) z w → s.atomics = [] → s.deliveries = [] → (returns = false → s.core.readS d = 0) →
    old = ofBytes (tab (memGet s.mem) w z) → r = op old ((s.core.readS b).toNat % 2 ^ (8 * z)) (s.core.readS d).toNat →
    Performs s (i d a b l) ((if returns then s.core.writeS d (ret old) else s.core).raiseFl r.2)
      (match r.1 with | some v => memPut s.mem w (toBytes z v) | none => s.mem) s.full

/-- An atomic that always writes and raises no flags. -/
def AtomicRet (i : BitVec 5 → BitVec 5 → BitVec 5 → BitVec 4 → Instr) (z : Nat) (op : Nat → Nat → Nat) (ret : Nat → Word) : Prop :=
  Atomic i false true z (fun old b _ => (some (op old b), 0)) ret

/-- 09 R194, R195: a reduction on a word of the own scratchpad with a nonzero descriptor that R194 accepts: the word becomes what `op`
gives, the old value goes to the target word of the own die, which is set full, and then one arrival to the target's barrier. -/
def Redirects (i : BitVec 5 → BitVec 5 → BitVec 5 → BitVec 4 → Instr) (op : Nat → Nat → Nat) : Prop :=
  ∀ (s : State) (d a b : BitVec 5) (l : BitVec 4) (w old to' word : Nat) (x : Word) (m : List Host.Cell), s.cur < 512 → s.still →
    s.ready (alonePlan [sR a, sR b, sR d] [] l) = true → s.ownWord (s.core.readS a) 8 w → s.atomics = [] → s.deliveries = [] →
    x = s.core.readS d → x ≠ 0 → (x.getLsbD 63 || x.getLsbD 62) = true → x.toNat / 2 ^ 53 % 512 = 0 → x.getLsbD 47 = false →
    x.toNat / 2 ^ 22 % 2 ^ 18 = 0 → x.toNat % 8 = 0 → to' = dieOf s.cur * 128 + x.toNat / 2 ^ 40 % 128 →
    (x.getLsbD 63 = true → sramAssigned (s.coreAt to') (x.toNat % 2 ^ 22) = true) → word = sramBase to' + x.toNat % 2 ^ 22 →
    old = ofBytes (tab (memGet s.mem) w 8) → m = memPut s.mem w (toBytes 8 (op old (s.core.readS b).toNat)) →
    ∃ t, exec (i d a b l) s = .next t ∧ t.core.regs = { s.core.regs with pc := nextPc s.core.regs.pc } ∧ t.atomics = [] ∧ t.deliveries = [] ∧
      (x.getLsbD 63 = true → t.mem = memPut m word (toBytes 8 old) ∧ t.full = ninsert s.full word) ∧
      (x.getLsbD 63 = false → t.mem = m ∧ t.full = s.full) ∧
      ∀ n : BitVec 5, (t.coreAt to').bar n =
        if x.getLsbD 62 = true ∧ n.toNat = x.toNat / 2 ^ 48 % 32 then ((s.coreAt to').bar n).arrive else (s.coreAt to').bar n

/-- The state as an instruction that closes the chunk, and waits for its commit, finds it at rest: single-access mode ended. -/
def State.between (s : State) : State := s.me Core.closeChunk

/-- 09 R198: an atomic on a poisoned word of the own scratchpad writes and delivers nothing, and freezes its core, at interrupt, with its
entry pending and FAULTED. R195 to R197: one that another package or a switch performs leaves as a request with its operands; it stays
pending, but a reduction that a switch is to perform, which has ended. -/
def AtomicElsewhere (i : BitVec 5 → BitVec 5 → BitVec 5 → BitVec 4 → Instr) (fn : BitVec 7) (reads : Bool) : Prop :=
  ∀ (s : State) (d a b : BitVec 5) (l : BitVec 4) (dst : List RegName), dst = (if amoReduces fn then [] else [sR d]) → s.still →
    s.ready (alonePlan ([sR a, sR b] ++ if reads then [sR d] else []) dst l) = true → s.atomics = [] → s.deliveries = [] → s.core.wait = none →
    (∀ off, s.ownScratch (s.core.readS a) (amoSize fn) off → off % amoSize fn = 0 → s.poison.contains ((sramBase s.cur + off) / 8 * 8) = true →
      (amoReduces fn = true → s.core.readS d = 0) → (s.dieAt (dieOf s.cur)).action 2 0 = 2 → s.core.crdepth = 0 → s.core.status = .running →
      (s.dieAt (dieOf s.cur)).rings.toList.all (fun r => !r.base.getLsbD 0) = true →
      ∃ t, exec (i d a b l) s = .next t ∧ t.core.status = .frozen 2 ∧ t.core.regs = { s.core.regs with pc := nextPc s.core.regs.pc } ∧
        (∃ e ∈ t.core.scoreboard, e.faulted = true ∧ e.pc = s.core.regs.pc ∧ e.dests = dst) ∧ t.mem = s.mem ∧ t.full = s.full ∧
        t.deliveries = [] ∧ t.atomics = []) ∧
    ∀ (u : State) (pa : Nat) (at' : LineAttr) (window : Bool), s.between.amoAccept fn d (s.core.readS a) = .ok (u, pa, at', true, window) → u.pkg.fabricUp = true →
      s.amoRefused fn (alonePlan ([sR a, sR b] ++ if reads then [sR d] else []) dst l) d a = false →
      ∃ t r, exec (i d a b l) s = .next t ∧ t.atomics = [r] ∧ r.agent = s.cur ∧ r.addr = pa ∧ r.fn = fn ∧ r.b = s.core.readS b ∧ r.d = s.core.readS d ∧
        r.remote = true ∧ r.window = window ∧ r.done = none ∧ t.core.regs = { s.core.regs with pc := nextPc s.core.regs.pc } ∧ t.core.wait = none ∧
        (window = true → amoReduces fn = true → t.core.scoreboard.length = s.core.scoreboard.length) ∧
        (window = false ∨ amoReduces fn = false → ∃ e, t.core.scoreboard.getLast? = some e ∧ e.pc = s.core.regs.pc ∧ e.dests = dst ∧ e.waits = some .switch)

/-- Every member of the group, by its number. -/
def AtomicsElsewhere : Prop :=
  AtomicElsewhere .amoswap 0 false ∧ AtomicElsewhere .amoadd 1 false ∧ AtomicElsewhere .amoand 2 false ∧
  AtomicElsewhere .amoor 3 false ∧ AtomicElsewhere .amoxor 4 false ∧ AtomicElsewhere .amomin 5 false ∧
  AtomicElsewhere .amomax 6 false ∧ AtomicElsewhere .amominu 7 false ∧ AtomicElsewhere .amomaxu 8 false ∧
  AtomicElsewhere .amoswapI32 64 false ∧ AtomicElsewhere .amoaddI32 65 false ∧ AtomicElsewhere .amoandI32 66 false ∧
  AtomicElsewhere .amoorI32 67 false ∧ AtomicElsewhere .amoxorI32 68 false ∧ AtomicElsewhere .amominI32 69 false ∧
  AtomicElsewhere .amomaxI32 70 false ∧ AtomicElsewhere .amominuI32 71 false ∧ AtomicElsewhere .amomaxuI32 72 false ∧
  AtomicElsewhere .cas 9 true ∧ AtomicElsewhere .casgt 10 true ∧ AtomicElsewhere .casver 11 true ∧
  AtomicElsewhere .castag 12 true ∧ AtomicElsewhere .amofadd 13 false ∧ AtomicElsewhere .redadd 14 true ∧
  AtomicElsewhere .redmin 15 true ∧ AtomicElsewhere .redmax 16 true ∧ AtomicElsewhere .redfadd 17 true ∧
  AtomicElsewhere .redor 18 true

/-- The smaller and the larger of two codes of `w` bits as signed numbers. -/
def smin (w x y : Nat) : Nat := if sxt w y < sxt w x then y else x
def smax (w x y : Nat) : Nat := if sxt w x < sxt w y then y else x

/-- The returning members at one size. -/
def AtomicSize (z : Nat) (swap add and or xor min max minu maxu : BitVec 5 → BitVec 5 → BitVec 5 → BitVec 4 → Instr)
    (ret retu : Nat → Word) : Prop :=
  AtomicRet swap z (fun _ b => b) ret ∧ AtomicRet add z (fun x b => (x + b) % 2 ^ (8 * z)) ret ∧ AtomicRet and z (fun x b => x &&& b) ret ∧
  AtomicRet or z (fun x b => x ||| b) ret ∧ AtomicRet xor z (fun x b => x ^^^ b) ret ∧ AtomicRet min z (smin (8 * z)) ret ∧
  AtomicRet max z (smax (8 * z)) ret ∧ AtomicRet minu z Nat.min retu ∧ AtomicRet maxu z Nat.max retu

/-! ### Commands -/

/-- What the started pass command `x` at the head of a forge's execution list does: it is staged from the bank that holds its billet, by
an exchange of the banks where that is the shadow bank, or ends NOBILLET (12 R242, R243, R257). -/
def State.StagesPass (s : State) (f : Nat) (x : AnvilCmd) (b : List AnvilCmd) (i : Instr) : Prop :=
  ∀ (g : Forge) (y : AnvilCmd), g = s.forgeAt f → y = { x with stage := .staged, block := (s.feed x.cmd).1, poisoned := (s.feed x.cmd).2 } →
    (g.active.holds (passBillet x.cmd.tcw) = true → exec i s = .next (s.mapForge f (fun g => { g with execs := y :: b }))) ∧
    (g.active.holds (passBillet x.cmd.tcw) = false → g.transfer = none →
      (g.shadow.holds (passBillet x.cmd.tcw) = true →
        exec i s = .next (s.mapForge f (fun g => { g with execs := y :: b, active := g.shadow, shadow := g.active }))) ∧
      (g.shadow.holds (passBillet x.cmd.tcw) = false →
        exec i s = .next ((s.mapForge f (fun g => { g with execs := b })).anvilDrop x.cmd (codeOf stNobillet 0 0) 0)))

/-- A turn of a die engine's command in its slot: the first reads and computes, and each later one lets the next write land, unless a
home that takes nothing now holds it. -/
def State.SlotTurns (s : State) (x : Slot) (run : Run × BitVec 16) (i : Instr) (slotOf : State → Option Slot) : Prop :=
  (x.todo = [] → run.1.held = false → ∃ t, exec i s = .next t ∧ t.mem = run.1.st.mem ∧
    slotOf t = some { x with todo := run.1.puts, done := run.1.puts.isEmpty, code := run.1.code, aux := run.2, dest := run.1.units }) ∧
  ∀ p l, x.todo = p :: l → s.landingHeld p = false → ∃ t, exec i s = .next t ∧ t.mem = (s.land x.cmd.core p).mem ∧
    slotOf t = some { x with todo := l, done := l.isEmpty }
/-- A turn of collective operation `k`: the first reads every source and folds, ending every member alike on an error; each later one
lets the next write land, in rank order, unless a home that takes nothing now holds it. -/
def State.CollTurns (s : State) (k : Nat) (o : BitVec 8) (m : CollMember) (ms : List CollMember) (i : Instr) : Prop :=
  ((m :: ms).any CollMember.done = false → (∀ y ∈ m :: ms, y.todo = []) → ∀ r, r = s.collAll o.toNat m.cmd.tcw (m :: ms) →
    (∀ c e, r = .error (c, e) → e.held = false → ∃ t, exec i s = .next t ∧ t.colls[k]? = some (o, (m :: ms).map (fun y =>
      { y with todo := [], done := true, code := codeOf e.status (BitVec.ofNat 5 (fld y.code 8 5)) e.addr }))) ∧
    ∀ s1 l fl s2 ys, r = .ok (s1, l, fl) → collWrites fl ((m :: ms).zip l) s1 = some (s2, ys) → ∃ t, exec i s = .next t ∧
      t.mem = s2.mem ∧ t.colls[k]? = some (o, ys) ∧ ys.map CollMember.cmd = (m :: ms).map CollMember.cmd) ∧
  ∀ l1 y l2 p r, m :: ms = l1 ++ y :: l2 → (∀ z ∈ l1, z.todo = []) → y.todo = p :: r → s.landingHeld p = false → ∃ t, exec i s = .next t ∧
    t.mem = (s.land y.cmd.core p).mem ∧ t.colls[k]? = some (o, l1 ++ { y with todo := r, done := r.isEmpty } :: l2)

/-! ### Instructions between chunks -/

/-- An instruction ends in the state `u`, at the word behind it; of the acting core's bookkeeping, wait and counters only, more
than `u` says may change. -/
def Ends (s : State) (i : Instr) (u : State) : Prop :=
  ∃ t, exec i s = .next t ∧ t.core.regs = { u.core.regs with pc := nextPc s.core.regs.pc } ∧ t.core.wait = none ∧ u.quiet t

/-- The same, and then `f` follows. -/
def EndsThen (s : State) (i : Instr) (u : State) (f : State → State) : Prop :=
  ∃ t, exec i s = .next (f t) ∧ t.core.regs = { u.core.regs with pc := nextPc s.core.regs.pc } ∧ t.core.wait = none ∧ u.quiet t

/-- The save ranges that s[b] = `va` gives TKYIELD and PREHINT: none for 0, else the four descriptors of the 16 bytes there, which lie
in FE memory and leave room in the task's save area (14 R319). -/
def State.saveRanges (s : State) (va : Word) (r : Vector (BitVec 32) 4) : Prop :=
  (va = 0 ∧ r = Vector.replicate 4 0) ∨
  (va ≠ 0 ∧ va.toNat % 16 = 0 ∧ ∃ off, s.loadable va 16 off ∧ (∀ i : Fin 4, r[i] = BitVec.ofNat 32 (s.scratchValue (off + 4 * i.val) 4)) ∧
    ∀ l, l = (r.toList.map BitVec.toNat).filterMap rangeOf → (∀ x ∈ l, rangeOk s.core x = true) ∧
      (l.map (fun x => 8 * x.2 + 8 * ((x.2 + 31) / 32))).sum + 12288 ≤
        (match s.core.bound with | some (b, k) => imageStride ((s.coreAt b).entry k).image | none => 16384))

/-- An instruction waits: it has no effect yet but that it may end the chunk. -/
def Waits (s : State) (i : Instr) (w : Wait) : Prop :=
  ∃ t, exec i s = .next t ∧ t.core.regs = s.core.regs ∧ t.core.wait = some w ∧ s.quiet t

/-- A multi-cycle instruction issues and stays pending until what it waits for is there: its entry, the youngest of the scoreboard, has
the registers at issue; the core goes on behind it, and nothing is written. -/
def Pends (s : State) (i : Instr) (dsts : List RegName) (w : Wait) : Prop :=
  ∃ t e, exec i s = .next t ∧ t.core.regs = { s.core.regs with pc := nextPc s.core.regs.pc } ∧ t.core.wait = none ∧
    t.core.scoreboard.getLast? = some e ∧ e.word = s.ir ∧ e.pc = s.core.regs.pc ∧ e.dests = dsts ∧ e.captured = s.core.regs ∧
    e.waits = some w ∧ t.mem = s.mem ∧ t.full = s.full ∧ ∀ b, b ≠ s.cur → t.coreAt b = s.coreAt b

/-- What the youngest chunk of a core will do at its commit. -/
def Core.latest (c : Core) : List Deferred := ((c.closed ++ c.chunk.toList).getLast?.map Chunk.deferred).getD []

/-- An instruction of the chunk completes in `u`, and leaves the effect `x` to the chunk's commit. -/
def Defers (s : State) (i : Instr) (u : State) (x : Deferred) : Prop :=
  ∃ t, exec i s = .next t ∧ t.core.regs = { s.core.regs with pc := nextPc s.core.regs.pc } ∧ t.core.wait = none ∧ u.quiet t ∧
    t.core.latest = (match s.core.chunk with | some k => k.deferred | none => []) ++ [x]

/-- Ready, with nothing of the core waiting for a commit. -/
def State.closing (s : State) (srcs dsts : List RegName) : Prop := s.ready (Plan.closer srcs dsts) = true ∧ s.atRest

/-- A fault found at issue: the state in which it is taken. -/
def FaultsWith (s : State) (i : Instr) (f : IFault) : Prop := exec i s = .next (s.takeFault s.cur f)

end Sys2Proof.Machine
end

