-- ==== Sys2Proof/Certificates/Slice0/Obligations.lean ====
section
/-! DEFINITION. The statements for the provers. -/

open Sys2Proof Sys2Proof.Machine

/-! ### Scalar integer instructions -/

/-- 04 R83, R84: the two-source members of the ALU group, those that multiply or divide among them. -/
def Obligations.AluTwoSources : Prop :=
  (WritesOfTwo .add (fun A B => A + B) ∧ WritesOfTwo .sub (fun A B => A - B) ∧ WritesOfTwo .and (fun A B => A &&& B) ∧
  WritesOfTwo .or (fun A B => A ||| B) ∧ WritesOfTwo .xor (fun A B => A ^^^ B) ∧ WritesOfTwo .andn (fun A B => A &&& ~~~B) ∧
  WritesOfTwo .orn (fun A B => A ||| ~~~B) ∧ WritesOfTwo .xnor (fun A B => ~~~(A ^^^ B)) ∧
  WritesOfTwo .sll (fun A B => A <<< (B.toNat % 64)) ∧ WritesOfTwo .srl (fun A B => A >>> (B.toNat % 64)) ∧
  WritesOfTwo .sra (fun A B => A.sshiftRight (B.toNat % 64)) ∧ WritesOfTwo .rol (fun A B => A.rotateLeft (B.toNat % 64)) ∧
  WritesOfTwo .ror (fun A B => A.rotateRight (B.toNat % 64)) ∧
  WritesOfTwo .slt (fun A B => if A.toInt < B.toInt then 1 else 0) ∧ WritesOfTwo .sltu (fun A B => if A.toNat < B.toNat then 1 else 0) ∧
  WritesOfTwo .seq (fun A B => if A = B then 1 else 0) ∧
  WritesOfTwo .min (fun A B => BitVec.ofInt 64 (min A.toInt B.toInt)) ∧ WritesOfTwo .max (fun A B => BitVec.ofInt 64 (max A.toInt B.toInt)) ∧
  WritesOfTwo .minu (fun A B => BitVec.ofNat 64 (min A.toNat B.toNat)) ∧ WritesOfTwo .maxu (fun A B => BitVec.ofNat 64 (max A.toNat B.toNat)) ∧
  WritesOfTwo .addw (fun A B => ((A + B).extractLsb' 0 32).signExtend 64) ∧ WritesOfTwo .subw (fun A B => ((A - B).extractLsb' 0 32).signExtend 64) ∧
  WritesOfTwo .adds (fun A B => BitVec.ofInt 64 (max (-(2 ^ 63)) (min (2 ^ 63 - 1) (A.toInt + B.toInt))))) ∧
  (WritesOfTwoLa .mul (fun A B => BitVec.ofNat 64 (A.toNat * B.toNat)) ∧
  WritesOfTwoLa .mulh (fun A B => BitVec.ofInt 64 (A.toInt * B.toInt / 2 ^ 64)) ∧
  WritesOfTwoLa .mulhu (fun A B => BitVec.ofNat 64 (A.toNat * B.toNat / 2 ^ 64)) ∧
  WritesOfTwoLa .div (fun A B =>
    if B = 0 then (if A.toInt < 0 then BitVec.ofInt 64 (-(2 ^ 63)) else BitVec.ofInt 64 (2 ^ 63 - 1))
    else if A.toInt = -(2 ^ 63) ∧ B.toInt = -1 then BitVec.ofInt 64 (2 ^ 63 - 1) else BitVec.ofInt 64 (A.toInt.tdiv B.toInt)) ∧
  WritesOfTwoLa .divu (fun A B => if B = 0 then BitVec.ofNat 64 (2 ^ 64 - 1) else BitVec.ofNat 64 (A.toNat / B.toNat)) ∧
  WritesOfTwoLa .rem (fun A B => if B = 0 then A else BitVec.ofInt 64 (A.toInt - B.toInt * A.toInt.tdiv B.toInt)) ∧
  WritesOfTwoLa .remu (fun A B => if B = 0 then A else BitVec.ofNat 64 (A.toNat % B.toNat)))

/-- 04 R83: the one-source members that select or move bits. 04 R86: the immediate forms,
with their words, and the words that R86 makes unassigned. -/
def Obligations.AluOneSourceAndImmediates : Prop :=
  (WritesOfOne .sextb (fun A => (A.extractLsb' 0 8).signExtend 64) ∧ WritesOfOne .sexth (fun A => (A.extractLsb' 0 16).signExtend 64) ∧
  WritesOfOne .sextw (fun A => (A.extractLsb' 0 32).signExtend 64) ∧ WritesOfOne .zextw (fun A => BitVec.ofNat 64 (A.toNat % 2 ^ 32)) ∧
  ∃ clz ctz popc brev bswap : Word → Word,
    WritesOfOne .clz clz ∧ WritesOfOne .ctz ctz ∧ WritesOfOne .popc popc ∧ WritesOfOne .brev brev ∧ WritesOfOne .bswap bswap ∧
    ∀ A : Word,
      (∀ n, (clz A).toNat = n ↔ n ≤ 64 ∧ A.toNat < 2 ^ (64 - n) ∧ (n = 64 ∨ 2 ^ (63 - n) ≤ A.toNat)) ∧
      (∀ n, (ctz A).toNat = n ↔ n ≤ 64 ∧ (∀ k < n, A.getLsbD k = false) ∧ (n = 64 ∨ A.getLsbD n = true)) ∧
      (popc A).toNat = ((List.range 64).filter A.getLsbD).length ∧
      (∀ k < 64, (brev A).getLsbD (63 - k) = A.getLsbD k) ∧
      (∀ k < 8, (bswap A).extractLsb' (8 * (7 - k)) 8 = A.extractLsb' (8 * k) 8)) ∧
  (∀ i : BitVec 16,
    WritesOfOne (fun d a => .addi d a i) (fun A => A + i.signExtend 64) ∧
    WritesOfOne (fun d a => .andi d a i) (fun A => A &&& i.zeroExtend 64) ∧
    WritesOfOne (fun d a => .ori d a i) (fun A => A ||| i.zeroExtend 64) ∧
    WritesOfOne (fun d a => .xori d a i) (fun A => A ^^^ i.zeroExtend 64) ∧
    WritesOfOne (fun d a => .slti d a i) (fun A => if A.toInt < i.toInt then 1 else 0) ∧
    WritesOfOne (fun d a => .sltiu d a i) (fun A => if A.toNat < i.toNat then 1 else 0) ∧
    ∀ (s : State) (d : BitVec 5), s.ready (Plan.simple [] [sR d]) = true →
      Completes s (.lui d i) (s.core.writeS d (BitVec.ofInt 64 (i.toInt * 2 ^ 16)))) ∧
  (∀ n : BitVec 6,
    WritesOfOne (fun d a => .slli d a n) (fun A => A <<< n.toNat) ∧ WritesOfOne (fun d a => .srli d a n) (fun A => A >>> n.toNat) ∧
    WritesOfOne (fun d a => .srai d a n) (fun A => A.sshiftRight n.toNat) ∧ WritesOfOne (fun d a => .rori d a n) (fun A => A.rotateRight n.toNat)) ∧
  (∀ (d a : BitVec 5) (i : BitVec 16), ∀ x, x ∈ [(Instr.addi d a i, 0x02#6), (.andi d a i, 0x03#6), (.ori d a i, 0x04#6), (.xori d a i, 0x05#6),
    (.slti d a i, 0x06#6), (.sltiu d a i, 0x07#6)] → encode x.1 = some (x.2 ++ d ++ a ++ i)) ∧
  (∀ (d : BitVec 5) (i : BitVec 16), encode (.lui d i) = some (0x08#6 ++ d ++ 0#5 ++ i)) ∧
  (∀ (d a : BitVec 5) (n : BitVec 6), ∀ x, x ∈ [(Instr.slli d a n, 0#2), (.srli d a n, 1#2), (.srai d a n, 2#2), (.rori d a n, 3#2)] →
    encode x.1 = some (0x09#6 ++ d ++ a ++ x.2 ++ 0#8 ++ n)) ∧
  ∀ (d a : BitVec 5) (i : BitVec 16), (a ≠ 0 → ∃ r, decode (0x08#6 ++ d ++ a ++ i) = .error r) ∧
    (i.extractLsb' 6 8 ≠ 0 → ∃ r, decode (0x09#6 ++ d ++ a ++ i) = .error r)

/-- 04 R87, R88: bit fields and funnel shifts; bits at positions 64 and above read 0 and are never written.
Their words, and the words that R87 and R88 make unassigned. -/
def Obligations.BitFields : Prop :=
  (∀ P n : BitVec 6, ∀ L : Nat, L = (if n = 0 then 64 else n.toNat) →
    WritesOfOne (fun d a => .bext d a P n) (fun A => BitVec.ofNat 64 (A.toNat / 2 ^ P.toNat % 2 ^ L)) ∧
    WritesOfOne (fun d a => .bexts d a P n) (fun A => BitVec.ofInt 64 (sxt L (A.toNat / 2 ^ P.toNat % 2 ^ L))) ∧
    ∀ (s : State) (d a : BitVec 5), s.ready (Plan.simple [sR a, sR d] [sR d]) = true →
      ∃ v : Word, Completes s (.bins d a P n) (s.core.writeS d v) ∧ ∀ k < 64, v.getLsbD k =
        (if P.toNat ≤ k ∧ k < P.toNat + L then (s.core.readS a).getLsbD (k - P.toNat) else (s.core.readS d).getLsbD k)) ∧
  (∀ (s : State) (d a b c : BitVec 5) (A B C n P L : Nat), A = (s.core.readS a).toNat → B = (s.core.readS b).toNat → C = (s.core.readS c).toNat →
    n = C % 2 ^ 7 → P = B % 2 ^ 6 → L = min (C % 2 ^ 7) 64 →
    (s.ready (Plan.simple [sR a, sR b, sR c] [sR d]) = true →
      Completes s (.fshl d a b c) (s.core.writeS d (BitVec.ofNat 64 ((A * 2 ^ 64 + B) * 2 ^ n / 2 ^ 64))) ∧
      Completes s (.fshr d a b c) (s.core.writeS d (BitVec.ofNat 64 ((A * 2 ^ 64 + B) / 2 ^ n))) ∧
      Completes s (.bextv d a b c) (s.core.writeS d (BitVec.ofNat 64 (A / 2 ^ P % 2 ^ L)))) ∧
    (s.ready (Plan.simple [sR a, sR b, sR c, sR d] [sR d]) = true →
      ∃ v : Word, Completes s (.binsv d a b c) (s.core.writeS d v) ∧ ∀ k < 64, v.getLsbD k =
        (if P ≤ k ∧ k < P + L then (s.core.readS a).getLsbD (k - P) else (s.core.readS d).getLsbD k))) ∧
  (∀ (d a : BitVec 5) (P n : BitVec 6), ∀ x, x ∈ [(Instr.bext d a P n, 0#2), (.bexts d a P n, 1#2), (.bins d a P n, 2#2)] →
    encode x.1 = some (0x20#6 ++ d ++ a ++ P ++ n ++ x.2 ++ 0#2)) ∧
  (∀ (d a b c : BitVec 5), ∀ x, x ∈ [(Instr.fshl d a b c, 0#2), (.fshr d a b c, 1#2), (.bextv d a b c, 2#2), (.binsv d a b c, 3#2)] →
    encode x.1 = some (0x27#6 ++ d ++ a ++ b ++ c ++ x.2 ++ 0#4)) ∧
  (∀ (d a : BitVec 5) (P n : BitVec 6) (sub z : BitVec 2), sub = 3 ∨ z ≠ 0 → ∃ r, decode (0x20#6 ++ d ++ a ++ P ++ n ++ sub ++ z) = .error r) ∧
  ∀ (d a b c : BitVec 5) (sub : BitVec 2) (z : BitVec 4), z ≠ 0 → ∃ r, decode (0x27#6 ++ d ++ a ++ b ++ c ++ sub ++ z) = .error r

/-- 04 R85: HADD completes inside the heap and one past its end, and takes HEAP_LIMIT (class 0x14) anywhere else with its
destination unchanged. -/
def Obligations.HeapPointer : Prop :=
  ∀ (s : State) (d a b : BitVec 5) (r : Nat), s.ready (Plan.simple [sR a, sR b] [sR d]) = true →
    r = (s.core.readS a).toNat + (s.core.readS b).toNat →
    (s.core.ctx.heapl ≠ 0 ∧ s.core.ctx.heapb.toNat ≤ r ∧ r ≤ s.core.ctx.heapb.toNat + s.core.ctx.heapl.toNat →
      Completes s (.hadd d a b) (s.core.writeS d (BitVec.ofNat 64 r))) ∧
    (¬(s.core.ctx.heapl ≠ 0 ∧ s.core.ctx.heapb.toNat ≤ r ∧ r ≤ s.core.ctx.heapb.toNat + s.core.ctx.heapl.toNat) → s.faultable →
      exec (.hadd d a b) s = .next (s.takeFault s.cur (.heapLimit (BitVec.ofNat 64 r))))

/-! ### Branches and jumps -/

/-- 04 R89, R91: the conditional branches. 04 R90, R91: JAL links into s1, JALR into s[d], its target read first; a bad target is an
access fault that writes nothing. The words of all eight. -/
def Obligations.BranchesAndJumps : Prop :=
  (BranchesOn .beq (fun A B => A = B) ∧ BranchesOn .bne (fun A B => A ≠ B) ∧ BranchesOn .blt (fun A B => A.toInt < B.toInt) ∧
  BranchesOn .bge (fun A B => B.toInt ≤ A.toInt) ∧ BranchesOn .bltu (fun A B => A.toNat < B.toNat) ∧
  BranchesOn .bgeu (fun A B => B.toNat ≤ A.toNat)) ∧
  (∀ (s : State) (pc : Word), pc = s.core.regs.pc →
    (∀ (o : BitVec 26) (t : Word), t = pc + 4 * o.signExtend 64 → s.ready { Plan.simple [] [sR 1] with ahead := .branches } = true →
      (canonical t = true → CompletesAt s (.jal o) (s.core.writeS 1 (pc + 4)) t) ∧
      (canonical t = false → s.faultable → exec (.jal o) s = .next (s.takeFault s.cur (.access t)))) ∧
    ∀ (d a : BitVec 5) (i : BitVec 16) (t : Word), t = s.core.readS a + i.signExtend 64 →
      s.ready { Plan.simple [sR a] [sR d] with ahead := .branches } = true →
      (t.toNat % 4 = 0 ∧ canonical t = true → CompletesAt s (.jalr d a i) (s.core.writeS d (pc + 4)) t) ∧
      (¬(t.toNat % 4 = 0 ∧ canonical t = true) → s.faultable → exec (.jalr d a i) s = .next (s.takeFault s.cur (.access t)))) ∧
  (∀ (a b : BitVec 5) (o : BitVec 16), ∀ x, x ∈ [(Instr.beq a b o, 0x0A#6), (.bne a b o, 0x0B#6), (.blt a b o, 0x0C#6), (.bge a b o, 0x0D#6),
    (.bltu a b o, 0x0E#6), (.bgeu a b o, 0x0F#6)] → encode x.1 = some (x.2 ++ a ++ b ++ o)) ∧
  (∀ o : BitVec 26, encode (.jal o) = some (0x10#6 ++ o)) ∧ ∀ (d a : BitVec 5) (i : BitVec 16), encode (.jalr d a i) = some (0x11#6 ++ d ++ a ++ i)

/-! ### Floating point -/

/-- 04 R93, R95: the FPU group. -/
def Obligations.FpuGroup : Prop :=
  FloatOfTwo .fadd (fadd fmtF64) ∧ FloatOfTwo .fsub (fsub fmtF64) ∧ FloatOfTwo .fmul (fmul fmtF64) ∧ FloatOfTwo .fdiv (fdiv fmtF64) ∧
  FloatOfOne .fsqrt (fsqrt fmtF64) ∧ FloatOfTwo .fmin (fun _ => fminmax false fmtF64) ∧ FloatOfTwo .fmax (fun _ => fminmax true fmtF64) ∧
  FloatOfTwo .fceq (fun _ A B => let r := fcompare .eq fmtF64 A B; (if r.1 then 1 else 0, r.2)) ∧
  FloatOfTwo .fclt (fun _ A B => let r := fcompare .lt fmtF64 A B; (if r.1 then 1 else 0, r.2)) ∧
  FloatOfTwo .fcle (fun _ A B => let r := fcompare .le fmtF64 A B; (if r.1 then 1 else 0, r.2)) ∧
  FloatOfOne .fcvtdl (fun rm A => let r := fToInt fmtF64 rm (-(2 ^ 63)) (2 ^ 63 - 1) A; ((r.1 % 2 ^ 64).toNat, r.2)) ∧
  FloatOfOne .fcvtld (fun rm A => intToF fmtF64 rm (BitVec.ofNat 64 A).toInt) ∧
  FloatOfOne .fcvtsd (fun rm A => fcvt fmtF32 fmtF64 rm (A % 2 ^ 32)) ∧ FloatOfOne .fcvtds (fcvt fmtF64 fmtF32) ∧
  FloatOfOne .fclass (fun _ A => (fclass fmtF64 A, 0)) ∧
  ∀ (s : State) (d a b : BitVec 5) (l : BitVec 4), s.ready (Plan.multi [sR a, sR b, sR d] [sR d] l) = true →
    Completes s (.fmac d a b l) (s.core.putF d
      (ffma fmtF64 s.core.regs.frm (s.core.readS a).toNat (s.core.readS b).toNat (s.core.readS d).toNat))

/-- 02 R26, R29, R30: NaN results are the canonical NaN; minimum and maximum return the other operand of a NaN, as it is delivered
(a subnormal bfloat16 as zero of its sign), and −0 is less than +0; a comparison with a NaN is false. 02 R25, R27, R28, R32, R48, 04 R93,
R94: sums, differences, products, quotients, fused sums and square roots of finite codes, and conversions between formats, are the exact
results on the codes' values, rounded once to a code next to them as the mode says, with the flags of overflow, underflow and
inexactness; conversions to and from whole numbers round to one next to the value, or give the bound; infinities and NaNs convert as
R32 and R48 say. -/
def Obligations.NanRules : Prop :=
  (∀ f : Fmt, f ∈ [fmtF64, fmtF32, fmtF16, fmtBF16] → ∀ (rm : BitVec 2) (x y : Nat), (funpack f x).isNan = true →
    (fadd f rm x y).1 = fmtNan f ∧ (fadd f rm y x).1 = fmtNan f ∧ (fmul f rm x y).1 = fmtNan f ∧ (fdiv f rm x y).1 = fmtNan f ∧
    (fdiv f rm y x).1 = fmtNan f ∧ (fsqrt f rm x).1 = fmtNan f ∧
    (∀ m c, (fminmax m f x y).1 = (if (funpack f y).isNan then fmtNan f else
      if f = fmtBF16 ∧ y / 2 ^ 7 % 2 ^ 8 = 0 ∧ y % 2 ^ 7 ≠ 0 then y / 2 ^ 15 % 2 * 2 ^ 15 else y) ∧ (fcompare c f x y).1 = false ∧ (fcompare c f y x).1 = false) ∧
    (fminmax false f 0 (2 ^ (f.ebits + f.mbits))).1 = 2 ^ (f.ebits + f.mbits) ∧ (fminmax true f (2 ^ (f.ebits + f.mbits)) 0).1 = 0) ∧
  (∀ f ∈ [fmtF64, fmtF32, fmtF16, fmtBF16], f.Correct ∧ ∀ g ∈ [fmtF64, fmtF32, fmtF16, fmtBF16, fmtE4M3, fmtE5M2], f.Converts g) ∧
  fmtE4M3.Converts fmtF32 ∧ fmtE5M2.Converts fmtF32 ∧
  ∀ f ∈ [fmtF64, fmtF32, fmtF16, fmtBF16], ∀ g ∈ [fmtF64, fmtF32, fmtF16, fmtBF16, fmtE4M3, fmtE5M2], ∀ (rm : BitVec 2) (neg : Bool) (x : Nat) (lo hi : Int),
    (funpack f x = .inf neg → fcvt f g rm x = (if g.noInf then (2 ^ (g.ebits + g.mbits) - 1, flNV) else (fmtSign g neg + fmtInf g, 0)) ∧
      fcvtSat f g rm x = (fmtSign g neg + fmtMax g, flOF) ∧ fToInt f rm lo hi x = (if neg then lo else hi, flNV)) ∧
    ∀ sig, funpack f x = .nan sig → fcvt f g rm x = (fmtNan g, if sig then flNV else 0) ∧ fcvtSat f g rm x = fcvt f g rm x ∧ fToInt f rm lo hi x = (0, flNV)

/-! ### Vector arithmetic -/

/-- 05 R103, R106: the integer members at 32, 16 and 8 bits. -/
def Obligations.VectorIntegers : Prop :=
  IntegerLanes 32 .vaddI32 .vsubI32 .vmulI32 .vmacI32 .vminI32 .vmaxI32 .vminuI32 .vmaxuI32 .vshlI32 .vshrI32 .vsraI32 .vabsI32 .vnegI32
    .vceqI32 .vcltI32 .vcltuI32 ∧
  IntegerLanes 16 .vaddI16 .vsubI16 .vmulI16 .vmacI16 .vminI16 .vmaxI16 .vminuI16 .vmaxuI16 .vshlI16 .vshrI16 .vsraI16 .vabsI16 .vnegI16
    .vceqI16 .vcltI16 .vcltuI16 ∧
  IntegerLanes 8 .vaddI8 .vsubI8 .vmulI8 .vmacI8 .vminI8 .vmaxI8 .vminuI8 .vmaxuI8 .vshlI8 .vshrI8 .vsraI8 .vabsI8 .vnegI8
    .vceqI8 .vcltI8 .vcltuI8

/-- 05 R104 to R106: the floating-point members, in binary32, bfloat16 and binary16, with the binary32 divide and root. -/
def Obligations.VectorFloats : Prop :=
  FloatLanes fmtF32 .vaddF32 .vsubF32 .vmulF32 .vfmaF32 .vfmsF32 .vminF32 .vmaxF32 .vabsF32 .vnegF32 .vrcpeF32 .vrsqeF32 .vceqF32 .vcltF32
    .vcleF32 ∧
  FloatLanes fmtBF16 .vaddBf16 .vsubBf16 .vmulBf16 .vfmaBf16 .vfmsBf16 .vminBf16 .vmaxBf16 .vabsBf16 .vnegBf16 .vrcpeBf16 .vrsqeBf16
    .vceqBf16 .vcltBf16 .vcleBf16 ∧
  FloatLanes fmtF16 .vaddF16 .vsubF16 .vmulF16 .vfmaF16 .vfmsF16 .vminF16 .vmaxF16 .vabsF16 .vnegF16 .vrcpeF16 .vrsqeF16 .vceqF16 .vcltF16
    .vcleF16 ∧
  LanesOfTwo 32 .vdivF32 (fdiv fmtF32) ∧ LanesOfOne 32 .vsqrtF32 (fsqrt fmtF32)

/-- 05 R100, R101, R104: what a predicated write leaves: an active element the low bits of its result, an inactive one its old
value; FFLAGS gains the flags of the active elements only; the poison bit goes when every element was active and stays
otherwise; no other register changes.
05 R106: a compare sets every predicate bit of an active element whose condition holds and clears every other bit; named
p0 it discards the result and still raises its flags. -/
def Obligations.PredicatedLanes : Prop :=
  (∀ (c : Core) (d : BitVec 5) (p : BitVec 3) (w : Nat) (f : Nat → FRes) (r : Core), w ∈ [8, 16, 32, 64] → r = c.putV d p w f →
    (∀ k < lanes w, elem w (r.readV d) k = if active (c.readP p) w k then (f k).1 % 2 ^ w else elem w (c.readV d) k) ∧
    (∀ b : Nat, r.regs.fflags.getLsbD b = (c.regs.fflags.getLsbD b || (List.range (lanes w)).any (fun k => active (c.readP p) w k && (f k).2.getLsbD b))) ∧
    (r.poisoned (vR d) = (c.poisoned (vR d) && (List.range (lanes w)).any (fun k => !active (c.readP p) w k))) ∧
    (∀ n, n ≠ d → r.readV n = c.readV n ∧ r.poisoned (vR n) = c.poisoned (vR n)) ∧ r.regs.s = c.regs.s ∧ r.regs.p = c.regs.p ∧ r.regs.k = c.regs.k) ∧
  (∀ (c : Core) (d p : BitVec 3) (w : Nat) (f : Nat → Bool × FFl), w ∈ [8, 16, 32] →
    (d ≠ 0 → ∀ j < 256, ((c.putCmp d p w f).readP d).getLsbD j = (active (c.readP p) w (8 * j / w) && (f (8 * j / w)).1)) ∧
    (d = 0 → (c.putCmp d p w f).regs.p = c.regs.p) ∧
    ∀ b : Nat, (c.putCmp d p w f).regs.fflags.getLsbD b =
      (c.regs.fflags.getLsbD b || (List.range (lanes w)).any (fun k => active (c.readP p) w k && (f k).2.getLsbD b)))

/-! ### Logic, permutes, reductions, moves -/

/-- 05 R107, R108: the bitwise members by byte, the selector, and the predicate members, with their words and what must be
zero in them. -/
def Obligations.VectorLogic : Prop :=
  (∀ (d a b : BitVec 5) (p : BitVec 3), ∀ x, x ∈ [(Instr.vand d a b p, 0#4), (.vor d a b p, 1#4), (.vxor d a b p, 2#4), (.vandn d a b p, 3#4), (.vsel d a b p, 4#4)] →
    encode x.1 = some (0x2E#6 ++ d ++ a ++ b ++ x.2 ++ p ++ 0#4)) ∧
  (∀ (s : State) (d a b : BitVec 5) (p : BitVec 3) (A B : Nat → Nat), s.ready (Plan.simple [vR a, vR b, pR p] [vR d]) = true →
    A = elem 8 (s.core.readV a) → B = elem 8 (s.core.readV b) →
    Completes s (.vand d a b p) (s.core.putV d p 8 (fun k => (A k &&& B k, 0))) ∧
    Completes s (.vor d a b p) (s.core.putV d p 8 (fun k => (A k ||| B k, 0))) ∧
    Completes s (.vxor d a b p) (s.core.putV d p 8 (fun k => (A k ^^^ B k, 0))) ∧
    Completes s (.vandn d a b p) (s.core.putV d p 8 (fun k => (A k &&& (255 - B k), 0))) ∧
    Completes s (.vsel d a b p) (s.core.writeV d (vtab 8 (fun k => if (s.core.readP p).getLsbD k then A k else B k)))) ∧
  (∀ (s : State) (d a b : BitVec 3), s.ready (Plan.simple [pR a, pR b] [pR d]) = true →
    Completes s (.vpand d a b) (s.core.writeP d (s.core.readP a &&& s.core.readP b)) ∧
    Completes s (.vpor d a b) (s.core.writeP d (s.core.readP a ||| s.core.readP b)) ∧
    Completes s (.vpxor d a b) (s.core.writeP d (s.core.readP a ^^^ s.core.readP b))) ∧
  (∀ (s : State) (d a : BitVec 3), s.ready (Plan.simple [pR a] [pR d]) = true → Completes s (.vpnot d a) (s.core.writeP d (~~~(s.core.readP a)))) ∧
  (∀ (d a b : BitVec 3), ∀ x, x ∈ [(Instr.vpand d a b, 5#4), (.vpor d a b, 6#4), (.vpxor d a b, 7#4)] →
    encode x.1 = some (0x2E#6 ++ 0#2 ++ d ++ 0#2 ++ a ++ 0#2 ++ b ++ x.2 ++ 0#3 ++ 0#4)) ∧
  (∀ (d a : BitVec 3), encode (.vpnot d a) = some (0x2E#6 ++ 0#2 ++ d ++ 0#2 ++ a ++ 0#5 ++ 8#4 ++ 0#3 ++ 0#4)) ∧
  (∀ (d : BitVec 5) (a : BitVec 3) (e : BitVec 5) (p : BitVec 3) (l : BitVec 4), ∀ x, x ∈ [(Instr.vpcnt d a e p l, 9#4), (.vpfirst d a e p l, 10#4)] →
    encode x.1 = some (0x2E#6 ++ d ++ 0#2 ++ a ++ e ++ x.2 ++ p ++ l)) ∧
  (∀ (d a b : BitVec 5) (f : BitVec 4) (p : BitVec 3) (l : BitVec 4), (f.toNat < 9 ∧ l ≠ 0) ∨
    (4 < f.toNat ∧ f.toNat < 9 ∧ ¬(d.toNat < 8 ∧ a.toNat < 8 ∧ p = 0)) ∨ (4 < f.toNat ∧ f.toNat < 8 ∧ 7 < b.toNat) ∨ (f = 8 ∧ b ≠ 0) ∨
    ((f = 9 ∨ f = 10) ∧ (7 < a.toNat ∨ 5 < b.toNat)) → ∃ r, decode (0x2E#6 ++ d ++ a ++ b ++ f ++ p ++ l) = .error r) ∧
  ∀ (s : State) (d : BitVec 5) (a : BitVec 3) (e : BitVec 5) (p : BitVec 3) (l : BitVec 4) (on : List Nat),
    s.ready (Plan.multi [pR a, pR p] [sR d] l) = true →
    on = (List.range (lanes (widthE e.toNat))).filter (fun k => active (s.core.readP a) (widthE e.toNat) k && active (s.core.readP p) (widthE e.toNat) k) →
    Completes s (.vpcnt d a e p l) (s.core.writeS d (BitVec.ofNat 64 on.length)) ∧
    Completes s (.vpfirst d a e p l) (s.core.writeS d (BitVec.ofNat 64 (on.head?.getD (lanes (widthE e.toNat)))))

/-- 05 R109 to R111: the byte permutes, VBCAST, VINS, VIOTA and VCOMPR. -/
def Obligations.VectorPermutes : Prop :=
  ∀ (s : State) (d a b : BitVec 5) (p : BitVec 3) (l : BitVec 4) (A : Nat → Nat) (n : Nat), A = elem 8 (s.core.readV a) → n = min (s.core.readS b).toNat 256 →
    (s.ready (Plan.multi [vR a, vR b, pR p] [vR d] l) = true →
      Completes s (.vperm d a b p l) (s.core.putV d p 8 (fun i => (A (elem 8 (s.core.readV b) i), 0)))) ∧
    (s.ready (Plan.multi [vR a, vR (a + 1), sR b, pR p] [vR d] l) = true →
      Completes s (.vext d a b p l) (s.core.putV d p 8 (fun i =>
        let m := (s.core.readS b).toNat % 512 + i
        (if m < 256 then A m else if m < 512 then elem 8 (s.core.readV (a + 1)) (m - 256) else 0, 0)))) ∧
    (s.ready (Plan.multi [vR a, sR b, pR p] [vR d] l) = true →
      (∃ x : VWord, (∀ i < 256, elem 8 x i = if n ≤ i ∧ (s.core.readP p).getLsbD i then A (i - n) else elem 8 (s.core.readV d) i) ∧
        Completes s (.vslup d a b p l)
          (if n = 0 ∧ s.core.readP p = BitVec.allOnes 256 then s.core.writeV d x else s.core.mergeV d x)) ∧
      Completes s (.vsldn d a b p l) (s.core.putV d p 8 (fun i => (if i + n < 256 then A (i + n) else 0, 0)))) ∧
    (∀ (x : BitVec 3) (w : Nat), x.toNat < 4 → w = 8 * 2 ^ x.toNat → s.ready (Plan.multi [vR a, sR b] [vR d] l) = true →
      Completes s (.vbcast d a b x l) (s.core.writeV d (vtab w (fun _ => elem w (s.core.readV a) ((s.core.readS b).toNat % lanes w)))) ∧
      Completes s (.vins d a b x l)
        (s.core.mergeV d (setElem w (s.core.readV d) ((s.core.readS b).toNat % lanes w) (elem w (s.core.readV a) 0)))) ∧
    ∀ (e : BitVec 5) (w : Nat) (on : List Nat), w = widthE e.toNat → on = (List.range (lanes w)).filter (active (s.core.readP p) w) →
      (s.ready (Plan.multi [pR p] [vR d] l) = true →
        Completes s (.viota d e p l) (s.core.writeV d (vtab w (fun k => (on.filter (fun j => j < k)).length)))) ∧
      (s.ready (Plan.multi [vR a, pR p] [vR d] l) = true →
        ∃ x : VWord, (∀ k < lanes w, elem w x k = if k < on.length then elem w (s.core.readV a) (on.getD k 0) else elem w (s.core.readV d) k) ∧
          Completes s (.vcompr d a e p l) (if on.length = lanes w then s.core.writeV d x else s.core.mergeV d x))

/-- 05 R112: VREDI writes element 0 with the wrapping sum of the active elements and leaves every other element. -/
def Obligations.Reductions : Prop :=
  ∀ (s : State) (d a e : BitVec 5) (p : BitVec 3) (l : BitVec 4) (w : Nat) (xs : List (Option Nat)), s.ready (Plan.multi [vR a, pR p] [vR d] l) = true →
    w = widthE e.toNat →
    xs = (List.range (lanes w)).map (fun k => if active (s.core.readP p) w k then some (elem w (s.core.readV a) k) else none) →
    Completes s (.vredi d a e p l) (s.core.mergeV d (setElem w (s.core.readV d) 0 (xs.map (fun x => x.getD 0)).sum)) ∧
    (e.toNat < 3 → (∃ x : VWord, Completes s (.vredmx d a e p l) (s.core.mergeV d x) ∧
        (∀ k, 0 < k → k < lanes w → elem w x k = elem w (s.core.readV d) k) ∧ (∀ y, some y ∈ xs → sxt w y ≤ sxt w (elem w x 0)) ∧
        (some (elem w x 0) ∈ xs ∨ sxt w (elem w x 0) = -(2 ^ (w - 1)))) ∧
      ∃ x : VWord, Completes s (.vredmn d a e p l) (s.core.mergeV d x) ∧
        (∀ k, 0 < k → k < lanes w → elem w x k = elem w (s.core.readV d) k) ∧ (∀ y, some y ∈ xs → sxt w (elem w x 0) ≤ sxt w y) ∧
        (some (elem w x 0) ∈ xs ∨ sxt w (elem w x 0) = 2 ^ (w - 1) - 1)) ∧
    (2 < e.toNat → e.toNat < 6 → ∀ f : Fmt, f = (if e.toNat = 3 then fmtF32 else if e.toNat = 4 then fmtBF16 else fmtF16) → ∀ r x n : FRes,
      r = treeFold (fadd f s.core.regs.frm) (Nat.log2 (lanes w)) (xs.map (fun y => y.getD (2 ^ (w - 1)))) →
      x = treeFold (fminmax true f) (Nat.log2 (lanes w)) (xs.map (fun y => y.getD (fmtNan f))) →
      n = treeFold (fminmax false f) (Nat.log2 (lanes w)) (xs.map (fun y => y.getD (fmtNan f))) →
      Completes s (.vredf d a e p l) ((s.core.mergeV d (setElem w (s.core.readV d) 0 r.1)).raiseFl r.2) ∧
      Completes s (.vredmx d a e p l) ((s.core.mergeV d (setElem w (s.core.readV d) 0 x.1)).raiseFl x.2) ∧
      Completes s (.vredmn d a e p l) ((s.core.mergeV d (setElem w (s.core.readV d) 0 n.1)).raiseFl n.2))

/-- 05 R113, R119, 02 R46, R47: VCVT and the moves between register files; what each conversion code makes of an element, and
which elements of v[d] a part of a conversion reaches. -/
def Obligations.VectorMoves : Prop :=
  ((∀ (s : State) (d a b : BitVec 5) (l : BitVec 4),
    (∀ (c : BitVec 5) (x : BitVec 2) (p : BitVec 3), s.ready (Plan.multi [vR a, pR p] [vR d] l) = true →
      Completes s (.vcvt d a c x p l) (s.core.convert d a c.toNat x.toNat p)) ∧
    (∀ (x : BitVec 3) (w : Nat), x.toNat < 4 → w = 8 * 2 ^ x.toNat →
      (s.ready (Plan.multi [sR a] [vR d] l) = true → Completes s (.vmvsv d a x l) (s.core.writeV d (vtab w (fun _ => (s.core.readS a).toNat % 2 ^ w)))) ∧
      (s.ready (Plan.multi [vR a, sR b] [sR d] l) = true →
        Completes s (.vmvvs d a b x l) (s.core.writeS d (BitVec.ofNat 64 (elem w (s.core.readV a) ((s.core.readS b).toNat % lanes w)))))) ∧
    ∀ (q : BitVec 3) (n : BitVec 3),
      (s.ready (Plan.multi [vR a] [pR q] l) = true → Completes s (.vpld q a n l) (s.core.writeP q ((s.core.readV a).extractLsb' (256 * n.toNat) 256))) ∧
      (s.ready (Plan.multi [pR q] [vR d] l) = true →
        Completes s (.vpst d q n l) (s.core.mergeV d (setElem 256 (s.core.readV d) n.toNat (s.core.readP q).toNat)))) ∧
  (∀ (d a b : BitVec 5) (w p n : BitVec 3) (l : BitVec 4),
    encode (.vmvsv d a w l) = some (0x35#6 ++ d ++ a ++ 0#5 ++ 0#4 ++ w ++ l) ∧ encode (.vmvvs d a b w l) = some (0x35#6 ++ d ++ a ++ b ++ 1#4 ++ w ++ l) ∧
    encode (.vpld p a n l) = some (0x35#6 ++ 0#2 ++ p ++ a ++ 0#2 ++ n ++ 2#4 ++ 0#3 ++ l) ∧
    encode (.vpst d p n l) = some (0x35#6 ++ d ++ 0#2 ++ p ++ 0#2 ++ n ++ 3#4 ++ 0#3 ++ l)) ∧
  ∀ (d a b : BitVec 5) (f : BitVec 4) (w : BitVec 3) (l : BitVec 4),
    (f = 0 ∧ b ≠ 0) ∨ (f.toNat < 2 ∧ 3 < w.toNat) ∨ (f = 2 ∧ ¬(d.toNat < 8 ∧ b.toNat < 8 ∧ w = 0)) ∨ (f = 3 ∧ ¬(a.toNat < 8 ∧ b.toNat < 8 ∧ w = 0)) →
    ∃ r, decode (0x35#6 ++ d ++ a ++ b ++ f ++ w ++ l) = .error r) ∧
  ∀ (x : Core) (d a : BitVec 5) (p : BitVec 3) (part k : Nat), ∀ r ∈ conversions, ∀ (ws wd n : Nat) (f : BitVec 2 → Nat → FRes), r = (n, ws, wd, f) →
    k < 2048 / wd → part < max ws wd / min ws wd → ∀ (y : Core) (q : PWord) (reached : Prop) (from' : Nat), y = x.convert d a n part p → q = x.readP p →
    (reached ↔ ws ≤ wd ∨ (part * (2048 / ws) ≤ k ∧ k < (part + 1) * (2048 / ws))) →
    from' = (if ws ≤ wd then part * (2048 / wd) + k else k - part * (2048 / ws)) →
    (reached → q.getLsbD (k * wd / 8) = true → elem wd (y.readV d) k = (f x.regs.frm (elem ws (x.readV a) from')).1 % 2 ^ wd ∧
      (f x.regs.frm (elem ws (x.readV a) from')).2 &&& ~~~y.regs.fflags = 0) ∧
    (¬(reached ∧ q.getLsbD (k * wd / 8) = true) → elem wd (y.readV d) k = elem wd (x.readV d) k)

/-- 05 R117, R118: block exponents and mantissas, and the scaled accumulations.
Readings of the model enter it: log entry 6. -/
def Obligations.BlockFloat : Prop :=
  ∀ (s : State) (d a b : BitVec 5) (l : BitVec 4) (f : BitVec 3) (g : Fmt) (vs : List FVal), f.toNat < 3 →
    g = (if f.toNat = 0 then fmtF32 else if f.toNat = 1 then fmtBF16 else fmtF16) →
    vs = (List.range (lanes (fmtWidth g))).map (fun k => funpack g (elem (fmtWidth g) (s.core.readV a) k)) →
    (s.ready (Plan.multi [vR a, vR d] [vR d] l) = true → ∀ old : Int, old = sxt 32 (elem 32 (s.core.readV d) 0) →
      (anyNonFinite vs = true →
        Completes s (.vbfpx d a f l) ((s.core.mergeV d (setElem 32 (s.core.readV d) 0 (2 ^ 32 - 128))).raiseFl flNV)) ∧
      (anyNonFinite vs = false → ∀ r : Int,
        r = (if old = -128 then -128 else if (maxLog2 vs).isNone then old else max old (bfpExponent vs)) →
        Completes s (.vbfpx d a f l) ((s.core.mergeV d (setElem 32 (s.core.readV d) 0 (r % 2 ^ 32).toNat)).raiseFl 0))) ∧
    (s.ready (Plan.multi [vR a, vR b] [vR d] l) = true → ∀ e : Int, e = sxt 8 (elem 8 (s.core.readV b) 0) →
      ∃ x : VWord, Completes s (.vbfpn d a b f l)
        ((s.core.mergeV d x).raiseFl (if e = -128 then 0 else vs.foldl (fun r v => r ||| (bfpMantissa e v).2) 0)) ∧
        (∀ k, vs.length ≤ k → k < 256 → elem 8 x k = elem 8 (s.core.readV d) k) ∧
        ∀ k v, vs[k]? = some v → elem 8 x k = if e = -128 then 0 else ((bfpMantissa e v).1 % 256).toNat) ∧
    ∀ p : BitVec 3, s.ready (Plan.multi [vR a, vR b, vR d, pR p] [vR d] l) = true →
      Completes s (.vscacc d a b p l) (s.core.putV d p 32 (fun k =>
        let A := elem 32 (s.core.readV a) k
        let m := sxt 16 A
        let E := sxt 8 (A / 2 ^ 16 % 2 ^ 8)
        if E = -128 then (fmtNan fmtF32, flNV)
        else valFma fmtF32 s.core.regs.frm (.fin (decide (m < 0)) m.natAbs E) (funpack fmtF32 (elem 32 (s.core.readV b) k))
          (funpack fmtF32 (elem 32 (s.core.readV d) k)))) ∧
      Completes s (.vzpc d a b p l) (s.core.putV d p 32 (fun k =>
        let m := sxt 32 (elem 32 (s.core.readV a) k)
        valFma fmtF32 s.core.regs.frm (.fin (!decide (m < 0)) m.natAbs 0) (funpack fmtF32 (elem 32 (s.core.readV b) k))
          (funpack fmtF32 (elem 32 (s.core.readV d) k))))

/-- 05 R120, R121: the checksum accumulators, of whole numbers and of floating-point data added as binary64 in rising order; a
check that does not fail changes nothing but, for CKCHKF, the flags; one that fails, with no older instruction pending, raises CHECK_FAIL
with the accumulator once it has ended. -/
def Obligations.Checksums : Prop :=
  ∀ (s : State) (k : BitVec 2) (a b : BitVec 5) (l : BitVec 4) (K A B : Word), K = s.core.readK k → A = s.core.readS a → B = s.core.readS b →
    (s.ready (Plan.simple [] [kR k]) = true → Completes s (.ckclr k) (s.core.writeK k 0)) ∧
    (s.ready (Plan.simple [kR k] [sR a]) = true → Completes s (.ckrd a k) (s.core.writeS a K)) ∧
    (s.ready (Plan.multi [sR a, kR k] [kR k] l) = true →
      Completes s (.ckacc k a l) (s.core.writeK k (K + A)) ∧ Completes s (.ckaccx k a l) (s.core.writeK k (K.rotateLeft 1 ^^^ A)) ∧
      ∀ r : FRes, r = fadd fmtF64 0 K.toNat A.toNat → Completes s (.ckaccf k a l) ((s.core.writeK k (BitVec.ofNat 64 r.1)).raiseFl r.2)) ∧
    (∀ (e : BitVec 5) (w : Nat), e.toNat < 3 → w = widthE e.toNat → s.ready (Plan.multi [vR a, kR k] [kR k] l) = true →
      Completes s (.ckaccv k a e l)
        (s.core.writeK k (BitVec.ofInt 64 (K.toNat + ((List.range (lanes w)).map (fun j => sxt w (elem w (s.core.readV a) j))).sum)))) ∧
    (s.ready (Plan.multi [kR k, sR a, sR b] [] l) = true →
      ((K.toInt - A.toInt).natAbs ≤ B.toNat → Completes s (.ckchk k a b l) s.core) ∧
      ((ckFailsF K A B).1 = false → Completes s (.ckchkf k a b l) (s.core.raiseFl (ckFailsF K A B).2)) ∧
      (B.toNat < (K.toInt - A.toInt).natAbs → s.core.scoreboard = [] → ∃ t u, exec (.ckchk k a b l) s = .next t ∧ u.core.regs = { s.core.regs with pc := nextPc s.core.regs.pc } ∧
        s.quiet u ∧ t = u.raise (dieOf s.cur) { Raise.bare 9 0 with agent := some s.cur, pc := s.core.regs.pc, addr := K }) ∧
      ((ckFailsF K A B).1 = true → s.core.scoreboard = [] → ∃ t u, exec (.ckchkf k a b l) s = .next t ∧
        u.core.regs = { (s.core.raiseFl (ckFailsF K A B).2).regs with pc := nextPc s.core.regs.pc } ∧
        s.quiet u ∧ t = u.raise (dieOf s.cur) { Raise.bare 9 0 with agent := some s.cur, pc := s.core.regs.pc, addr := K })) ∧
    (∀ (e : BitVec 5) (f : Fmt) (w : Nat) (r : Word × FFl), 3 ≤ e.toNat → e.toNat < 6 → f = fmtE e.toNat → w = widthE e.toNat →
      r = ((List.range (lanes w)).map (fun j => fcvt f fmtF64 0 (elem w (s.core.readV a) j))).foldl (fun r y =>
        (BitVec.ofNat 64 (fadd fmtF64 0 r.1.toNat y.1).1, r.2 ||| (fadd fmtF64 0 r.1.toNat y.1).2 ||| y.2)) (K, 0) →
      s.ready (Plan.multi [vR a, kR k] [kR k] l) = true → Completes s (.ckaccv k a e l) ((s.core.writeK k r.1).raiseFl r.2))

/-! ### Memory -/

/-- 07 R157: the scalar loads, of bytes of the own scratchpad that carry no poison, and the scalar stores. -/
def Obligations.ScalarLoadsAndStores : Prop :=
  (LoadsScalar .lb 1 (fun x => BitVec.ofInt 64 (sxt 8 x)) ∧ LoadsScalar .lh 2 (fun x => BitVec.ofInt 64 (sxt 16 x)) ∧
  LoadsScalar .lw 4 (fun x => BitVec.ofInt 64 (sxt 32 x)) ∧ LoadsScalar .ld 8 (BitVec.ofNat 64) ∧ LoadsScalar .lbu 1 (BitVec.ofNat 64) ∧
  LoadsScalar .lhu 2 (BitVec.ofNat 64) ∧ LoadsScalar .lwu 4 (BitVec.ofNat 64)) ∧
  (StoresScalar .sb 1 ∧ StoresScalar .sh 2 ∧ StoresScalar .sw 4 ∧ StoresScalar .sd 8)

/-- 07 R162 to R164: vector loads and stores, strided, gathered and scattered, in the own scratchpad: of VLDS and VGTH an
inactive lane keeps its value, of VSTS and VSCT it stores nothing, and a higher lane's bytes lie over a lower one's. -/
def Obligations.VectorMemory : Prop :=
  ∀ (s : State) (d a b : BitVec 5) (p : BitVec 3) (l : BitVec 4) (off : Nat) (va : Word),
    (∀ o : BitVec 12, va = s.core.readS a + 256 * o.signExtend 64 →
      (s.ready (Plan.memory [sR a] [vR d] l) = true → s.loadable va 256 off →
        Completes s (.vld d a o l) (s.core.writeV d (BitVec.ofNat 2048 (s.scratchValue off 256)))) ∧
      (s.ready (Plan.memory [vR d, sR a] [] l) = true → s.unburdened → s.ownScratch va 256 off → s.fits [(off, 256)] →
        Stores s (.vst d a o l) s.core (s.scratchBytes off 256 (s.core.readV d).toNat))) ∧
    (∀ (x : BitVec 3) (n : Nat), x.toNat < 4 → n = 2 ^ x.toNat → va = s.core.readS a → s.ready (Plan.memory [sR a] [vR d] l) = true →
      s.loadable va n off → Completes s (.vldb d a x l) (s.core.writeV d (vtab (8 * n) (fun _ => s.scratchValue off n)))) ∧
    ∀ (at' : Nat → Word) (offs : Nat → Nat) (on : List Nat), on = (List.range 64).filter (active (s.core.readP p) 32) →
      ((∀ k ∈ on, s.loadable (at' k) 4 (offs k)) → s.atEase →
        ∃ x : VWord, (∀ k < 64, elem 32 x k = if k ∈ on then s.scratchValue (offs k) 4 else elem 32 (s.core.readV d) k) ∧
          ((∀ k, at' k = s.core.readS a + BitVec.ofNat 64 k * s.core.readS b) → s.ready (Plan.memory [sR a, sR b, pR p] [vR d] l) = true →
            Completes s (.vlds d a b p l) (if on.length = 64 then s.core.writeV d x else s.core.mergeV d x)) ∧
          ((∀ k, at' k = s.core.readS a + BitVec.ofNat 64 (elem 32 (s.core.readV b) k)) → s.ready (Plan.memory [sR a, vR b, pR p] [vR d] l) = true →
            Completes s (.vgth d a b p l) (if on.length = 64 then s.core.writeV d x else s.core.mergeV d x))) ∧
      ((∀ k ∈ on, s.ownScratch (at' k) 4 (offs k)) → s.unburdened → s.fits (on.map (fun k => (offs k, 4))) → ∀ bytes : List (Nat × Byte),
        bytes = on.flatMap (fun k => s.scratchBytes (offs k) 4 (elem 32 (s.core.readV d) k)) →
        ((∀ k, at' k = s.core.readS a + BitVec.ofNat 64 k * s.core.readS b) → s.ready (Plan.memory [vR d, sR a, sR b, pR p] [] l) = true →
          Stores s (.vsts d a b p l) s.core bytes) ∧
        ((∀ k, at' k = s.core.readS a + BitVec.ofNat 64 (elem 32 (s.core.readV b) k)) → s.ready (Plan.memory [vR d, sR a, vR b, pR p] [] l) = true →
          Stores s (.vsct d a b p l) s.core bytes))

/-- 05 R114 to R116: quantising stores write the codes of the 128 elements of a register pair at s[d] and the groups'
parameters at s[b], and raise the flags; dequantising loads read codes at s[a] and parameters at s[b] and write the pair. VQGRP and
VDQGRP are asymmetric, VQMX and VDQMX block-scaled. 02 R32 to R38: the scale, the codes and the flags of a block in exact arithmetic,
the value a code reads back as, a group with a NaN or an infinity, and where codes and parameters lie. -/
def Obligations.QuantisedGroups : Prop :=
  (∀ (s : State) (r a b : BitVec 5) (q : BitVec 4) (t : BitVec 3) (l : BitVec 4) (oc op : Nat),
    (s.ready (Plan.memory [sR r, vR (pairLo q), vR (pairHi q), sR b] [] l) = true → s.unburdened → ∀ (codes params : List Byte) (fl : FFl),
      ((codes, params, fl) = asymPack t.toNat (s.core.readPair q) → s.quantStore r b oc op (16 * asymBits t.toNat) (4 * asymGroups t.toNat) →
        Stores s (.vqgrp r q b t l) (s.core.raiseFl fl)
          (s.scratchBytes oc (16 * asymBits t.toNat) (ofBytes codes) ++ s.scratchBytes op (4 * asymGroups t.toNat) (ofBytes params))) ∧
      ((codes, params, fl) = mxPack t.toNat (s.core.readPair q) → s.quantStore r b oc op (16 * mxBits t.toNat) 4 →
        Stores s (.vqmx r q b t l) (s.core.raiseFl fl)
          (s.scratchBytes oc (16 * mxBits t.toNat) (ofBytes codes) ++ s.scratchBytes op 4 (ofBytes params)))) ∧
    (s.ready (Plan.memory [sR a, sR b] [vR (pairLo q), vR (pairHi q)] l) = true → ∀ ys : List FRes,
      (s.quantLoad a b oc op (16 * asymBits t.toNat) (4 * asymGroups t.toNat) →
        ys = asymUnpack t.toNat s.core.regs.frm (s.scratchData oc (16 * asymBits t.toNat)) (s.scratchData op (4 * asymGroups t.toNat)) →
        Completes s (.vdqgrp q a b t l) ((s.core.writePair q (ys.map Prod.fst) false).raiseFl (flagsOf ys))) ∧
      (s.quantLoad a b oc op (16 * mxBits t.toNat) 4 →
        ys = mxUnpackAll t.toNat s.core.regs.frm (s.scratchData oc (16 * mxBits t.toNat)) (s.scratchData op 4) →
        Completes s (.vdqmx q a b t l) ((s.core.writePair q (ys.map Prod.fst) false).raiseFl (flagsOf ys))))) ∧
  (∀ (t : Nat) (xs : List Nat), xs ≠ [] → (∀ x ∈ xs, fmtF32.finite x) →
    (t < 4 → MxQuantises t xs (mxQuant t (xs.map (funpack fmtF32))).1 (mxQuant t (xs.map (funpack fmtF32))).2.1 (mxQuant t (xs.map (funpack fmtF32))).2.2) ∧
    ∀ q, q = 15 ∨ q = 255 → AsymQuantises q xs (asymQuant q xs).1 (asymQuant q xs).2.1 (asymQuant q xs).2.2.1) ∧
  (∀ (t : Nat) (xs : List Nat), (∃ x ∈ xs, (funpack fmtF32 x).isNan = true ∨ ∃ n, funpack fmtF32 x = .inf n) →
    mxQuant t (xs.map (funpack fmtF32)) = (255, xs.map (fun _ => 0), flNV) ∧ ∀ q, asymQuant q xs = (0x7E00, 0, xs.map (fun _ => 0), flNV)) ∧
  (∀ (rm : BitVec 2) (t scale c : Nat), t < 4 → c < 2 ^ mxBits t → mxDequant t fmtF32 rm 255 c = (fmtNan fmtF32, 0) ∧
    (scale < 255 → (t = 2 ∨ t = 3 ∨ (mxFmt t).finite c) → ∀ V : ℝ, V = mxValue t c * (2 : ℝ) ^ ((scale : ℤ) - 127) →
      (V ≠ 0 → fmtF32.Rounds rm V (mxDequant t fmtF32 rm scale c)) ∧ (V = 0 → (mxDequant t fmtF32 rm scale c).1 % 2 ^ 31 = 0 ∧ (mxDequant t fmtF32 rm scale c).2 = 0))) ∧
  (∀ (rm : BitVec 2) (s z q : Nat), fmtF16.finite s → ∀ V : ℝ, V = fmtF16.value s * ((q : ℝ) - z) →
    (V ≠ 0 → fmtF32.Rounds rm V (asymDequant fmtF32 rm s z q)) ∧ (V = 0 → (asymDequant fmtF32 rm s z q).1 % 2 ^ 31 = 0 ∧ (asymDequant fmtF32 rm s z q).2 = 0)) ∧
  ∀ (t : Nat) (xs : List Nat), xs.length = 128 →
    (t < 4 → ∀ (codes params : List Byte) (fl : FFl) (g k : Nat), (codes, params, fl) = mxPack t xs → g < 4 → k < 32 →
      ∀ b, b = mxQuant t (((xs.drop (32 * g)).take 32).map (funpack fmtF32)) → codes.length = 16 * mxBits t ∧ params.length = 4 ∧
        ofBytes codes / 2 ^ (mxBits t * (32 * g + k)) % 2 ^ mxBits t = nth 0 b.2.1 k ∧ ofBytes params / 2 ^ (8 * g) % 2 ^ 8 = b.1 ∧ b.2.2 &&& ~~~fl = 0) ∧
    (t < 6 → ∀ (codes params : List Byte) (fl : FFl) (n w g k : Nat), (codes, params, fl) = asymPack t xs → n = 32 * 2 ^ (t % 3) → w = (if t < 3 then 8 else 4) →
      g < 128 / n → k < n → ∀ b, b = asymQuant (2 ^ w - 1) ((xs.drop (n * g)).take n) → codes.length = 16 * w ∧ params.length = 4 * (128 / n) ∧
        ofBytes codes / 2 ^ (w * (n * g + k)) % 2 ^ w = nth 0 b.2.2.1 k ∧ ofBytes params / 2 ^ (32 * g) % 2 ^ 32 = b.1 + b.2.1 * 65536 ∧ b.2.2.2 &&& ~~~fl = 0)

/-- 07 R143, R157: a load or a store whose bytes meet no row takes an access fault with its address, and has no effect. 13 R273
to R275: where a walk leads by the PTE at which it ends; 13 R277: an entry of a TLB stands for it; 13 R274, R281: what a leaf permits and
where it leads, in this package and through the stripe table; 13 R272: the heap's one add; 13 R283: a byte of a view. A load of an absent
page, and a store to one without W, begin the core's fault at that address.
Readings of the model enter it: log entries 106, 117, 121 and 133. -/
def Obligations.AccessFaults : Prop :=
  (∀ (s : State) (d a : BitVec 5) (o : BitVec 12) (l : BitVec 4) (n : Nat) (va : Word), s.faultable →
    va = s.core.readS a + BitVec.ofNat 64 n * o.signExtend 64 → s.nowhere va n →
    (s.ready (Plan.memory [sR a] [sR d] l) = true → ∀ i, i ∈ [(1, Instr.lb d a o l), (2, .lh d a o l), (4, .lw d a o l), (8, .ld d a o l),
      (1, .lbu d a o l), (2, .lhu d a o l), (4, .lwu d a o l)] → i.1 = n → exec i.2 s = .next (s.takeFault s.cur (.access va))) ∧
    (s.ready (Plan.memory [sR d, sR a] [] l) = true → ∀ i, i ∈ [(1, Instr.sb d a o l), (2, .sh d a o l), (4, .sw d a o l), (8, .sd d a o l)] →
      i.1 = n → exec i.2 s = .next (s.takeFault s.cur (.access va))) ∧
    (n = 256 → s.ready (Plan.memory [sR a] [vR d] l) = true → exec (.vld d a o l) s = .next (s.takeFault s.cur (.access va))) ∧
    (n = 256 → s.ready (Plan.memory [vR d, sR a] [] l) = true → exec (.vst d a o l) s = .next (s.takeFault s.cur (.access va)))) ∧
  (∀ (s : State) (asid : BitVec 9) (va p : Word) (root k key : Nat), k < 4 → root % 4096 = 0 → p = s.homeWord (s.pteAddr va root k) →
    key = asid.toNat * 2 ^ 36 + va.toNat / 2 ^ 12 % 2 ^ 36 →
    (s.Reaches va root k →
      (p.getLsbD 0 = false → s.walk asid va 4 root = .error (.translation va 0 key)) ∧
      (p.getLsbD 0 = true → Malformed p (3 - k) → s.walk asid va 4 root = .error (.access va)) ∧
      (p.getLsbD 0 = true → p.getLsbD 1 = true → ¬Malformed p (3 - k) →
        (p.toNat / 2 ^ 9 % 4 = 2 → s.walk asid va 4 root = .error (.translation va 0 key)) ∧
        (p.toNat / 2 ^ 9 % 4 = 3 → s.walk asid va 4 root = .error (.translation va 3 key)) ∧
        (p.toNat / 2 ^ 9 % 4 < 2 → ∃ h, s.walk asid va 4 root = .ok (h, s.pteAddr va root k) ∧ h.leaf = p ∧ h.level = 3 - k))) ∧
    ((k = 0 ∨ (s.Reaches va root (k - 1) ∧ (s.homeWord (s.pteAddr va root (k - 1))).toNat % 2 ^ 12 = 1 ∧
        (s.homeWord (s.pteAddr va root (k - 1))).toNat / 2 ^ 52 = 0)) →
      s.tableOk (s.pteAddr va root k / 4096 * 4096) = false → s.walk asid va 4 root = .error (.access va))) ∧
  (∀ (s : State) (die : Nat) (own : Option Nat) (ctx : Ctx) (va : Word) (vpn : Nat), vpn = va.toNat / 2 ^ 12 % 2 ^ 36 →
    (∀ a e, own = some a → tlbFind (s.coreAt a).tlb ctx.asid vpn = some e → e.inMotion = false → ∃ h, s.leafFor die own ctx va = .ok h ∧
      h.level = e.size / 2 ∧ h.leaf = e.leaf + BitVec.ofNat 64 ((vpn - e.vpn) / 512 ^ (e.size / 2) * 512 ^ (e.size / 2) * 4096)) ∧
    ((∀ a, own = some a → tlbFind (s.coreAt a).tlb ctx.asid vpn = none) → tlbFind (s.dieAt die).l2tlb ctx.asid vpn = none →
      (∀ f, s.walk ctx.asid va 4 ctx.root = .error f → s.leafFor die own ctx va = .error f) ∧
      ∀ h pte, s.walk ctx.asid va 4 ctx.root = .ok (h, pte) → ∃ h', s.leafFor die own ctx va = .ok h' ∧ h'.leaf = h.leaf ∧ h'.level = h.level)) ∧
  (∀ (s : State) (die : Nat) (own : Option Nat) (ctx : Ctx) (kind : Kind) (va : Word) (h : Hit) (key pa : Nat), s.leafFor die own ctx va = .ok h →
    key = ctx.asid.toNat * 2 ^ 36 + va.toNat / 2 ^ 12 % 2 ^ 36 → pa = h.leaf.toNat / 2 ^ 12 % 2 ^ 40 * 4096 + va.toNat % 2 ^ (12 + 9 * h.level) →
    (kind = .store ∨ kind = .atomic → h.leaf.getLsbD 2 = false → s.xlatePage die own ctx kind va = .error (.translation va 1 key)) ∧
    (kind = .fetch → h.leaf.getLsbD 3 = false → s.xlatePage die own ctx kind va = .error (.translation va 2 key)) ∧
    ((kind = .store ∨ kind = .atomic → h.leaf.getLsbD 2 = true) → (kind = .fetch → h.leaf.getLsbD 3 = true) →
      (h.leaf.toNat / 2 ^ 7 % 4 ≠ 3 → isMmio pa = false →
        (s.reachable pa = false → s.xlatePage die own ctx kind va = .error (.access va)) ∧
        (s.reachable pa = true → ∃ at', s.xlatePage die own ctx kind va = .ok (pa, at', h) ∧ at'.hot = h.leaf.getLsbD 11 ∧
          at'.cache = (if h.leaf.toNat / 2 ^ 5 % 4 = 0 then .wb else if h.leaf.toNat / 2 ^ 5 % 4 = 1 then .wt else .uc))) ∧
      (h.leaf.toNat / 2 ^ 7 % 4 = 3 → ∀ (e : Vector Word 8) (n g vbase pkg rpa : Nat), e = tget (Vector.replicate 8 0) (s.dieAt die).stripes (h.leaf.toNat / 2 ^ 12 % 256) →
        n = e[0].toNat % 16 + 1 → vbase = e[1].toNat / 2 ^ 12 % 2 ^ 36 * 4096 → g = (va.toNat % 2 ^ 48 - vbase) / 4096 →
        pkg = (e[3].toNat + e[4].toNat * 2 ^ 64 + e[5].toNat * 2 ^ 128) / 2 ^ (10 * ((g + e[0].toNat / 16 % 16) % n)) % 1024 →
        rpa = e[2].toNat / 2 ^ 12 % 2 ^ 40 * 4096 + g / n * 4096 + va.toNat % 4096 →
        (e[0].getLsbD 63 = false ∨ va.toNat % 2 ^ 48 < vbase → s.xlatePage die own ctx kind va = .error (.access va)) ∧
        (e[0].getLsbD 63 = true → vbase ≤ va.toNat % 2 ^ 48 →
          (pkg = s.pkg.pkgId.toNat → s.reachable rpa = true → ∃ at', s.xlatePage die own ctx kind va = .ok (rpa, at', h)) ∧
          (pkg ≠ s.pkg.pkgId.toNat → ∃ at', s.xlatePage die own ctx kind va = .ok (peerAddr pkg (rpa % 2 ^ 52), at', h) ∧ at'.cache = .peer))))) ∧
  (∀ (s : State) (die agent va : Nat) (own : Option Nat) (ctx : Ctx) (kind : Kind) (pa : Int), pa = va + ctx.heapo.toInt →
    (pa < 0 ∨ 2 ^ 52 ≤ pa → s.xlateByte die own agent ctx kind .heap va = .error (.access (BitVec.ofNat 64 va))) ∧
    (0 ≤ pa → pa < 2 ^ 52 → isMmio pa.toNat = false →
      (s.reachable pa.toNat = false → s.xlateByte die own agent ctx kind .heap va = .error (.access (BitVec.ofNat 64 va))) ∧
      (s.reachable pa.toNat = true → ∃ x, s.xlateByte die own agent ctx kind .heap va = .ok x ∧ x.addr = pa.toNat ∧ x.attr.cache = .wb ∧ x.attr.hot = false ∧ x.leaf = none))) ∧
  (∀ (s : State) (die agent va o : Nat) (own : Option Nat) (ctx : Ctx) (kind : Kind) (e : Vector Word 4) (block : Word),
    o = va - vwBase e → block = BitVec.ofNat 64 (vwCanon e + 4096 * (o / 4096)) →
    (vwMalformed e = true → s.xlateByte die own agent ctx kind (.view e) va = .error (.access (BitVec.ofNat 64 va))) ∧
    (vwMalformed e = false → (∀ f, s.xlatePage die own ctx kind block = .error f → s.xlateByte die own agent ctx kind (.view e) va = .error f) ∧
      ∀ pa at' h, s.xlatePage die own ctx kind block = .ok (pa, at', h) →
        ((at'.cache = .wb ∨ at'.cache = .wt) → h.leaf.toNat / 2 ^ 7 % 4 ≠ 3 → ∃ x, s.xlateByte die own agent ctx kind (.view e) va = .ok x ∧
          x.addr = pa + viewOffset (vwLayout e) (2 ^ vwEsz e) (o % 4096) ∧ x.attr.cache = at'.cache) ∧
        ((at'.cache ≠ .wb ∧ at'.cache ≠ .wt) ∨ h.leaf.toNat / 2 ^ 7 % 4 = 3 → s.xlateByte die own agent ctx kind (.view e) va = .error (.viewBlock block)))) ∧
  ∀ (s : State) (d a : BitVec 5) (o : BitVec 12) (l : BitVec 4) (va p : Word) (root k : Nat), s.faultable → s.core.chunk = none → s.core.closed = [] → s.cur < 512 → s.core.views = some [] →
    va = s.core.readS a + 8 * o.signExtend 64 → va.toNat % 8 = 0 → va.toNat < 2 ^ 47 → within va.toNat s.core.ctx.heapb.toNat s.core.ctx.heapl.toNat = false →
    tlbFind s.core.tlb s.core.ctx.asid (va.toNat / 4096) = none → tlbFind (s.dieAt (dieOf s.cur)).l2tlb s.core.ctx.asid (va.toNat / 4096) = none →
    root = s.core.ctx.root → k < 4 → s.Reaches va root k → p = s.homeWord (s.pteAddr va root k) →
    (p.getLsbD 0 = false → s.ready (Plan.memory [sR a] [sR d] l) = true →
      ∃ t, exec (.ld d a o l) s = .next t ∧ t.core.status = .faulted va 0 ∧ t.core.regs = s.core.regs) ∧
    (p.getLsbD 0 = true → p.getLsbD 1 = true → ¬Malformed p (3 - k) → p.toNat / 2 ^ 9 % 4 < 2 → p.getLsbD 2 = false → s.ready (Plan.memory [sR d, sR a] [] l) = true →
      ∃ t, exec (.sd d a o l) s = .next t ∧ t.core.status = .faulted va 1 ∧ t.core.regs = s.core.regs)

/-- 07 R156: a scalar load that reads a poisoned byte writes 0 and sets the poison bit of s[d]; a vector load writes the bytes with 0
in place of every poisoned one, and sets the poison bit of v[d]. -/
def Obligations.PoisonedLoads : Prop :=
  ∀ (s : State) (d a : BitVec 5) (o : BitVec 12) (l : BitVec 4) (n off k : Nat), s.ownScratch (s.core.readS a + BitVec.ofNat 64 n * o.signExtend 64) n off →
    s.atEase → k < n → s.ownPoison s.cur (sramBase s.cur + off + k) .sram = true →
    (s.ready (Plan.memory [sR a] [sR d] l) = true → ∀ i, i ∈ [(1, Instr.lb d a o l), (2, .lh d a o l), (4, .lw d a o l), (8, .ld d a o l),
      (1, .lbu d a o l), (2, .lhu d a o l), (4, .lwu d a o l)] → i.1 = n →
      Completes s i.2 (s.core.poisonS d 0)) ∧
    (n = 256 → s.ready (Plan.memory [sR a] [vR d] l) = true → ∃ x : VWord, Completes s (.vld d a o l) (s.core.poisonV d x) ∧
      ∀ j < 256, elem 8 x j = if s.ownPoison s.cur (sramBase s.cur + off + j) .sram then 0
        else (s.ownByte s.cur (sramBase s.cur + off + j) .sram).toNat)

/-! ### Full/empty bits and atomics -/

/-- 07 R159 to R161, R412: LDS and the full/empty group on a word of the own scratchpad; LDS, LDSE and STF that must wait leave an
entry that is pending until they may go. Readings of the model enter it: log entries 16 and 17. -/
def Obligations.FullEmpty : Prop :=
  ∀ (s : State) (d a b : BitVec 5) (l : BitVec 4) (w : Nat),
    (∀ o : BitVec 12, s.ready { Plan.memory [sR a] [sR d] l with cls := .first, ahead := .ends } = true →
      s.ownWord (s.core.readS a + 8 * o.signExtend 64) 8 w → s.commits = [] →
      (s.full.contains w = true → Completes s (.lds d a o l) (s.core.writeS d (BitVec.ofNat 64 (ofBytes (tab (fun x => s.ownByte s.cur x .sram) w 8))))) ∧
      (s.full.contains w = false → Pends s (.lds d a o l) [sR d] (.ldsFull w))) ∧
    (s.ownWord (s.core.readS a) 8 w →
      (s.ready (Plan.memory [sR a] [sR d] l) = true → s.commits = [] →
        ∃ x : Word, (∀ k < 64, x.getLsbD k = (decide (k < 16) && s.full.contains (w / 128 * 128 + 8 * k))) ∧ Completes s (.feq d a l) (s.core.writeS d x)) ∧
      (s.still →
        (s.ready (alonePlan [sR a] [] l) = true →
          Performs s (.feset a l) s.core s.mem (ninsert s.full w) ∧ Performs s (.feclr a l) s.core s.mem (nerase s.full w)) ∧
        (s.unawaited w → s.core.status = .running → s.ready (alonePlan [sR a] [sR d] l) = true →
          (s.full.contains w = true →
            Performs s (.ldse d a l) (s.core.writeS d (BitVec.ofNat 64 (ofBytes (tab (memGet s.mem) w 8)))) s.mem (nerase s.full w)) ∧
          (s.full.contains w = false → Pends s (.ldse d a l) [sR d] (.feFull w))) ∧
        (s.unawaited w → s.core.status = .running → s.ready (alonePlan [sR a, sR b] [] l) = true →
          (s.full.contains w = false → Performs s (.stf a b l) s.core (memPut s.mem w (toBytes 8 (s.core.readS b).toNat)) (ninsert s.full w)) ∧
          (s.full.contains w = true → Pends s (.stf a b l) [] (.feEmpty w (s.core.readS b))))))

/-- 09 R189, R190: what an atomic on a clean word of the own scratchpad comes to when it is performed at once: the returning
read-modify-write members, of 64 and of 32 bits. 09 R191 to R193: the compare-and-swap family, the binary64 add, and the reductions,
which write no register, with the descriptor 0. R194, R195: the reductions with any other descriptor that is accepted. R197, R198: a
poisoned word is not written and nothing is delivered, and the core freezes with the access pending; an atomic on another package's
memory, or one that a switch performs, leaves as a request and stays pending, but a reduction in the window ends.
Readings of the model enter it: log entries 8, 18 and 49. -/
def Obligations.Atomics : Prop :=
  (AtomicSize 8 .amoswap .amoadd .amoand .amoor .amoxor .amomin .amomax .amominu .amomaxu (BitVec.ofNat 64) (BitVec.ofNat 64) ∧
  AtomicSize 4 .amoswapI32 .amoaddI32 .amoandI32 .amoorI32 .amoxorI32 .amominI32 .amomaxI32 .amominuI32 .amomaxuI32
    (fun x => BitVec.ofInt 64 (sxt 32 x)) (BitVec.ofNat 64)) ∧
  (Atomic .cas true true 8 (fun x b e => (if x = e then some b else none, 0)) (BitVec.ofNat 64) ∧
  Atomic .casgt true true 8 (fun x b e => (if sxt 64 e < sxt 64 x then some b else none, 0)) (BitVec.ofNat 64) ∧
  Atomic .casver true true 8 (fun x b e => (if x = e then some ((x / 2 ^ 48 + 1) % 2 ^ 16 * 2 ^ 48 + b % 2 ^ 48) else none, 0)) (BitVec.ofNat 64) ∧
  Atomic .castag true true 8 (fun x b e => (if x / 2 ^ 56 = e / 2 ^ 56 then some b else none, 0)) (BitVec.ofNat 64) ∧
  Atomic .amofadd false true 8 (fun x b _ => (some (fadd fmtF64 0 x b).1, (fadd fmtF64 0 x b).2)) (BitVec.ofNat 64) ∧
  Atomic .redadd true false 8 (fun x b _ => (some ((x + b) % 2 ^ 64), 0)) 0 ∧ Atomic .redmin true false 8 (fun x b _ => (some (smin 64 x b), 0)) 0 ∧
  Atomic .redmax true false 8 (fun x b _ => (some (smax 64 x b), 0)) 0 ∧ Atomic .redor true false 8 (fun x b _ => (some (x ||| b), 0)) 0 ∧
  Atomic .redfadd true false 8 (fun x b _ => (some (fadd fmtF64 0 x b).1, 0)) 0) ∧
  Redirects .redadd (fun x b => (x + b) % 2 ^ 64) ∧ Redirects .redmin (smin 64) ∧ Redirects .redmax (smax 64) ∧
  Redirects .redor (fun x b => x ||| b) ∧ Redirects .redfadd (fun x b => (fadd fmtF64 0 x b).1) ∧
  AtomicsElsewhere

/-! ### System instructions -/

/-- 06 R138, R139: CSRR reads a register that is not kept from the core; CSRW, CSRS and CSRC write it, with what their rule gives
as the value and as the bits that clear a write-one-to-clear field, and read it; FRM and FFLAGS are read and written within the chunk.
Readings of the model enter it: log entries 32, 39, 41 and 120. -/
def Obligations.ControlRegisters : Prop :=
  ∀ (s : State) (d a : BitVec 5) (c : BitVec 12) (n : Nat) (x old : Word), n = c.toNat → x = s.core.readS a →
    (csrFault s.cur n false s.ir = none → (csrClassC n = false ∨ s.core.scoreboard = []) → s.ready (Plan.simple [] [sR d]) = true →
      Completes s (.csrr d c) (s.core.writeS d (s.csr s.cur n))) ∧
    (csrFault s.cur n true s.ir = none → csrClassC n = false → s.closing [sR a] [sR d] → old = s.between.csr s.cur n →
      Ends s (.csrw d a c) ((s.between.setCsr s.cur n x x).me (fun k => k.writeS d old)) ∧
      Ends s (.csrs d a c) ((s.between.setCsr s.cur n (old ||| x) x).me (fun k => k.writeS d old)) ∧
      Ends s (.csrc d a c) ((s.between.setCsr s.cur n (old &&& ~~~x) 0).me (fun k => k.writeS d old))) ∧
    (s.core.scoreboard = [] → s.ready (Plan.simple [sR a] [sR d]) = true →
      (c = 1 → old = s.core.regs.frm.zeroExtend 64 → ∀ put : Word → Core, put = (fun v => (s.core.mapRegs (fun r => { r with frm := v.truncate 2 })).writeS d old) →
        Completes s (.csrw d a c) (put x) ∧ Completes s (.csrs d a c) (put (old ||| x)) ∧ Completes s (.csrc d a c) (put (old &&& ~~~x))) ∧
      (c = 2 → old = s.core.regs.fflags.zeroExtend 64 → ∀ put : Word → Core, put = (fun v => (s.core.mapRegs (fun r => { r with fflags := v.truncate 5 })).writeS d old) →
        Completes s (.csrw d a c) (put x) ∧ Completes s (.csrs d a c) (put (old ||| x)) ∧ Completes s (.csrc d a c) (put (old &&& ~~~x))))

/-- 06 R128 to R141, 07 R151, 13 R271, 15 R326, 16 R360 and the registers' own rules: what a register reads after it is
written, by the place of its writable fields; no other of the plain registers changes. A field that a value outside its range leaves
keeps what it held.
Readings of the model enter it: log entries 32 and 38. -/
def Obligations.ControlRegisterFields : Prop :=
  (∀ (s : State) (a : Nat) (v ones : Word) (k : Nat), a < 512 → k < 32 → ∀ fields : List (Nat × Word),
    fields = [(0x001, 0x3), (0x002, 0x1F), (0x100, 0x1FF), (0x101, 0x000FFFFFFFFFF000), (0x103, 0x0000FFFFFFFFF000), (0x104, 0xFFFFFFFFFFFFF000),
      (0x105, 0x000FFFFFFFFFF000), (0x202, 0x7F), (0x205, 0x0000FFFFFFFF0003), (0x207, 0xFFFFFFFF), (0x208 + k % 8, 0x1FFFFFF), (0x211, 0x0000FFFFFFFFFF00),
      (0x212, 0x0000FFFFFFFFFF00), (0x380 + k, 0xFFFFFFFFFFFFFFFF), (0x600, 0xFFFFFFFF), (0x701, 0xFFFF), (0x702, 0xFFFFFF), (0x703, 0xFFFFFFF)] →
    ∀ n m, (n, m) ∈ fields → (s.setCsr a n v ones).csr a n = v &&& m ∧
      ∀ n' m', (n', m') ∈ fields → n' ≠ n → (s.setCsr a n v ones).csr a n' = s.csr a n') ∧
  ∀ (s : State) (a : Nat) (v ones : Word) (k : Nat), a < 512 →
    (s.setCsr a 0x102 v ones).csr a 0x102 = (v.truncate 48).signExtend 64 &&& 0xFFFFFFFFFFFFF000 ∧
    (s.setCsr a 0x200 v ones).csr a 0x200 = (s.csr a 0x200 &&& ~~~7) ||| (v &&& 1) ||| ((if v.toNat / 2 % 4 < 2 then v else s.csr a 0x200) &&& 6) ∧
    (s.setCsr a 0x206 v ones).csr a 0x206 = (if v.toNat / 2 ^ 61 = 4 ∨ v.toNat / 2 ^ 61 = 7 then s.csr a 0x206 else v &&& 0xE000FFFF00FFFFFF) ∧
    (k < 32 → (s.setCsr a (0x3A0 + k) v ones).csr a (0x3A0 + k) = (v &&& 0x100) ||| ((if v.toNat % 256 ≤ 0x13 then v else s.csr a (0x3A0 + k)) &&& 0xFF)) ∧
    (k < 16 → ∀ j < 8, (s.setCsr a (0x400 + k) v ones).csr a (0x400 + k) / 2 ^ 24 = 0 ∧ (s.setCsr a (0x400 + k) v ones).csr a (0x400 + k) / 2 ^ (3 * j) % 8 =
      (if v / 2 ^ (3 * j) % 8 ≤ 4 then v else s.csr a (0x400 + k)) / 2 ^ (3 * j) % 8) ∧
    (s.setCsr a 0x700 v ones).csr a 0x700 = v &&& (s.csr a 0x700 ||| s.csr a 0x700 >>> 16) &&& 0xFFFF

/-- 08 R177 to R179, 09 R198, 10 R208: FENCE, REL and ACQ. At core, quad and forge scope they close the chunk, which keeps its place
among those that wait for their grant; at die scope they also wait for its commit; from pkg scope up a release writes back the core's
dirty bytes, which its home then holds and of which its caches hold none, and marks the next chunk, and an acquire writes them back and
empties its caches; at pod and sys scope a release goes on once the switches, and at sys scope the host port, have answered, when none of
the core's accepted reductions has been lost. They wait while a home takes none of those bytes.
Readings of the model enter it: log entries 8, 24, 58 and 108. -/
def Obligations.Ordering : Prop :=
  (∀ (s : State) (sc : BitVec 3) (i : Instr), sc.toNat < 3 → i ∈ [.fence sc, .rel sc, .acq sc] → s.ready (Plan.closer [] []) = true →
    ∃ t, exec i s = .next t ∧ t.core.regs = { s.core.regs with pc := nextPc s.core.regs.pc } ∧ t.core.wait = none ∧ t.core.chunk = none ∧
      t.core.closed = s.core.closed ++ s.core.chunk.toList ∧ s.quiet t) ∧
  (∀ (s r q : State) (sc : BitVec 3) (z : Nat), z = sc.toNat → z < 7 → s.closing [] [] → r = s.between.relEffect s.cur → q = r.acqEffect s.cur →
    (s.relWaits s.cur z = false → (5 ≤ z → ∀ x ∈ s.atomics, x.lost s.cur = false) →
      (z < 4 → Ends s (.fence sc) s.between ∧ Ends s (.rel sc) s.between) ∧
      (4 ≤ z → r.incomplete s.cur = false → Ends s (.rel sc) r ∧ ∃ t, exec (.rel sc) s = .next t ∧ t.core.nextRelease = true) ∧
      (4 ≤ z → q.incomplete s.cur = false → Ends s (.fence sc) q ∧ ∃ t, exec (.fence sc) s = .next t ∧ t.core.nextRelease = true)) ∧
    (s.relWaits s.cur (min z 5) = false → (z < 4 → Ends s (.acq sc) s.between) ∧
      (4 ≤ z → (s.between.acqEffect s.cur).incomplete s.cur = false → Ends s (.acq sc) (s.between.acqEffect s.cur))) ∧
    (s.relWaits s.cur z = true → Waits s (.rel sc) .switch ∧ Waits s (.fence sc) .switch) ∧
    (s.relWaits s.cur (min z 5) = true → Waits s (.acq sc) .switch)) ∧
  (∀ (s : State) (a z : Nat), (s.relWaits a z = true ↔
    (5 ≤ z ∧ ∃ r ∈ s.atomics, r.agent = a ∧ r.window = true ∧ r.done = none) ∨ (z = 6 ∧ s.pkg.hostOut ≠ [])) ∧
    ((((s.settle a).coreAt a).l1.map CacheLine.line).Nodup → (((s.settle a).coreAt a).l2.map CacheLine.line).Nodup →
      ∀ line x, findLine ((s.relEffect a).coreAt a).l1 line = some x ∨ findLine ((s.relEffect a).coreAt a).l2 line = some x → x.dirty = 0) ∧
    ((s.acqEffect a).coreAt a).l1 = [] ∧ ((s.acqEffect a).coreAt a).l2 = []) ∧
  (∀ (s : State) (a : Nat) (x : CacheLine) (m : BitVec 1024), a < 520 → s.pushes = [] → (s.coreAt a).closed = [] → (s.coreAt a).l1 = [x] → (s.coreAt a).l2 = [] →
    x.dirty ≠ 0 → isView x.line = false → isPeer (x.line * 128) = false → isSram (x.line * 128) = false → s.lostHome x.line = false →
    s.homeHeld x.line = false → s.copyLine x.line = none → s.bypassed (homeOf (lineBase x.line)) = false → m = mergeData (s.homeLine x.line) x.data x.dirty →
    (s.relEffect a).homeLine x.line = m ∧ (s.acqEffect a).homeLine x.line = m ∧
    findLine ((s.relEffect a).coreAt a).l1 x.line = if x.valid = 0 then none else some { x with dirty := 0 }) ∧
  ∀ c : Core, c.chunk = none → ∃ k, c.openChunk.chunk = some k ∧ k.release = c.nextRelease ∧ c.openChunk.nextRelease = false

/-- 03 R66, R67, R68, 08 R169: NOP changes nothing, CHUNKE closes the chunk; ILL and unassigned words are illegal instructions, and
the words of the emulation space are EMUL, each with the instruction word. 15 R336: SVC and HALT end their instruction, and stop the core with a packet of class 0x16 or 0x17 whose PC is the
instruction's own and whose ADDR is the service number or 0; a compute core freezes, or halts, with that class; a supervisor core
parks.
Readings of the model enter it: log entry 24. -/
def Obligations.SystemGroup : Prop :=
  (∀ s : State, (s.ready (Plan.simple [] []) = true → Completes s .nop s.core) ∧ (s.closing [] [] → Ends s .chunke s.between) ∧
    (s.ready (Plan.simple [] []) = true → s.faultable → FaultsWith s .ill (.illegal 0) ∧
      ∀ w, FaultsWith s (.illegalInstruction w) (.illegal w) ∧ FaultsWith s (.emul w) (.emul w))) ∧
  (∀ (s : State) (n : BitVec 12) (pc : Word), s.closing [] [] → pc = s.core.regs.pc →
    EndsThen s (.svc n) s.between (fun t => t.stopWith 0x16 pc (n.zeroExtend 64) false) ∧
    EndsThen s .halt s.between (fun t => t.stopWith 0x17 pc 0 true) ∧
    ∀ (t : State) (cls : Nat) (addr : Word) (halt : Bool), t.cur = s.cur →
      (512 ≤ s.cur → (t.stopWith cls pc addr halt).core.status = .parked) ∧
      (s.cur < 512 → (t.stopWith cls pc addr halt).core.status = if halt then .halted else .frozen (BitVec.ofNat 8 cls)))

/-- Faults found at issue. 03 R66, 15 R335, R336, 13 R278, R287, 07 R153: RESUME, TLBI, FRPLY and HFLUSH are access faults on a compute core.
11 R215: a queue number that is not assigned, or of the other kind, is an illegal instruction. 06 R138, R140: control register
numbers from 0x800 up, and registers of forge scope and 0x200 to 0x2FF on a supervisor core, are access faults; a number the map
does not assign is an illegal instruction; a write on a compute core of a register kept to supervisors is an access fault. -/
def Obligations.FaultsAtIssue : Prop :=
  (∀ (s : State) (d a : BitVec 5) (m : BitVec 2), s.cur < 512 →
    (s.ready (Plan.closer [] [sR d]) = true → FaultsWith s (.resume d a) (.access 0) ∧ FaultsWith s (.hflush d a m) (.access 0)) ∧
    (s.ready (Plan.closer [] []) = true → FaultsWith s (.tlbi a m) (.access 0) ∧ FaultsWith s (.frply a) (.access 0))) ∧
  (∀ (s : State) (q l : BitVec 4) (a b d : BitVec 5),
    (s.ready (Plan.closer [] []) = true → 8 ≤ q.toNat ∨ q.toNat % 2 = 1 ∨ (b ≠ 0 ∧ q ≠ 2 ∧ q ≠ 6) ∨ 512 ≤ s.cur →
      FaultsWith s (.qsend q a b) (.illegal s.ir) ∧ FaultsWith s (.qsendv q a b) (.illegal s.ir)) ∧
    (s.faultable → 8 ≤ q.toNat ∨ q.toNat % 2 = 0 ∨ 512 ≤ s.cur →
      (s.ready (Plan.simple [] []) = true → FaultsWith s (.qpush q a) (.illegal s.ir)) ∧
      (s.ready (Plan.multi [] [sR d] l) = true → FaultsWith s (.qpop d q l) (.illegal s.ir)) ∧
      (s.ready (Plan.multi [] [vR d] l) = true → FaultsWith s (.qpopv d q l) (.illegal s.ir))) ∧
    (s.faultable → 8 ≤ q.toNat ∨ 512 ≤ s.cur →
      (s.ready (Plan.simple [] [sR d]) = true → FaultsWith s (.qstat d q) (.illegal s.ir)) ∧
      (s.ready (Plan.simple [] []) = true → FaultsWith s (.qflush q) (.illegal s.ir)))) ∧
  ∀ (s : State) (d a : BitVec 5) (c : BitVec 12) (f : IFault) (write : Bool),
    ((0x800 ≤ c.toNat ∧ f = .access 0) ∨
      (c.toNat < 0x800 ∧ 512 ≤ s.cur ∧ ((0x200 ≤ c.toNat ∧ c.toNat < 0x300) ∨ c.toNat = 0x421 ∨ (0x320 ≤ c.toNat ∧ c.toNat < 0x343)) ∧ f = .access 0) ∨
      (c.toNat < 0x800 ∧ s.cur < 512 ∧ csrAccess c.toNat = .unassigned ∧ f = .illegal s.ir) ∨
      (s.cur < 512 ∧ c.toNat < 0x800 ∧ csrAccess c.toNat = .rs ∧ write = true ∧ f = .access 0)) →
    (write = false → s.faultable → s.ready (Plan.simple [] [sR d]) = true → FaultsWith s (.csrr d c) f) ∧
    (write = true → s.ready (Plan.closer [] [sR d]) = true → FaultsWith s (.csrw d a c) f ∧ FaultsWith s (.csrs d a c) f ∧ FaultsWith s (.csrc d a c) f)

/-! ### Barriers, events, messages, counters -/

/-- 16 R354, R355: BAR.INIT, BAR.ARR, BAR.WAIT and BAR.ARRW; an arrival is counted, and when the target is reached the count starts
again and the phase moves on. At pkg scope and wider an arrival releases and the end of a wait acquires, once the switches have
answered where the scope asks for it. -/
def Obligations.Barriers : Prop :=
  (∀ (s : State) (n a : BitVec 5) (sc : BitVec 3) (x : Word) (b : Barrier) (p : BitVec 8) (u v : State), s.cur < 512 → b = s.core.bar n →
    u = (if b.scope.toNat < 4 then s.between else s.between.relEffect s.cur) → v = s.between.me (fun c => c.setBar n { c.bar n with arrived := false }) →
    (s.closing [sR a] [] → x = s.core.readS a →
      Ends s (.barInit n a sc) (s.between.me (fun c => c.setBar n
        (if x.getLsbD 20 then { b with target := BitVec.ofNat 20 x.toNat, scope := sc, arr := 0, arrived := false }
          else { b with target := BitVec.ofNat 20 x.toNat, scope := sc } : Barrier).complete))) ∧
    (s.closing [] [] → s.relWaits s.cur b.scope.toNat = false → (4 ≤ b.scope.toNat → u.incomplete s.cur = false) →
      Ends s (.barArr n) { u.me (fun c => c.setBar n { c.bar n with wph := b.phase, arrived := true }) with
        arrivals := u.arrivals ++ [{ issuer := s.cur, bar := n, scope := b.scope, direct := false }] } ∧
      (s.core.wait = none → ∃ t, exec (.barArrw n) s = .next t ∧ t.core.wait = some (.barrier b.phase true) ∧
        t.core.regs = s.core.regs ∧ (t.core.bar n).arrived = true ∧ (t.core.bar n).wph = b.phase ∧
        t.arrivals = s.arrivals ++ [{ issuer := s.cur, bar := n, scope := b.scope, direct := false }])) ∧
    (s.closing [] [] → s.relWaits s.cur b.scope.toNat = true →
      Waits s (.barArr n) .switch ∧ (s.core.wait = none → Waits s (.barArrw n) .switch)) ∧
    (s.closing [] [] → (b.scope = 5 → s.relWaits s.cur 5 = false) → ∀ w : State, w = (if b.scope.toNat < 4 then v else v.acqEffect s.cur) →
      (s.core.wait = none → p = (if b.arrived then b.wph else b.phase) →
        (b.phase ≠ p → Ends s (.barWait n) w) ∧ (b.phase = p → Waits s (.barWait n) (.barrier p false))) ∧
      (s.core.wait = some (.barrier p true) → b.phase ≠ p → Ends s (.barArrw n) w))) ∧
  (∀ b : Barrier, (b.target ≠ 0 → b.arr.toNat < b.target.toNat → b.arrive =
      if b.arr.toNat + 1 = b.target.toNat then { b with arr := 0, phase := b.phase + 1 } else { b with arr := b.arr + 1 }) ∧
    (b.target = 0 → b.arrive = { b with arr := BitVec.ofNat 20 (min (b.arr.toNat + 1) (2 ^ 20 - 1)) }))

/-- 16 R357, R358: events and mutexes of the forge's event unit; a unit of an event that another die sent acquires at pkg scope, and a
signal to another die releases there.
Readings of the model enter it: log entries 40 and 125. -/
def Obligations.Events : Prop :=
  ∀ (s : State) (d a b : BitVec 5) (k f : Nat) (g : Forge), s.cur < 512 → f = forgeOf s.cur → g = s.forgeAt f → g.evWait = [] → s.core.wait = none →
    (s.closing [sR a] [sR d] →
      (k < 16 → (s.core.readS a).toNat % 256 = k → ∀ (u : Bool × List (Nat × Bool)) (v : State), u = takeUnit k g.evFrom →
        v = s.between.mapForge f (fun g => { g.setEv k (g.evAt k - 1) with evFrom := u.2 }) →
        (g.evAt k ≠ 0 → Ends s (.evwait d a) ((if u.1 then v.acqEffect s.cur else v).me (fun c => c.writeS d ((g.evAt k - 1).zeroExtend 64)))) ∧
        (g.evAt k = 0 → ∃ t, exec (.evwait d a) s = .next t ∧ t.core.wait = some .event ∧ t.core.regs = s.core.regs ∧
          (t.forgeAt f).evWait = [(s.cur, BitVec.ofNat 8 k)])) ∧
      (k < 8 → (s.core.readS a).toNat % 256 = 64 + k →
        (g.mxAt k = none → Ends s (.evwait d a) ((s.between.mapForge f (fun g => g.setMx k (some (BitVec.ofNat 3 (slotOf s.cur))))).me (fun c => c.writeS d 0))) ∧
        (g.mxAt k ≠ none → ∃ t, exec (.evwait d a) s = .next t ∧ t.core.wait = some .event ∧ t.core.regs = s.core.regs))) ∧
    (s.closing [sR a, sR b] [] →
      (k < 16 → (s.core.readS a).toNat % 256 = k → ∀ to' : Nat,
        to' = (if (s.core.readS b).getLsbD 6 then (s.core.readS b).toNat % 64 else f) →
        (to' / 16 = dieOf s.cur →
          Ends s (.evsig a b) { s.between with signals := s.signals ++ [{ forge := to', ev := BitVec.ofNat 4 k, sender := s.cur, remote := false }] }) ∧
        (to' / 16 ≠ dieOf s.cur → ∀ v : State, v = s.between.relEffect s.cur → v.incomplete s.cur = false →
          Ends s (.evsig a b) { v with signals := v.signals ++ [{ forge := to', ev := BitVec.ofNat 4 k, sender := s.cur, remote := true }] })) ∧
      (k < 8 → (s.core.readS a).toNat % 256 = 64 + k → (s.core.readS b).getLsbD 6 = false →
        (g.mxAt k = some (BitVec.ofNat 3 (slotOf s.cur)) → Ends s (.evsig a b) (s.between.mapForge f (fun g => g.setMx k none))) ∧
        (g.mxAt k ≠ some (BitVec.ofNat 3 (slotOf s.cur)) → FaultsWith s (.evsig a b) (.access 0))))

/-- 16 R349, R350, 08 R178: MSG sends its message behind the chunk's commit, and to another die behind a release; CNTADD waits for the
commit of its chunk, which adds it, clamped; CNTWAIT waits until the counter has reached the low 32 bits of s[a]. -/
def Obligations.Messages : Prop :=
  (∀ (s : State) (a b : BitVec 5) (n : BitVec 4) (x : Word) (to' : Nat) (word : Option (Nat × Word)) (u : State), x = s.core.readS a →
    to' = x.toNat / 2 ^ 32 % 1024 → word = (if x.getLsbD 63 then some (x.toNat % 2 ^ 22, s.core.readS b) else none) →
    u = (if dieOf to' = dieOf s.cur then s.between else s.between.relEffect s.cur) →
    (s.closing [sR a, sR b] [] →
      (s.msgOk x = true → (dieOf to' ≠ dieOf s.cur → u.incomplete s.cur = false) → Ends s (.msg a b)
        { u with msgs := u.msgs ++ [{ sender := s.cur, target := to', cnt := BitVec.ofNat 4 (x.toNat / 2 ^ 48), word := word }] }) ∧
      (s.msgOk x = false → FaultsWith s (.msg a b) (.access 0))) ∧
    (s.ready (Plan.simple [sR a] []) = true →
      Defers s (.cntadd n a) s (.cntadd n x) ∧
      (x.toNat % 2 ^ 32 ≤ (s.core.mcAt n).toNat → Completes s (.cntwait n a) s.core) ∧
      ((s.core.mcAt n).toNat < x.toNat % 2 ^ 32 → Waits s (.cntwait n a) .counter))) ∧
  ∀ (s : State) (c : Nat) (k : Chunk) (r : List Chunk) (n : BitVec 4) (v : Word), c < 520 → (s.coreAt c).closed = k :: r → k.lines = [] →
    k.deferred = [.cntadd n v] → ∃ t, exec (.chunkCommit c) s = .next t ∧ (t.coreAt c).closed = r ∧
      (((t.coreAt c).mcAt n).toNat : Int) = max 0 (min (2 ^ 32 - 1) (((s.coreAt c).mcAt n).toNat + v.toInt)) ∧
      ∀ m, m ≠ n → (t.coreAt c).mcAt m = (s.coreAt c).mcAt m

/-! ### Tasks, gangs and regions -/

/-- 14 R306 to R308: TKPOST of an image in the own scratchpad, which without a free entry waits with the image it has read; TKCANCEL,
with the status it finds and the entry it cancels, and TKSTAT. -/
def Obligations.TaskTable : Prop :=
  (∀ (s : State) (d a b : BitVec 5) (x y : Word) (to' off : Nat) (img : Vector Word 7) (u : State), x = s.core.readS a → y = s.core.readS b →
    to' = y.toNat % 1024 → u = (if dieOf to' = dieOf s.cur then s.between else s.between.relEffect s.cur) →
    (s.closing [sR a, sR b] [sR d] → s.core.wait = none → x.toNat % 64 = 0 → to' < 512 → u.loadable x 64 off →
      (dieOf to' ≠ dieOf s.cur → u.incomplete s.cur = false) →
      img = imageOf (wordsOf 8 (u.scratchData off 64)) →
      (imageOk to' img = false → Ends s (.tkpost d a b) (u.me (fun c => c.writeS d 0x1000000))) ∧
      (imageOk to' img = true →
        (∀ k, (y.getLsbD 15 = false → k = y.toNat / 2 ^ 10 % 32 ∧ wttOpen ((u.coreAt to').entry k) = true) →
          (y.getLsbD 15 = true → (u.coreAt to').openEntry = some k) →
          Ends s (.tkpost d a b) ((u.postEntry to' k img).me (fun c => c.writeS d
            (BitVec.ofNat 64 (handle to' k (((u.coreAt to').entry k).gen + 1)))))) ∧
        ((y.getLsbD 15 = false → wttOpen ((u.coreAt to').entry (y.toNat / 2 ^ 10 % 32)) = false) → (y.getLsbD 15 = true → (u.coreAt to').openEntry = none) →
          ∃ t, exec (.tkpost d a b) s = .next t ∧ t.core.wait = some (.entry (wordsOf 8 (u.scratchData off 64))) ∧ t.core.regs = s.core.regs))) ∧
    (s.closing [sR a] [sR d] → s.core.replays = [] → x.toNat % 1024 < 512 →
      Ends s (.tkcancel d a) ((s.between.cancelHandle (x.toNat % 2 ^ 24)).2.me (fun c => c.writeS d
        (BitVec.ofNat 64 (s.between.cancelHandle (x.toNat % 2 ^ 24)).1)))) ∧
    (s.ready (Plan.simple [sR a] [sR d]) = true → x.toNat % 1024 < 512 →
      Completes s (.tkstat d a) (s.core.writeS d (wttWord7 ((s.coreAt (x.toNat % 1024)).entry (x.toNat / 2 ^ 10 % 32)))))) ∧
  ∀ (s u : State) (h st a k : Nat) (e : WttEntry), a = h % 1024 → k = h / 1024 % 32 → e = (s.coreAt a).entry k → (st, u) = s.cancelHandle h → a < 512 →
    (e.gen.toNat ≠ h / 65536 % 256 → st = 3 ∧ u = s) ∧
    (e.gen.toNat = h / 65536 % 256 → (e.state = .cancelled → st = 0 ∧ u = s) ∧ (e.state = .running ∨ e.state = .preempted → st = 1 ∧ u = s) ∧
      (e.state = .free → st = 2 ∧ u = s) ∧
      (e.state = .waiting ∨ e.state = .eligible → st = 0 ∧ ((u.coreAt a).entry k).state = .cancelled ∧ ((u.coreAt a).entry k).rsv = false ∧
        (u.forgeAt (forgeOf a)).gangRes ≠ some (a, k) ∧
        (e.image[0].getLsbD 61 = false → ∀ b j, (b ≠ a ∨ j ≠ k) → (u.coreAt b).entry j = (s.coreAt b).entry j)))

/-- 14 R311, R301: TKEXIT without commands ends the task: the core is idle and unbound, in no region and no gang, and its entry, once
no core runs it, is FREE, or WAITING again when the image repeats; with commands it waits for them. 14 R312, R319, R324: TKYIELD and
PREHINT latch the live map and the ranges, none with s[b] 0, else those of the 16 bytes there; a save begins at once where the
core's state asks for one.
Readings of the model enter it: log entries 36 and 60. -/
def Obligations.TaskExit : Prop :=
  (∀ (s : State) (k : Nat) (e : WttEntry), s.cur < 512 → s.closing [] [] → k < 32 → e = s.core.entry k →
    (s.commandsOf s.cur = [] → (∀ b, b ≠ s.cur → (s.coreAt b).bound ≠ some (s.cur, k)) → s.core.bound = some (s.cur, k) → e.state = .running →
      ∃ t, exec .tkexit s = .next t ∧ t.core.status = .idle ∧ t.core.bound = none ∧ t.core.gang = none ∧ t.core.crdepth = 0 ∧
        (t.core.entry k).state = (if imageRepeat e.image then .waiting else .free) ∧ (t.core.entry k).image = e.image ∧ (t.core.entry k).gen = e.gen ∧
        t.mem = s.mem) ∧
    (s.commandsOf s.cur ≠ [] → Waits s .tkexit .commands)) ∧
  (∀ (s : State) (a b : BitVec 5) (r : Vector (BitVec 32) 4) (u : State), s.cur < 512 → s.closing [sR a, sR b] [] →
    s.between.saveRanges (s.core.readS b) r → u = s.between.me (fun c => { c with liveMap := s.core.readS a, ranges := r }) →
    (u.savesHere s.cur true = false → Ends s (.tkyield a b) u) ∧ (u.savesHere s.cur false = false → Ends s (.prehint a b) u) ∧
    (u.savesHere s.cur true = true → EndsThen s (.tkyield a b) u
      (fun t => t.beginSave s.cur { kind := 0, pc := s.core.regs.pc, yield := true, cmds := [] })) ∧
    (u.savesHere s.cur false = true → EndsThen s (.prehint a b) u
      (fun t => t.beginSave s.cur { kind := 0, pc := s.core.regs.pc, yield := false, cmds := [] })))

/-- 14 R314, R317: GANG waits until every core of its mask is there; the last one fuses them, each one word further on, with the lowest
slot as the leader; SPLIT takes a core out of its gang.
Readings of the model enter it: log entries 31, 71 and 118. -/
def Obligations.Gangs : Prop :=
  ∀ (s : State) (a : BitVec 5) (m : BitVec 8) (others : List Nat), s.cur < 512 →
    (s.closing [sR a] [] → m = (s.core.readS a).truncate 8 →
      others = ((List.range 8).filter (fun k => m.getLsbD k && k != slotOf s.cur)).map (fun k => forgeOf s.cur * 8 + k) → others ≠ [] →
      m.getLsbD (slotOf s.cur) = true →
      ((∃ b ∈ others, s.atGang m b = false) → Waits s (.gang a) (.gang m)) ∧
      ((∀ b ∈ others, s.atGang m b = true ∧ (s.coreAt b).ctx.asid = s.core.ctx.asid) →
        ∃ t, exec (.gang a) s = .next t ∧ ∀ b ∈ s.cur :: others, (t.coreAt b).wait = none ∧ (t.coreAt b).regs = { (s.coreAt b).regs with pc := nextPc (s.coreAt b).regs.pc } ∧
          ∃ g, (t.coreAt b).gang = some g ∧ g.mask = m ∧ m.getLsbD g.lslot.toNat = true ∧ (∀ k < g.lslot.toNat, m.getLsbD k = false) ∧
            (g.pos = 0 ↔ slotOf b = g.lslot.toNat))) ∧
    (s.ready (Plan.simple [] []) = true → Completes s .split s.core) ∧
    ((s.me (fun c => { c with gang := none })).ready (Plan.simple [] []) = true → s.gangHolds s.cur = false →
      ∃ t, exec .split s = .next t ∧ t.core.gang = none ∧ t.core.regs = { s.core.regs with pc := nextPc s.core.regs.pc } ∧ t.core.wait = none)

/-- 15 R337: CROPEN opens a region with its handler, up to four deep; CRCLOSE closes the innermost one once none of its commands is
left. 15 R338: a core that consumes poison in a region unwinds it, at interrupt and kill context: the open chunk and the pending entries
go, and the handler begins, one level up and with the syndrome, once no started command of the region is left.
Readings of the model enter it: log entry 9. -/
def Obligations.Regions : Prop :=
  (∀ (s : State) (a : BitVec 5) (x : Word), s.cur < 512 → x = s.core.readS a →
    (s.closing [sR a] [] →
      (s.core.crdepth.toNat < 4 → canonical x = true → x.toNat % 4 = 0 →
        Ends s (.cropen a) (s.between.me (fun c => { c with crh := vput c.crh c.crdepth.toNat x, crdepth := c.crdepth + 1 }))) ∧
      ((4 ≤ s.core.crdepth.toNat ∨ canonical x = false ∨ x.toNat % 4 ≠ 0) → FaultsWith s (.cropen a) (.access x))) ∧
    (s.closing [] [] →
      (s.core.crdepth ≠ 0 → (∀ k ∈ s.commandsOf s.cur, tcwDepth k.tcw < s.core.crdepth.toNat) →
        Ends s .crclose (s.between.me (fun c => { c with crdepth := c.crdepth - 1 }))) ∧
      (s.core.crdepth ≠ 0 → (∃ k ∈ s.commandsOf s.cur, s.core.crdepth.toNat ≤ tcwDepth k.tcw) → Waits s .crclose .commands) ∧
      (s.core.crdepth = 0 → FaultsWith s .crclose (.access 0)))) ∧
  (∀ (s t : State) (a d : Nat) (syn h : Word), a < 512 → d = (s.coreAt a).crdepth.toNat → 0 < d → d ≤ 4 → h = nth 0 (s.coreAt a).crh.toList (d - 1) →
    (s.coreAt a).closed = [] → t = s.unwind a syn → (t.coreAt a).scoreboard = [] ∧ (t.coreAt a).chunk = none ∧
    ((∀ k ∈ s.commandsOf a, tcwDepth k.tcw < d) →
      (t.coreAt a).crsyn = syn ∧ (t.coreAt a).crdepth.toNat = d - 1 ∧ (t.coreAt a).unwinding = none ∧ (t.coreAt a).wait = none ∧
      (t.coreAt a).regs.pc = (h.truncate 48).signExtend 64 &&& 0xFFFFFFFFFFFFFFFC ∧
      ((s.coreAt a).chunk = none → ∀ r, (t.coreAt a).readS r = (s.coreAt a).readS r) ∧
      ∀ k, (s.coreAt a).chunk = some k → ∀ r : BitVec 5, r ≠ 0 →
        (t.coreAt a).readS r = if k.tokStart.getLsbD r.toNat then (s.coreAt a).readS r else k.start.s[r.toNat]'r.isLt) ∧
    ((∃ k ∈ s.startedOf a, d ≤ tcwDepth k.tcw) → (s.coreAt a).ending = [] →
      (t.coreAt a).unwinding = some syn ∧ (t.coreAt a).crdepth = (s.coreAt a).crdepth ∧ (t.coreAt a).wait = some .commands)) ∧
  ∀ (s t : State) (a act : Nat) (r : RegName) (go : Bool) (w : Word), a < 512 → act = (s.dieAt (dieOf a)).action 2 0 → (t, go) = s.consume a (some r) 0 →
    w = (t.coreAt a).crsyn → (act ≤ 1 → go = true ∧ t.coreAt a = s.coreAt a) ∧
    ((act = 2 ∨ act = 3) → 0 < (s.coreAt a).crdepth.toNat → (s.coreAt a).crdepth.toNat ≤ 4 → (s.coreAt a).closed = [] → go = false ∧
      ((∀ k ∈ s.commandsOf a, tcwDepth k.tcw < (s.coreAt a).crdepth.toNat) → fld w 60 4 = 2 ∧ fld w 57 3 = 0 ∧ fld w 50 5 = r.num.toNat ∧
        fld w 55 2 = (match r.file with | .s => 0 | .v => 1 | .p => 2 | .k => 3) ∧ fld w 0 48 = (s.coreAt a).regs.pc.toNat % 2 ^ 48))

/-! ### Queues and links -/

/-- 11 R218, R219: QSENDV and QSEND append the command of v[a], or of the 32 bytes at s[a], to a command queue with room, with the
context and the token; without room, or while the token register has a token pending, they wait with the command they have read; a
command the queue does not take is an illegal instruction. A sent command carries the core's context, its CRDEPTH and its token, whose
register is then pending.
Readings of the model enter it: log entry 24. -/
def Obligations.CommandQueues : Prop :=
  (∀ (s : State) (q : BitVec 4) (a b : BitVec 5) (e : Nat) (t : Tcw), s.cur < 512 → q.toNat % 2 = 0 → q.toNat < 8 →
    (b = 0 ∨ q = 2 ∨ q = 6) → e = q.toNat / 2 → s.core.wait = none → ∀ go : Bool,
    (go = true ↔ (s.core.cmdQ e).length < cmdDepth e ∧ (b = 0 ∨ s.core.tokpend.getLsbD b.toNat = false)) →
    (s.closing [vR a] [] → t = (s.core.readV a).truncate 256 →
      (tcwAccepted e t = true → go = true → Ends s (.qsendv q a b) (s.between.sendCmd e t b none)) ∧
      (tcwAccepted e t = true → go = false → Waits s (.qsendv q a b) (.sending t)) ∧
      (tcwAccepted e t = false → FaultsWith s (.qsendv q a b) (.illegal s.ir))) ∧
    ∀ off, s.closing [sR a] [] → (s.core.readS a).toNat % 32 = 0 → s.loadable (s.core.readS a) 32 off → t = BitVec.ofNat 256 (s.scratchValue off 32) →
      (tcwAccepted e t = true → go = true → Ends s (.qsend q a b) (s.between.sendCmd e t b none)) ∧
      (tcwAccepted e t = true → go = false → Waits s (.qsend q a b) (.sending t)) ∧
      (tcwAccepted e t = false → FaultsWith s (.qsend q a b) (.illegal s.ir))) ∧
  ∀ (s u : State) (e : Nat) (t : Tcw) (b : BitVec 5), s.cur < 520 → e < 4 → u = s.sendCmd e t b none →
    (∃ x, u.core.cmdQ e = s.core.cmdQ e ++ [x] ∧ x.ctx = s.core.ctx ∧ x.core = s.cur ∧ x.token = b ∧ x.record = none ∧ x.unwound = false ∧
      ∀ i < 256, x.tcw.getLsbD i = if 9 ≤ i ∧ i < 12 then s.core.crdepth.getLsbD (i - 9) else t.getLsbD i) ∧
    (∀ f, f < 4 → f ≠ e → u.core.cmdQ f = s.core.cmdQ f) ∧
    (∀ i < 32, u.core.tokpend.getLsbD i = (s.core.tokpend.getLsbD i || decide (b ≠ 0 ∧ i = b.toNat))) ∧
    ∀ r, u.core.readS r = if r = b ∧ b ≠ 0 then BitVec.allOnes 64 else s.core.readS r

/-- 11 R222 to R226: words pushed at the commit, words popped one or up to sixteen at a time, a pop of an empty queue pending
until a word comes, the queue's state, and the flush; what the commit does: held words go, a pushed word joins, a flush drops the words
not held, or ends the queue's commands CANCELLED. -/
def Obligations.CompletionQueues : Prop :=
  (∀ (s : State) (q l : BitVec 4) (a d : BitVec 5) (e : Fin 4) (x : CplQueue), s.cur < 512 → q.toNat < 8 → e.val = q.toNat / 2 → x = s.core.cpl[e] →
    (q.toNat % 2 = 1 →
      (s.ready (Plan.simple [sR a] []) = true →
        (x.words.length + x.reserved < 16 → Defers s (.qpush q a) (s.me (fun c => { c with cpl := c.cpl.set e { x with reserved := x.reserved + 1 } }))
          (.qpush q (BitVec.ofNat 64 (2 ^ 63 + 7 * 2 ^ 60 + (s.core.readS a).toNat % 2 ^ 60)))) ∧
        (16 ≤ x.words.length + x.reserved → Waits s (.qpush q a) .queueRoom)) ∧
      (s.ready (Plan.multi [] [sR d] l) = true →
        (∀ w ws, x.words.drop x.held = w :: ws →
          Ends s (.qpop d q l) (s.me (fun c => ({ c with cpl := c.cpl.set e { x with held := x.held + 1 } } : Core).writeS d w))) ∧
        (x.words.length ≤ x.held → Pends s (.qpop d q l) [sR d] .queueWord)) ∧
      (s.ready (Plan.multi [] [vR d] l) = true → ∀ ws, ws = (x.words.drop x.held).take 16 →
        (ws ≠ [] → Ends s (.qpopv d q l) (s.me (fun c => ({ c with cpl := c.cpl.set e { x with held := x.held + ws.length } } : Core).writeV d
          (ofElems 64 (ws.map BitVec.toNat))))) ∧
        (ws = [] → Pends s (.qpopv d q l) [vR d] .queueWord))) ∧
    (s.ready (Plan.simple [] [sR d]) = true → 
      (q.toNat % 2 = 1 → x.words.length + x.reserved ≤ 16 → x.held ≤ x.words.length →
        Completes s (.qstat d q) (s.core.writeS d (BitVec.ofNat 64 (x.held * 2 ^ 24 + 16 * 256 + (x.words.length + x.reserved))))) ∧
      (q.toNat % 2 = 0 → ∀ n, n = (if e.val = 0 then 16 else if e.val = 1 then 32 else if e.val = 2 then 8 else 4) → (s.core.cmdQ e.val).length ≤ n →
        Completes s (.qstat d q) (s.core.writeS d (BitVec.ofNat 64 (min (s.inProgress s.cur e.val) 255 * 2 ^ 24 + n * 256 + (s.core.cmdQ e.val).length))))) ∧
    (s.ready (Plan.simple [] []) = true → Defers s (.qflush q) s (.qflush q))) ∧
  ∀ (s : State) (c : Nat) (k : Chunk) (r : List Chunk), c < 520 → (s.coreAt c).closed = k :: r → k.lines = [] → (s.coreAt c).scoreboard = [] →
    (s.coreAt c).ending = [] → ∃ t, exec (.chunkCommit c) s = .next t ∧ (t.coreAt c).closed.length = r.length ∧
      (k.deferred = [] → ∀ e : Fin 4, (t.coreAt c).cpl[e] = 
        { (s.coreAt c).cpl[e] with words := (s.coreAt c).cpl[e].words.drop k.held[e], held := (s.coreAt c).cpl[e].held - k.held[e] }) ∧
      (k.held = Vector.replicate 4 0 → ∀ (q : BitVec 4) (e : Fin 4) (x : CplQueue), e.val = q.toNat / 2 → x = (s.coreAt c).cpl[e] →
        (∀ w, k.deferred = [.qpush q w] → (t.coreAt c).cpl = (s.coreAt c).cpl.set e { x with words := x.words ++ [w], reserved := x.reserved - 1 }) ∧
        (k.deferred = [.qflush q] → q.getLsbD 0 = true → (t.coreAt c).cpl = (s.coreAt c).cpl.set e { x with words := x.words.take x.held }) ∧
        (k.deferred = [.qflush q] → q.getLsbD 0 = false → (t.coreAt c).cmdQ e.val = [] ∧ ∀ y : Cmd, (s.coreAt c).cmdQ e.val = [y] →
          engOf (tcwOp y.tcw) = some e.val → x.words.length + x.reserved < 16 → (t.coreAt c).ending = [] ∧
            (t.coreAt c).cpl = (s.coreAt c).cpl.set e { x with words := x.words ++ [cplWord y.tcw 1 0] } ∧
            (y.token ≠ 0 → (t.coreAt c).readS y.token = 1 ∧ (t.coreAt c).tokpend.getLsbD y.token.toNat = false)))

/-- 06 R123 to R126: a link slot read with its poison, emptied by LKRD and kept by LKRDF; a value sent to the neighbour's facing slot
when that is free; a read of an empty slot is pending until a value comes; a direction without a neighbour is an access fault.
Readings of the model enter it: log entries 56 and 109. -/
def Obligations.Links : Prop :=
  ∀ (s : State) (d a : BitVec 5) (k : BitVec 2) (l : BitVec 4) (x : LinkSlot), x = s.core.slot k →
    (∀ b, neighbour s.cur k.toNat = some b →
      (s.ready { Plan.multi [] [sR d] l with cls := .alone, ahead := .ends } = true → s.atRest →
        (x.full = true → Ends s (.lkrd d k l) (s.between.me (fun c =>
          let e := c.setSlot k { x with full := false, poison := false }
          if x.poison then e.poisonS d x.value else e.writeS d x.value))) ∧
        (x.full = false → Pends s (.lkrd d k l) [sR d] .link)) ∧
      (s.ready (Plan.multi [] [sR d] l) = true →
        (x.full = true → Completes s (.lkrdf d k l) (if x.poison then s.core.poisonS d x.value else s.core.writeS d x.value)) ∧
        (x.full = false → Pends s (.lkrdf d k l) [sR d] .link)) ∧
      (s.closing [sR a] [] → b ≠ s.cur →
        (s.slotTaken b (facing k) = false → (s.coreAt b).status.stopped = false →
          Ends s (.lkwr k a) { s.between with linkMsgs := s.linkMsgs ++ [(b, facing k, s.core.readS a)] }) ∧
        (s.slotTaken b (facing k) = true ∨ (s.coreAt b).status.stopped = true → Waits s (.lkwr k a) .link))) ∧
    (neighbour s.cur k.toNat = none →
      (s.ready { Plan.multi [] [sR d] l with cls := .alone, ahead := .ends } = true → FaultsWith s (.lkrd d k l) (.access 0)) ∧
      (s.ready (Plan.multi [] [sR d] l) = true → s.faultable → FaultsWith s (.lkrdf d k l) (.access 0)) ∧
      (s.closing [sR a] [] → FaultsWith s (.lkwr k a) (.access 0))) ∧
    (s.ready (Plan.simple [] [sR d]) = true → ∃ r : Word, Completes s (.lkstat d) (s.core.writeS d r) ∧
      ∀ j < 64, r.getLsbD j =
        if j < 4 then (s.core.slot (BitVec.ofNat 2 j)).full
        else if j < 8 then (match neighbour s.cur (j - 4) with | some b => s.slotTaken b (facing (BitVec.ofNat 2 (j - 4))) | none => false)
        else if j < 12 then (neighbour s.cur (j - 8)).isSome else false)

/-! ### The forge's members -/

/-- 15 R340 to R343: TLOC reports a record, TFIX corrects a single error and releases the record, TRETRY sends the pass again or
releases, TRRD reads a word.
Readings of the model enter it: log entry 45. -/
def Obligations.RetryRecords : Prop :=
  ∀ (s : State) (d a b : BitVec 5) (l : BitVec 4) (k : BitVec 4) (x : Word) (r : RetryRecord), s.cur < 512 → x = s.core.readS a → k = x.truncate 4 →
    r = s.core.recordAt k →
    (s.ready (Plan.memory [sR a] [sR d] l) = true →
      (recHeld r = false → Completes s (.tloc d a l) (s.core.writeS d 3)) ∧
      (recHeld r = true → recBusy r = true → Completes s (.tloc d a l) (s.core.writeS d (BitVec.ofNat 64 (4 + recKind r)))) ∧
      (recHeld r = true → recBusy r = false → recKind r ≠ 1 → Completes s (.tloc d a l) (s.core.writeS d (BitVec.ofNat 64 (recKind r)))) ∧
      (recHeld r = true → recBusy r = false → recKind r = 1 → s.loadable (BitVec.ofNat 64 (lwb + recElem r)) 2 (recElem r) →
        Completes s (.tloc d a l) (s.core.writeS d (BitVec.ofNat 64 ((recFixed r (s.scratchValue (recElem r) 2) % 2 ^ 16).toNat * 2 ^ 48 + recRidx r * 2 ^ 16 +
          recCidx r * 2 ^ 8 + 1))))) ∧
    (s.still → s.ready (Plan.closer [sR a] [sR d]) = true → ∀ e : Nat, e = sramBase s.cur + recElem r →
      (recHeld r = false → Performs s (.tfix d a) (s.core.writeS d 3) s.mem s.full) ∧
      (recHeld r = true → recBusy r = true → Performs s (.tfix d a) (s.core.writeS d 4) s.mem s.full) ∧
      (recHeld r = true → recBusy r = false → recKind r ≠ 1 → Performs s (.tfix d a) (s.core.writeS d 1) s.mem s.full) ∧
      (recHeld r = true → recBusy r = false → recKind r = 1 → s.poison.contains (poisonUnit e) = true → Performs s (.tfix d a) (s.core.writeS d 5) s.mem s.full) ∧
      (recHeld r = true → recBusy r = false → recKind r = 1 → s.poison.contains (poisonUnit e) = false →
        (16 * recTolRow r < (recRres r - 16 * recCres r).natAbs → Performs s (.tfix d a) (s.core.writeS d 2) s.mem s.full) ∧
        ((recRres r - 16 * recCres r).natAbs ≤ 16 * recTolRow r → ∃ t, exec (.tfix d a) s = .next t ∧
          t.core.regs = { (s.core.writeS d 0).regs with pc := nextPc s.core.regs.pc } ∧ recHeld (t.core.recordAt k) = false ∧ recBusy (t.core.recordAt k) = false ∧
          (∀ j, j ≠ k → t.core.recordAt j = s.core.recordAt j) ∧ t.full = s.full ∧
          t.mem = memPut s.mem e (toBytes 2 (recFixed r (ofBytes (tab (memGet s.mem) e 2)) % 2 ^ 16).toNat)))) ∧
    (s.closing [sR a] [sR d] →
      (recHeld r = false → Ends s (.tretry d a) (s.between.me (fun c => c.writeS d 3))) ∧
      (recHeld r = true → recBusy r = true → Ends s (.tretry d a) (s.between.me (fun c => c.writeS d 4))) ∧
      (recHeld r = true → recBusy r = false → x.getLsbD 8 = true → Ends s (.tretry d a) (s.between.me (fun c => (c.releaseRecord k).writeS d 0))) ∧
      (recHeld r = true → recBusy r = false → x.getLsbD 8 = false →
        (16 ≤ s.core.q0.length → Waits s (.tretry d a) .queueRoom) ∧
        (s.core.q0.length < 16 → Ends s (.tretry d a) ((s.between.sendCmd 0 (retryTcw r) 0 (some k)).me (fun c =>
          ({ c with records := c.records.set k.toNat (r.set 0 (r[0] ||| 0x4000000000000000)) k.isLt } : Core).writeS d 0))))) ∧
    (s.ready (Plan.multi [sR a, sR b] [sR d] l) = true → ∀ j : Fin 8, j.val = (s.core.readS b).toNat % 8 →
      Completes s (.trrd d a b l) (s.core.writeS d r[j]))

/-- 06 R136, R137, 12 R265: a weight-set switch asked for, a batch boundary opened or passed at once, MDRAIN once no anvil command of
the core is left, and the exponent sums of SKCOMB with their deliveries.
Readings of the model enter it: log entries 43, 57 and 126. -/
def Obligations.ForgeMembers : Prop :=
  ∀ (s : State) (d a b : BitVec 5) (f : Nat) (g : Forge), s.cur < 512 → f = forgeOf s.cur → g = s.forgeAt f →
    (s.closing [sR a] [] → Ends s (.wspsw a) (s.between.mapForge f (fun g => { g with tgt := (s.core.readS a).getLsbD 0, pend := true }))) ∧
    (s.closing [] [sR d] → ∀ (seq : BitVec 32) (before : List Nat), seq = g.batchSeq + 1 + BitVec.ofNat 32 g.bounds.length →
      before = (((tab id (8 * f) 8).flatMap (fun c => (s.coreAt c).q0)).map Cmd.id).foldl ninsert [] →
      (before = [] → Ends s (.mbatch d) ((s.between.mapForge f (fun g =>
        { g with batchSeq := seq, cur := if g.pend then g.tgt else g.cur, pend := false })).me (fun c => c.writeS d (seq.zeroExtend 64)))) ∧
      (before ≠ [] → Ends s (.mbatch d) ((s.between.mapForge f (fun g =>
        { g with bounds := g.bounds ++ [{ seq := seq, before := before }] })).me (fun c => c.writeS d (seq.zeroExtend 64))))) ∧
    (s.closing [] [sR d] →
      ((∀ k ∈ s.commandsOf s.cur, engOf (tcwOp k.tcw) ≠ some 0) →
        Ends s (.mdrain d) (s.between.me (fun c => c.writeS d (BitVec.ofNat 64 (ofDigits 1 (c.records.toList.map (fun r => b2n (recHeld r)))))))) ∧
      ((∃ k ∈ s.commandsOf s.cur, engOf (tcwOp k.tcw) = some 0) → Waits s (.mdrain d) .commands)) ∧
    (s.closing [sR a, sR b] [sR d] → ∀ (ea v : Int) (to' : List Nat), ea = sxt 8 ((s.core.readS a).toNat % 256) →
      v = (if ea = -128 ∨ g.active.valid = false then -512 else ea + g.active.ew.toInt) → to' = (List.range 8).filter (fun k => (s.core.readS b).getLsbD k) →
      Ends s (.skcomb d a b) ({ s.between with skxMsgs := s.skxMsgs ++ to'.map (fun k => (8 * f + k, BitVec.ofInt 10 v)) }.me (fun c =>
        c.writeS d (BitVec.ofInt 64 v))))

/-! ### Supervisors and caches -/

/-- 15 R335: RESUME answers 1 for a core that is not stopped, 2 with the entry's index for an entry to be executed again whose source
was overwritten, and else releases the core and answers 0, with its entries settled: COMPLETE writes the destinations, DISCARD drops
the entry, REISSUE leaves it to be executed anew, POISON poisons the destinations. 13 R278, R287, 07 R150, R153: the supervisor's invalidation and reply, the flush of L2 ways and of hearth lines.
Readings of the model enter it: log entries 11, 12, 30 and 55. -/
def Obligations.SupervisorGroup : Prop :=
  (∀ (s : State) (d a : BitVec 5) (b : Nat) (c : Core), 512 ≤ s.cur → s.closing [sR a] [sR d] → b = 128 * dieOf s.cur + (s.core.readS a).toNat % 128 →
    b ≠ s.cur → c = s.coreAt b →
    (((∀ x, c.status ≠ .frozen x) ∧ c.status ≠ .halted) → Ends s (.resume d a) (s.between.me (fun x => x.writeS d 1))) ∧
    (((∃ x, c.status = .frozen x) ∨ c.status = .halted) →
      (∀ k e, c.scoreboard[k]? = some e → e.settle = 2 → e.srcClob = true → (∀ j < k, ∀ e', c.scoreboard[j]? = some e' → e'.settle ≠ 2 ∨ e'.srcClob = false) →
        Ends s (.resume d a) (s.between.me (fun x => x.writeS d (BitVec.ofNat 64 (2 + k * 256))))) ∧
      ((∀ e ∈ c.scoreboard, e.settle ≠ 2 ∨ e.srcClob = false) →
        Ends s (.resume d a) ((((c.scoreboard.foldl (fun u e => u.forsake b e) s.between).mapCore b Core.resume).drain b).me (fun x => x.writeS d 0))))) ∧
  (∀ (c : Core) (e : SbEntry), c.resume.status = (if c.bound.isSome then .running else .idle) ∧ (c.scoreboard = [e] →
    (e.settle = 0 → e.faulted = false → e.redo = false → c.resume.scoreboard = [] ∧ c.resume.regs = (c.writeEntry e true).regs) ∧
    (e.settle = 1 → c.resume.scoreboard = [] ∧ c.resume.regs = c.regs) ∧
    (e.settle = 2 → c.resume.regs = c.regs ∧
      c.resume.scoreboard = [{ e with completing := true, redo := true, faulted := false, srcClob := false, waits := none }]) ∧
    (e.settle = 3 → c.resume.scoreboard = [] ∧ c.resume.regs = (e.dests.foldl Core.markPoison c).regs))) ∧
  (∀ (s : State) (d a : BitVec 5) (m : BitVec 2) (x : Word) (die : Nat), x = s.core.readS a → die = dieOf s.cur →
    (512 ≤ s.cur → s.closing [sR a] [] → (s.between.relEffect s.cur).incomplete s.cur = false →
      Ends s (.tlbi a m) ((s.between.relEffect s.cur).tlbInvalidate { mode := m, asid := BitVec.ofNat 9 (x.toNat / 2 ^ 55), va := x.toNat % 2 ^ 48 }) ∧
      ∃ t, exec (.frply a) s = .next t ∧ t.core.regs = { s.core.regs with pc := nextPc s.core.regs.pc } ∧
        (∀ j : Fin 8, (t.dieAt die).faults[j] = if x.getLsbD 9 ∨ (s.dieAt die).faults[j].asid = x.truncate 9 then FaultEntry.empty else (s.dieAt die).faults[j]) ∧
        ((t.dieAt die).dropped = if x.getLsbD 9 then false else (s.dieAt die).dropped) ∧
        ∀ b ∈ s.liveAgents die, b < 512 → (t.coreAt b).status =
          if (s.coreAt b).status = .frozen 0x10 ∧ (x.getLsbD 9 = true ∨ (s.coreAt b).ctx.asid = x.truncate 9) then .running else (s.coreAt b).status) ∧
    (512 ≤ s.cur → s.closing [sR a] [sR d] → m ≠ 3 → ∀ hit : Table HearthLine,
      hit = s.hearth.filter (fun e => homeOf (lineBase e.1) / 128 == die &&
        (if m = 0 then e.1 == lineOf x.toNat else if m = 1 then homeOf (lineBase e.1) == x.toNat % 512 else true)) →
      (∀ e ∈ hit, s.mayLeave e.1 = true) → Ends s (.hflush d a m) ((s.between.each (hit.map Prod.fst) (fun u l => u.hearthEvict l)).me (fun c => c.writeS d
        (BitVec.ofNat 64 (min (hit.filter (fun e => e.2.dirty)).length (2 ^ 32 - 1)))))) ∧
    (s.closing [sR a] [] → ∀ (mask : BitVec 16) (u : State), mask = x.truncate 16 &&& ~~~s.core.l2scr →
      u = (s.between.me (fun c => { c with l2held := c.l2held ||| mask })).each
        ((s.core.l2.filter (fun y => mask.getLsbD y.way.toNat)).map CacheLine.line) (fun u l => u.evictL2 s.cur l) →
      u.incomplete s.cur = false → Ends s (.l2flw a) u)) ∧
  ∀ (s : State) (x : Tlbi) (covered : Bool → Nat → Nat → Nat → Bool),
    covered = (fun g asid vpn size =>
      let here := decide (vpn ≤ x.va / 4096 ∧ x.va / 4096 < vpn + entryPages size)
      if x.mode = 0 then !g && asid == x.asid.toNat && here else if x.mode = 1 then !g && asid == x.asid.toNat else if x.mode = 2 then true else g && here) →
    (∀ a, ((s.tlbInvalidate x).coreAt a).tlb = (s.coreAt a).tlb.filter (fun e => !covered (pteG e.leaf) e.asid.toNat e.vpn e.size)) ∧
    ∀ d, ((s.tlbInvalidate x).dieAt d).l2tlb = (s.dieAt d).l2tlb.filter (fun e => !covered (pteG e.leaf) e.asid.toNat e.vpn e.size)


/-! ### The device's own steps: memory, messages and signals -/

/-- 08 R171, R172, R177, R183, 07 R161, 04 R79, 08 R175, 13 R284: the grant of a chunk whose lines are SRAM writes its bytes, counts it,
and squashes every open chunk of its die that its lines hit, its core's younger ones among them; an acknowledged line is merged at its
home; a notice squashes the chunks it hits; a pending entry that completes writes its destinations, or performs its access at its
core's next turn; a lost load freezes its core; a translation fault begins a run-ahead, whose end freezes the core with the number of
pages; an atomic request is performed, and a full/empty waiter goes on.
Readings of the model enter it: log entries 8, 12, 16, 26 and 28. -/
def Obligations.MemorySteps : Prop :=
  (∀ (s : State) (a : Nat) (k : Chunk) (l : List Chunk) (lines : List Nat), a < 520 → (s.coreAt a).closed = k :: l → (s.coreAt a).scoreboard = [] →
    (∀ x ∈ k.lines, isSram (x.1 * 128) = true) → s.pushes.any (fun p => p.agent == a) = false → lines = k.lines.map Prod.fst →
    ∃ t, exec (.chunkCommit a) s = .next t ∧ (t.coreAt a).instret = (s.coreAt a).instret + BitVec.ofNat 64 k.instrs ∧
      (t.coreAt a).chkcmt = (s.coreAt a).chkcmt + 1 ∧ t.mem = k.bytes.foldl (fun m x => if isSram x.1 then memSet m x.1 x.2 else m) s.mem ∧
      t.pushes = s.pushes ∧ t.commits = s.commits ∧
      ((∀ x ∈ l ++ (s.coreAt a).chunk.toList, x.hit lines = false) → (t.coreAt a).closed = l ∧ (t.coreAt a).chunk = (s.coreAt a).chunk ∧
        (t.coreAt a).chksq = (s.coreAt a).chksq ∧
        (t.coreAt a).squashes = if (s.coreAt a).squashPc = k.start.pc then 0 else (s.coreAt a).squashes) ∧
      ((∃ x ∈ l, x.hit lines = true) → (t.coreAt a).chunk = none ∧ (t.coreAt a).chksq = (s.coreAt a).chksq + 1) ∧
      ∀ b, b < 520 → b ≠ a → t.coreAt b = if dieOf b = dieOf a then (s.coreAt b).meetCommit lines else s.coreAt b) ∧
  (∀ (s : State) (p : Push) (l : List Push), s.pushes = p :: l → p.tied = false → isView p.line = false → isPeer (p.line * 128) = false →
    isSram (p.line * 128) = false → s.bypassed (homeOf (p.line * 128)) = false → s.lostHome p.line = false → s.copyLine p.line = none →
    ((s.hearth.map Prod.fst).filter (fun x => homeOf (lineBase x) == homeOf (p.line * 128))).length < 16 →
    ∃ t, exec .homeAcknowledge s = .next t ∧ t.pushes = l ∧ t.homeLine p.line = mergeData (s.homeLine p.line) p.data p.mask ∧
      t.homePoison p.line = (!p.whole && s.homePoison p.line) ∧ t.mem = s.mem ∧ t.cores = s.cores) ∧
  (∀ (s : State) (d line : Nat) (l : List (Nat × Nat)), s.notices = (d, line) :: l →
    ∃ t, exec .writeNotice s = .next t ∧ t.notices = l ∧ t.mem = s.mem ∧ ∀ b, b < 520 →
      (dieOf b = d → (t.coreAt b).regs = ((s.coreAt b).meetCommit [line]).regs ∧ (t.coreAt b).chunk = ((s.coreAt b).meetCommit [line]).chunk ∧
        (t.coreAt b).closed = ((s.coreAt b).meetCommit [line]).closed) ∧
      (dieOf b ≠ d → t.coreAt b = s.coreAt b)) ∧
  (∀ (s : State) (a n : Nat) (e : SbEntry), (s.coreAt a).scoreboard[n]? = some e → e.completing = false → e.faulted = false → e.waits = none →
    (s.coreAt a).unwinding = none →
    ((s.coreAt a).status.stopped = false →
      (e.redo = false → (s.coreAt a).ahead = none → (s.coreAt a).sam = false → ∃ t, exec (.scoreboardComplete a n) s = .next t ∧
        (t.coreAt a).regs = ((s.coreAt a).writeEntry e true).regs ∧ (t.coreAt a).scoreboard = (s.coreAt a).scoreboard.eraseIdx n ∧
        ∀ b, b ≠ a → t.coreAt b = s.coreAt b) ∧
      (e.redo = true → exec (.scoreboardComplete a n) s = .next (s.mapCore a (fun c =>
        { c with scoreboard := c.scoreboard.set n { e with completing := true } })))) ∧
    ∀ va, e.mem = true → (s.coreAt a).status = .running → (s.coreAt a).ahead = none → s.lostLoad a e = some va →
      exec (.lateFault a n) s = .next ((s.mapCore a (fun c =>
        { c with scoreboard := c.scoreboard.set n { e with faulted := true, faddr := va } })).freezeClass a 0x11 0 0 e.pc va)) ∧
  (∀ (s : State) (a : Nat),
    (∀ va type, (s.coreAt a).status = .faulted va type → ∃ t h, exec (.runAhead a) s = .next t ∧ (t.coreAt a).status = .running ∧
      (t.coreAt a).ahead = some h ∧ h.start = (s.coreAt a).regs ∧ h.va = va ∧ h.type = type ∧ h.pages = [pageKey (s.ctxOf a).asid va] ∧
      h.ended = false ∧ t.dies = (s.postPage a (pageKey (s.ctxOf a).asid va) type true).dies) ∧
    (∀ h, (s.coreAt a).status = .running → (s.coreAt a).ahead = some h → h.ended = true →
      exec (.runAhead a) s = .next (s.freezeClass a 0x10 h.pages.length h.type h.start.pc h.va))) ∧
  (∀ (s : State) (r : AtomicReq) (l : List AtomicReq), s.atomics = r :: l → r.remote = false → r.done = none → r.dropped = false →
    s.amoHeld r = false → ∃ t, exec .atomicPerform s = .next t ∧
      t.atomics = { r with done := some (s.amoPerform r).2 } :: l ∧ t.mem = (s.amoPerform r).1.mem ∧ t.cores = (s.amoPerform r).1.cores) ∧
  ∀ (s : State) (w a : Nat), s.feFirst w = some a → s.poison.contains w = false → s.calm →
    ((s.coreAt a).waiting.find? (Wait.fe w) = some (.feFull w) → ∃ t, exec (.feWaitRelease w) s = .next t ∧ t.mem = s.mem ∧
      t.full = nerase s.full w ∧ t.feWaiters = s.feWaiters.filter (fun x => x.2 != a) ∧
      t.coreAt a = (s.coreAt a).grantWait (Wait.fe w) (.granted (BitVec.ofNat 64 (ofBytes (memBytes s.mem w 8))) false)) ∧
    ∀ v, (s.coreAt a).waiting.find? (Wait.fe w) = some (.feEmpty w v) → ∃ t, exec (.feWaitRelease w) s = .next t ∧
      t.mem = memPut s.mem w (toBytes 8 v.toNat) ∧ t.full = ninsert s.full w ∧ t.feWaiters = s.feWaiters.filter (fun x => x.2 != a) ∧
      t.coreAt a = (s.coreAt a).grantWait (Wait.fe w) (.granted 0 false)

/-- 09 R195, 06 R124, R137, 16 R350, R354, R358, 15 R332: what is on its way arrives: a delivery's word and barrier arrival, a link
value at a slot that is empty, an SKX value, a message's word and then its increment, a barrier arrival at every core of its instance
in this package, and at pod scope the other packages are told of it, the signals of an
event unit; and a packet enters its ring.
Readings of the model enter it: log entries 56, 119, 130 and 131. -/
def Obligations.Arrivals : Prop :=
  (∀ (s : State) (x : Delivery) (l : List Delivery), s.deliveries = x :: l → s.commits = [] →
    (∀ p, x.word = some p → sramAssigned (s.coreAt x.target) p.1 = true) →
    ∃ t, exec .reductionDelivery s = .next t ∧ t.deliveries = l ∧
      t.mem = (match x.word with | some p => memPut s.mem (sramBase x.target + p.1) (toBytes 8 p.2.toNat) | none => s.mem) ∧
      t.full = (match x.word with | some p => ninsert s.full (sramBase x.target + p.1) | none => s.full) ∧
      ∀ b n, (t.coreAt b).bar n = if x.target = b ∧ x.bar = some n then ((s.coreAt b).bar n).arrive else (s.coreAt b).bar n) ∧
  (∀ (s : State) (core : Nat) (k : BitVec 2) (v : Word) (l : List (Nat × BitVec 2 × Word)), s.linkMsgs = (core, k, v) :: l →
    ((s.coreAt core).slot k).full = false →
    ∃ t, exec (.linkSlotArrival core k) s = .next t ∧ t.linkMsgs = l ∧
      t.coreAt core = (s.coreAt core).setSlot k { value := v, full := true, poison := false } ∧ ∀ b, b ≠ core → t.coreAt b = s.coreAt b) ∧
  (∀ (s : State) (a : Nat) (v : BitVec 10) (l : List (Nat × BitVec 10)), s.skxMsgs = (a, v) :: l →
    ∃ t, exec .skxDelivery s = .next t ∧ t.skxMsgs = l ∧ t.coreAt a = { s.coreAt a with skx := v } ∧ ∀ b, b ≠ a → t.coreAt b = s.coreAt b) ∧
  (∀ (s : State) (m : Msg) (l : List Msg), s.msgs = m :: l → s.commits = [] →
    ∃ t, exec .msgDelivery s = .next t ∧ t.msgs = l ∧
      ((t.coreAt m.target).mcAt m.cnt).toNat = min (((s.coreAt m.target).mcAt m.cnt).toNat + 1) (2 ^ 32 - 1) ∧
      (m.word = none → t.mem = s.mem ∧ t.full = s.full) ∧
      ∀ off v, m.word = some (off, v) → sramAssigned (s.coreAt m.target) off = true →
        t.mem = memPut s.mem (sramBase m.target + off) (toBytes 8 v.toNat) ∧ t.full = ninsert s.full (sramBase m.target + off)) ∧
  (∀ (s : State) (x : Arrival) (l : List Arrival), s.arrivals = x :: l → s.skxMsgs = [] → x.direct = false →
    ∃ t, exec .barrierArrival s = .next t ∧ t.arrivals = l ∧
      t.pkg = (if x.scope = 5 ∧ s.pkg.fabricUp = true then { s.pkg with podSent := x.bar :: s.pkg.podSent } else s.pkg) ∧ ∀ b, t.coreAt b =
      if b ∈ instanceOf x.issuer x.scope then (s.coreAt b).setBar x.bar ((s.coreAt b).bar x.bar).arrive else s.coreAt b) ∧
  (∀ (s : State) (g : Nat) (x : Signal), s.signals = [x] → x.forge = g →
    exec (.eventRelease g) s = .next ((({ s with signals := [] } : State).mapForge g (fun q => { q.setEv x.ev.toNat
      (BitVec.ofNat 16 (min ((q.evAt x.ev.toNat).toNat + 1) (2 ^ 16 - 1))) with evFrom := if (q.evAt x.ev.toNat).toNat < 65535 then q.evFrom ++ [(x.ev.toNat, x.remote)] else q.evFrom })).releaseEv g 1)) ∧
  ∀ (s : State) (sup : Nat) (p : Packet) (l : List (BitVec 1 × Packet)), 512 ≤ sup → sup < 520 →
    (s.dieAt ((sup - 512) / 2)).packets = (BitVec.ofNat 1 (sup % 2), p) :: l →
    s.ringUsed ((s.dieAt ((sup - 512) / 2)).rings[(BitVec.ofNat 1 (sup % 2)).toNat]'(BitVec.ofNat 1 (sup % 2)).isLt) = true →
    ((s.dieAt ((sup - 512) / 2)).rings[(BitVec.ofNat 1 (sup % 2)).toNat]'(BitVec.ofNat 1 (sup % 2)).isLt).full = false →
    exec (.packetRingWrite sup) s = .next (((s.mapDie ((sup - 512) / 2) (fun x => { x with packets := l })).ringPut ((sup - 512) / 2)
      (BitVec.ofNat 1 (sup % 2)) p).admitPacket ((sup - 512) / 2))

/-- 10 R201 to R204, R207 to R210, 13 R293 to R296: a sample counts its region and posts it at the threshold; a halving; reposts below half;
scrub and its interval; what an error in DRAM, in the hearth part, in SRAM or in a TLB leaves; refresh postponed, forced, pulled in and
done, at the ports and in the channels of LPDDR 6; alerts; frames of the vertical bus that fail.
Readings of the model enter it: log entries 72, 73, 74, 75, 76, 78, 110 and 111. -/
def Obligations.MemoryUpkeep : Prop :=
  (∀ (s : State) (port region k n : Nat) (moving due q post : Bool) (l : List (Nat × Bool)) (e : HotRegion),
    (s.homeAt port).waiting = (region, moving) :: l → (s.homeAt port).halve = false → hotEntry (s.homeAt port).hot region = some (k, e) →
    n = min (e.count.toNat + 1) 65535 → q = (e.queued || moving) →
    (due = true ↔ fld (s.dieAt (port / 128)).hsample 16 8 ≠ 0 ∧ 2 ^ fld (s.dieAt (port / 128)).hsample 16 8 ≤ (s.homeAt port).samples + 1) →
    (post = true ↔ (s.dieAt (port / 128)).hthresh ≠ 0 ∧ (s.dieAt (port / 128)).hthresh.toNat ≤ n ∧ q = false ∧ e.pending = false) →
    ∃ t, exec (.hotnessSample port) s = .next t ∧ (t.homeAt port).waiting = l ∧ (t.homeAt port).halve = due ∧
      (t.homeAt port).samples = (if due then 0 else (s.homeAt port).samples + 1) ∧
      (post = false → tget e (t.homeAt port).hot k = { e with queued := q, count := BitVec.ofNat 16 n } ∧ t.dies = s.dies) ∧
      (post = true → (s.dieAt (port / 128)).nq.length < 256 → tget e (t.homeAt port).hot k = { e with queued := true, count := BitVec.ofNat 16 n } ∧
        (t.dieAt (port / 128)).nq = (s.dieAt (port / 128)).nq ++ [notice 0 port (region * 65536)]) ∧
      (post = true → 256 ≤ (s.dieAt (port / 128)).nq.length → tget e (t.homeAt port).hot k = { e with queued := q, pending := true, count := BitVec.ofNat 16 n } ∧
        (t.dieAt (port / 128)).nq = (s.dieAt (port / 128)).nq ∧
        (t.dieAt (port / 128)).nqdrop.toNat = min ((s.dieAt (port / 128)).nqdrop.toNat + 1) 65535)) ∧
  (∀ (s : State) (port : Nat), (s.homeAt port).halve = true → ∃ t, exec (.hotnessHalving port) s = .next t ∧ (t.homeAt port).halve = false ∧
    (t.homeAt port).hot = (s.homeAt port).hot.map (fun e => (e.1, { e.2 with count := BitVec.ofNat 16 (e.2.count.toNat / 2), queued := e.2.queued && decide ((s.dieAt (port / 128)).hthresh.toNat ≤ 2 * (e.2.count.toNat / 2)) }))) ∧
  (∀ (s : State) (d : Nat) (ports : List Nat), ports = (s.homes.map Prod.fst).filter (fun p => p / 128 == d) →
    (128 ≤ (s.dieAt d).nq.length → exec (.notificationRepost d) s = .next s) ∧
    ((s.dieAt d).nq.length < 128 → exec (.notificationRepost d) s = .next (ports.foldl State.repostRows (ports.foldl State.repostHot s)))) ∧
  (∀ (s : State) (port row : Nat), port < 512 → row < 393216 → (s.homeAt port).stalls (lineOf (rowPa port row)) = false →
    ∃ t, exec (.scrubStep port row 0 0) s = .next t ∧ (t.homeAt port).fixedOn = (s.homeAt port).fixed ∧ ((s.homeAt port).fixed = true → (t.homeAt port).curivl = 219) ∧
      ((s.homeAt port).fixed = false → (s.homeAt port).fixedOn = false → (s.homeAt port).revSteps < 4096 →
        (s.homeAt port).hotRows.any (fun e => e.2.row.toNat == row) = false → t.homeAt port = { s.homeAt port with scrSteps := (s.homeAt port).scrSteps + 1, revSteps := (s.homeAt port).revSteps + 1 }) ∧
      t.mem = s.mem ∧ t.poison = s.poison ∧ t.hearth = s.hearth ∧ t.dies = s.dies ∧ t.cores = s.cores) ∧
  (∀ (s : State) (port line : Nat), (thas s.hearth line && (s.hearthAt line).dirty) = false →
    s.scrubLine port line true false = (s.mapHome port (fun h => { h with scrCe := h.scrCe + 1, scrUe := h.scrUe + 0 })).raise (port / 128)
      { Raise.bare 0 4 with port := some port, addr := BitVec.ofNat 64 (line * 128), detail := port } ∧
    ∃ u : State, s.scrubLine port line false true = u.raise (port / 128) { Raise.bare 1 4 with port := some port, addr := BitVec.ofNat 64 (line * 128), detail := port } ∧
      (u.homeAt port).scrUe = (s.homeAt port).scrUe + 1 ∧ u.poison = ninsert s.poison (line * 128)) ∧
  (∀ (s : State) (line h : Nat) (va : Option (Nat × Word)), s.pkg.powered = true → line * 128 < hbmTop → h = homeOf (line * 128) →
    (thas s.hearth line = false →
      (∃ u : State, s.turn (.upset (.tier va line false)) = .next (u.raise (h / 128) (lineRaise 0 4 line va)) ∧ u.mem = s.mem ∧ u.poison = s.poison ∧
        u.hearth = s.hearth ∧ (u.homeAt h).demCe = (s.homeAt h).demCe + 1) ∧
      s.turn (.upset (.tier va line true)) = .next ((s.setPoison (line * 128) true).raise (h / 128) (lineRaise 1 4 line va))) ∧
    (thas s.hearth line = true → (s.hearthAt line).dirty = true → ∃ u : State,
      s.turn (.upset (.hearth va line true)) = .next ((u.raise (h / 128) (lineRaise 1 3 line va)).raise (h / 128) (lineRaise 15 3 line va)) ∧
      (u.hearthAt line).poison = true ∧ u.mem = s.mem ∧ u.cores = s.cores)) ∧
  (∀ (s : State) (core off : Nat) (flag : Bool) (va : Option Word), s.pkg.powered = true → core < 512 → sramAssigned (s.coreAt core) off = true →
    ∃ u : State, s.turn (.upset (.sram core off true flag va)) = .next (u.raise (dieOf core) (coreRaise s 0 core (off / 8 * 8) va true)) ∧ u.mem = s.mem ∧
      u.poison = ninsert s.poison (sramBase core + off / 8 * 8) ∧ u.full = if flag then nerase s.full (sramBase core + off / 8 * 8) else s.full) ∧
  (∀ (s : State) (a k : Nat), s.pkg.powered = true → a < 520 → k < (s.coreAt a).tlb.length → s.turn (.upset (.coreTlb a k)) =
    .next ((s.mapCore a (fun c => { c with tlb := c.tlb.eraseIdx k })).raise (dieOf a) { Raise.bare 14 0 with agent := some a, pc := (s.coreAt a).regs.pc })) ∧
  (∀ (s : State) (port : Nat), (s.homeAt port).fixedOn = false → 4096 ≤ (s.homeAt port).revSteps →
    ∃ t, exec (.scrubRateReview port) s = .next t ∧ (t.homeAt port).revSteps = 0 ∧ (t.homeAt port).revErrs = 0 ∧ (t.homeAt port).curivl.toNat =
      if 4 ≤ (s.homeAt port).revErrs then max 27 ((s.homeAt port).curivl.toNat / 2)
      else if (s.homeAt port).revErrs = 0 then min 219 (2 * (s.homeAt port).curivl.toNat) else (s.homeAt port).curivl.toNat) ∧
  (∀ (s : State) (port bank : Nat), port < 512 → bank < 16 →
    (∃ t, exec (.refreshDue port bank .done) s = .next t ∧ t.homeAt port = { s.homeAt port with due := ninsert (s.homeAt port).due bank }) ∧
    (∃ t, exec (.refreshDue port bank .pulledIn) s = .next t ∧ (t.homeAt port).postponed bank = (s.homeAt port).postponed bank - 1) ∧
    (∃ t, exec (.refreshDue port bank .postponed) s = .next t ∧
      ((s.homeAt port).postponed bank < 8 → (t.homeAt port).postponed bank = (s.homeAt port).postponed bank + 1 ∧ (t.homeAt port).allBank = (s.homeAt port).allBank) ∧
      (8 ≤ (s.homeAt port).postponed bank → (t.homeAt port).postpone = (s.homeAt port).postpone ∧ (t.homeAt port).allBank = true ∧
        ((s.homeAt port).allBank = false → (t.homeAt port).fabCnt = (s.homeAt port).fabCnt + 1))) ∧
    ((s.homeAt port).alerts.contains bank = false → (s.homeAt port).allBank = false → ∃ t, exec (.activationAlert port [bank]) s = .next t ∧
      (t.homeAt port).alerts = ninsert (s.homeAt port).alerts bank ∧ (t.homeAt port).rfmCnt = (s.homeAt port).rfmCnt + 1 ∧
      ((t.homeAt port).allBank = true ↔ (s.homeAt port).abActive = false ∧ (s.homeAt port).postponed bank = 8)) ∧
    ∀ n, (s.homeAt port).abActive = true → ∃ t, exec (.refreshComplete port n) s = .next t ∧ (t.homeAt port).abActive = false ∧
      (t.homeAt port).allBank = false ∧ (∀ b, (t.homeAt port).postponed b = 0) ∧ (t.homeAt port).due = [] ∧
      (t.homeAt port).latstall = (s.homeAt port).latstall + if (s.homeAt port).abAlert then BitVec.ofNat 64 n else 0) ∧
  (∀ (s : State) (channel bank n : Nat), bank < 64 → n = (tget 0 s.pkg.lpPost (64 * channel + bank)).toNat → ∃ t u,
    exec (.refreshDue (512 + channel) bank .postponed) s = .next t ∧ exec (.refreshDue (512 + channel) bank .pulledIn) s = .next u ∧
    exec (.refreshDue (512 + channel) bank .done) s = .next s ∧ (tget 0 u.pkg.lpPost (64 * channel + bank)).toNat = n - 1 ∧
    (n < 8 → (tget 0 t.pkg.lpPost (64 * channel + bank)).toNat = n + 1) ∧ (8 ≤ n → ∀ b < 64, tget 0 t.pkg.lpPost (64 * channel + b) = 0)) ∧
  ∀ (s : State) (d g lane : Nat), d < 4 → g < 64 → lane < 256 → (s.vbusAt d g).disabled = false →
    ((s.vbusAt d g).fails ≠ 3 → ∃ t, exec (.vbusCrcError d g lane) s = .next t ∧ t.fresh = s.fresh + 1 ∧ t.vbusAt d g = { s.vbusAt d g with replays := (s.vbusAt d g).replays + 1, lane := some lane, fails := if (s.vbusAt d g).lane = some lane ∧ Config.goodFrame s.fresh = false then BitVec.ofNat 2 (min ((s.vbusAt d g).fails.toNat + 1) 3) else 1 }) ∧
    ((s.vbusAt d g).fails = 3 → (s.vbusAt d g).steered = none → exec (.vbusLaneSteer d g) s =
      .next (((s.setVbus d g { s.vbusAt d g with steered := (s.vbusAt d g).lane, lane := none, fails := 0 }).mapDie d (fun y =>
        { y with vbusok := vbusokAdd y.vbusok 16 })).raise d { Raise.bare 11 3 with port := some (128 * d + 2 * g), detail := g }))

/-! ### The anvil -/

/-- 12 R242 to R250: what the next started command of an anvil does: a pass is staged from the bank that holds its billet, by an
implicit swap from the shadow bank, or ends NOBILLET; MLOADB begins a transfer of what it reads, or of nothing with a code; MSWAPB
exchanges the banks; MROTB hands the active billet to the next anvil, and with SWAPIN the shadow's moves up; MPROBE begins a probe set.
Whether the billet of an MLOADB is there already is settled by the round that starts it, which also enters any other command.
Readings of the model enter it: log entries 42, 44, 114 and 115. -/
def Obligations.AnvilCommands : Prop :=
  ∀ (s : State) (f : Nat) (x : AnvilCmd) (b : List AnvilCmd) (g : Forge), f < 64 → g = s.forgeAt f → g.execs = x :: b → x.stage = .started →
    (tcwOp x.cmd.tcw = 1 → s.StagesPass f x b (.mapply f)) ∧ (tcwOp x.cmd.tcw = 2 → s.StagesPass f x b (.mcolsum f)) ∧
    (tcwOp x.cmd.tcw = 3 → g.transfer = none → g.probing = false →
      (s.mapForge f (fun g => { g with execs := b })).readBillet x.cmd (loadOf g x.cmd.tcw).1 (loadOf g x.cmd.tcw).2 ≠ none →
        ∃ t tr, exec (.mloadb f) s = .next t ∧ (t.forgeAt f).execs = b ∧ (t.forgeAt f).shadow.valid = false ∧ (t.forgeAt f).transfer = some tr ∧
          tr.bank.id = (loadOf g x.cmd.tcw).1 ∧ (tr.bank.valid = true ↔ tr.code = 0) ∧ tr.cmd = (if x.reload.isSome then none else some x.cmd)) ∧
    (tcwOp x.cmd.tcw = 4 → g.transfer = none → g.probing = false →
      exec (.mswapb f) s = .next ((s.mapForge f (fun g => { g with execs := b, active := g.shadow, shadow := g.active })).anvilEnd x.cmd 0
        (if g.shadow.valid then g.shadow.id.toNat else 0))) ∧
    (tcwOp x.cmd.tcw = 5 → g.transfer = none → g.probing = false →
      (g.active.valid = false → exec (.mrotb f) s = .next ((s.mapForge f (fun g => { g with execs := b })).anvilEnd x.cmd (codeOf stBadop 0 0) 0)) ∧
      (∀ swap, swap = (tcwWord x.cmd.tcw 0).getLsbD 32 → g.active.valid = true →
        (s.forgeAt (ringNext f)).shadowFree = true →
        exec (.mrotb f) s = .next (((s.mapForge (ringNext f) (fun n =>
          { n with transfer := some { bank := g.active, cmd := none, code := 0, reload := none } })).mapForge f (fun g =>
          if swap then { g with execs := b, active := g.shadow, shadow := Bank.invalid } else { g with execs := b, active := Bank.invalid })).anvilEnd
            x.cmd 0 g.active.id.toNat))) ∧
    (tcwOp x.cmd.tcw = 6 → g.transfer = none → g.probe = .none →
      (g.active.valid = true → exec (.mprobe f) s = .next (s.mapForge f (fun g => { g with execs := b, probe := .reference g.fast (some x.cmd) }))) ∧
      (g.active.valid = false → exec (.mprobe f) s = .next ((s.mapForge f (fun g => { g with execs := b })).anvilEnd x.cmd (codeOf stBadop 0 0) 0))) ∧
    ∀ (u : State) (a : Nat) (y : Cmd) (id : BitVec 16), a / 8 = f → (u.coreAt a).q0 = [y] → (∀ c, c / 8 = f → c ≠ a → (u.coreAt c).q0 = []) →
      (u.forgeAt f).iftRun = false → (u.forgeAt f).execs.length < 4 → (u.headClass f (slotOf a)).2 = .free → anvilBad (u.coreAt a) y.tcw = false →
      (tcwOp y.tcw ∈ [4, 5, 6] → ∃ t, exec (.anvilArbiterRound f) u = .next t ∧ (t.coreAt a).q0 = [] ∧ (t.forgeAt f).execs =
        (u.forgeAt f).execs ++ [{ cmd := { y with record := none }, stage := .started, reload := none, block := [], poisoned := [] }]) ∧
      (tcwOp y.tcw = 3 → id = (loadOf (u.forgeAt f) y.tcw).1 →
        (loadForce y.tcw = false → ((u.forgeAt f).projected.1 = some id ∨ (u.forgeAt f).projected.2 = some id) → (u.forgeAt f).held (slotOf a) = [] →
          (u.coreAt a).cplRoom 0 = true → ∃ t, exec (.anvilArbiterRound f) u = .next t ∧ (t.coreAt a).q0 = [] ∧ (t.forgeAt f).execs = (u.forgeAt f).execs ∧
            ((t.coreAt a).cplQ 0).words = ((u.coreAt a).cplQ 0).words ++ if tcwCpl y.tcw then [cplWord y.tcw 0 id.toNat] else []) ∧
        ((loadForce y.tcw = true ∨ ((u.forgeAt f).projected.1 ≠ some id ∧ (u.forgeAt f).projected.2 ≠ some id)) →
          ∃ t z, exec (.anvilArbiterRound f) u = .next t ∧ (t.coreAt a).q0 = [] ∧ (t.forgeAt f).execs = (u.forgeAt f).execs ++ [z] ∧
            z.stage = .started ∧ z.reload = none ∧ ∀ h, (loadOf h z.cmd.tcw) = loadOf (u.forgeAt f) y.tcw))

/-- 12 R244, R247, R253, R255, R257 to R264, 06 R136: the anvil's own steps: a round, a pass, its drain, a holding buffer, the end of a
transfer, batch boundaries, probe sets and their update, and staleness. A drain writes one row of the result block after another, and
then the header; a pass that mismatches fills its retry record with the masks of the rows and columns that failed. A pass that starts in
quench counts. 02 R42 to R44: the codes of a pass keep the promise of its DEB, and at gain code 10 clip nothing, wherever any codes do;
so do those of its check symbol.
Readings of the model enter it: log entries 47, 50, 100, 101, 103, 104, 114, 115, 116 and 124. -/
def Obligations.AnvilSteps : Prop :=
  ∀ (s : State) (f : Nat) (g : Forge), f < 64 → g = s.forgeAt f →
    (∀ a, a / 8 = f → (s.coreAt a).q0 ≠ [] → g.iftRun = false → g.execs.length < 4 →
      exec (.anvilArbiterRound f) s = .next ((s.visits f 8 (tab id 0 8)).mapForge f (fun g => { g with startSlot := g.startSlot + 1 }))) ∧
    (∀ x b, g.execs = x :: b → x.stage = .staged → g.stale = false → (s.coreAt x.cmd.core).anvinj.getLsbD 63 = false →
      ∃ t p, exec (.anvilPass f) s = .next t ∧ (t.forgeAt f).execs = b ∧ (t.forgeAt f).drains = g.drains ++ [p] ∧ (t.forgeAt f).seq = g.seq + 1 ∧
        p.cmd = x.cmd ∧ p.block = x.block ∧ p.seq = g.seq + 1 ∧ p.nvec = passB x.cmd.tcw ∧ p.deb = g.debcur ∧ p.billet = g.active.id ∧
        p.codes.length = 64 * (p.nvec + 1) ∧ t.fresh = s.fresh + 64 * (p.nvec + 1) ∧ p.written = 0 ∧
        p.quench = (g.qmode == 1 || g.hotQuench) ∧ (t.forgeAt f).qact = p.quench ∧
        (t.forgeAt f).qnch.toNat = (if p.quench then min (g.qnch.toNat + 1) (2 ^ 32 - 1) else g.qnch.toNat) ∧
        p.esum = (if passKeep x.cmd.tcw then (if (s.coreAt x.cmd.core).skx.toInt = -512 then none else some (s.coreAt x.cmd.core).skx.toInt)
          else if passEa x.cmd.tcw = 0x80 then none else some ((passEa x.cmd.tcw).toInt + g.active.ew.toInt))) ∧
    (∀ x l d base, g.drains = x :: l → x.cmd.core / 8 = f → passDoff x.cmd.tcw % 32 = 0 → d = drainPass x s.fresh →
      base = sramBase x.cmd.core + passDoff x.cmd.tcw →
      (x.written < x.nvec → ∃ t, exec (.passDrain f) s = .next t ∧ (t.forgeAt f).drains = { x with written := x.written + 1 } :: l ∧
        t.mem = memPut s.mem (base + 32 + 128 * x.written) ((nth [] d.rows x.written).flatMap (fun v => toBytes 2 (v % 65536).toNat)) ∧
        ∀ k < 16, t.isFull (base + 32 + 128 * x.written + 8 * k) = true ∧
          t.poison.contains (base + 32 + 128 * x.written + 8 * k) = (x.cmd.unwound || x.poisoned.contains x.written)) ∧
      (x.nvec ≤ x.written → x.poisoned = [] → x.cmd.unwound = false → x.colsum = false → (s.dieAt (f / 16)).action 3 1 ≤ 1 → s.endsNow x.cmd 0 = true →
        ∃ t, exec (.passDrain f) s = .next t ∧ (t.forgeAt f).drains = l ∧ t.mem = memPut s.mem base (headerBytes x d (passClass x.cmd.tcw)) ∧
          (∀ k < 4, t.isFull (base + 8 * k) = true ∧ t.poison.contains (base + 8 * k) = false) ∧
          (d.rowmask = 0 → d.colmask = 0 → ((t.coreAt x.cmd.core).cplQ 0).words = ((s.coreAt x.cmd.core).cplQ 0).words ++
            if tcwCpl x.cmd.tcw then [cplWord x.cmd.tcw 0 (passAux x d)] else []) ∧
          ((d.rowmask ≠ 0 ∨ d.colmask ≠ 0) → ∀ k, x.cmd.record = some k → ∃ r, (t.coreAt x.cmd.core).recordAt k = r ∧ recHeld r = true ∧ recBusy r = false ∧
            r[1] = BitVec.ofNat 64 d.rowmask ∧ r[2] = BitVec.ofNat 64 d.colmask ∧ ((t.coreAt x.cmd.core).cplQ 0).words =
              ((s.coreAt x.cmd.core).cplQ 0).words ++ if tcwCpl x.cmd.tcw then [cplWord x.cmd.tcw 0 (passAux x d + 1024 + 16 * k.toNat)] else []))) ∧
    (∀ a h l, a / 8 = f → g.held (slotOf a) = h :: l → (s.coreAt a).cplRoom 0 = true →
      ∃ t, exec (.holdingBufferDrain a) s = .next (match h.freeze with | some n => t.interruptFor (f / 16) (t.mismatchRaise a n) | none => t) ∧
        (t.forgeAt f).held (slotOf a) = l ∧ ((t.coreAt a).cplQ 0).words = ((s.coreAt a).cplQ 0).words ++ [h.word]) ∧
    (∀ tr, g.transfer = some tr → ∃ u, (u.forgeAt f).transfer = none ∧
      exec (.shadowTransferEnd f) s = .next (match tr.cmd with
        | some k => u.anvilEnd k tr.code (if tr.code = 0 then tr.bank.id.toNat else 0)
        | none => u) ∧
      (tr.code = 0 → (u.forgeAt f).shadow = tr.bank ∧ (u.forgeAt f).dirFind tr.bank.id ≠ none) ∧
      (tr.code ≠ 0 → (u.forgeAt f).shadow = Bank.invalid)) ∧
    (∀ b l, g.bounds = b :: l → (∀ k ∈ b.before, k ∉ s.undrained f) → ∃ t, exec (.batchBoundary f) s = .next t ∧ t.forgeAt f =
      { g with bounds := l, batchSeq := b.seq, cur := if g.pend then g.tgt else g.cur, pend := false }) ∧
    (g.active.valid = true → g.probe = .none → (g.passStaged = false ∨ g.stale = true → ∃ t, exec (.probeSet f) s = .next t ∧
      t.forgeAt f = { g with probe := .reference g.fast none }) ∧ (g.passStaged = true → g.stale = false → exec (.probeSet f) s = .next s)) ∧
    (∀ fast k, g.probe = .reference fast k → ∃ t enob pherr, exec (.probeReferenceEnd f) s = .next t ∧ enob ≤ 151 ∧
      t.forgeAt f = { g with probe := .update fast k enob pherr }) ∧
    (∀ fast enob pherr, g.probe = .update fast none enob pherr → pherr ≤ g.driftLim → (if fast then 100 else 124) ≤ enob.toNat →
      ∃ t, exec (.probeUpdate f) s = .next t ∧ (t.forgeAt f).probe = .none ∧ (t.forgeAt f).enob = enob ∧
        (t.forgeAt f).debcur.toNat = enob.toNat - 4 ∧ (t.forgeAt f).pherr = pherr ∧ (t.forgeAt f).probeSeq = g.probeSeq + 1 ∧
        (t.forgeAt f).stale = false ∧ (t.forgeAt f).drift = g.drift ∧ (t.forgeAt f).lowdeb = g.lowdeb) ∧
    (g.stale = false → ∃ t, exec (.probeStaleTimeout f) s = .next t ∧ t.forgeAt f = { g with stale := true, staleRaised := false }) ∧
    ∀ (image gain deb : Nat) (adc : List (BitVec 32)) (rows : List (List Int)) (free v c : List (BitVec 10)) (ideals : List (List Int)),
      passCodes image gain deb adc rows free = v ++ c → v.length = 64 * rows.length → ideals = rows.map (idealOutputs image gain) →
      ((∃ n < 2 ^ (640 * rows.length), codesOk gain adc deb ideals n = true) →
        ∃ n, codesOk gain adc deb ideals n = true ∧ v = tab (codeOfPass n 0) 0 (64 * rows.length)) ∧
      (∀ check, check = [idealOutputs image gain (checkSymbol rows)] → (∃ n < 2 ^ 640, codesOk gain adc deb check n = true) →
        ∃ n, codesOk gain adc deb check n = true ∧ c = tab (codeOfPass n 0) 0 64)

/-! ### The engines -/

/-- 11 R217, R222, R227 to R234, R241, 08 R181: a start puts the head of a queue into a slot; a tongs or swage command reads and computes,
and then its writes land one by one; with the last it is done, and ends, its token and word written together. A collective operation
starts with a command of every member, for the core whose turn it is; its results land in rank order; it ends LINK when a path
between dies fails.
Readings of the model enter it: log entries 51, 52, 54, 64, 65, 66, 97, 107, 113, 123 and 134. -/
def Obligations.EngineCommands : Prop :=
  (∀ (s : State) (d slot : Nat) (x : Slot), x.done = false →
    (tfind (s.dieAt d).tongs slot = some x → ∀ f : State → Option Slot, f = (fun t => tfind (t.dieAt d).tongs slot) →
      (tcwOp x.cmd.tcw = 0x20 → s.SlotTurns x (runTcopy s x.cmd, 0) (.tcopy d slot) f) ∧
      (tcwOp x.cmd.tcw = 0x21 → s.SlotTurns x (runTcopy2 s x.cmd, 0) (.tcopy2 d slot) f) ∧
      (tcwOp x.cmd.tcw = 0x22 → s.SlotTurns x (runTgath s x.cmd, 0) (.tgath d slot) f) ∧
      (tcwOp x.cmd.tcw = 0x23 → s.SlotTurns x (runTscat s x.cmd, 0) (.tscat d slot) f) ∧
      (tcwOp x.cmd.tcw = 0x24 → s.SlotTurns x (runTfill s x.cmd, 0) (.tfill d slot) f) ∧
      (tcwOp x.cmd.tcw = 0x25 → s.SlotTurns x (runTpref s x.cmd, 0) (.tpref d slot) f)) ∧
    (tfind (s.dieAt d).swage slot = some x → ∀ f : State → Option Slot, f = (fun t => tfind (t.dieAt d).swage slot) →
      (tcwOp x.cmd.tcw = 0x10 → s.SlotTurns x (runSwage s x.cmd) (.sfact d slot) f) ∧
      (tcwOp x.cmd.tcw = 0x11 → s.SlotTurns x (runSwage s x.cmd) (.sfactq d slot) f))) ∧
  (∀ (s : State) (d a k : Nat) (c : Cmd) (l : List Cmd), d < 4 →
    (freeSlot 16 (s.dieAt d).tongs = some k →
      (roundRobin d (s.dieAt d).rrTongs).find? (fun a => s.headStarts a 1 4 (s.dieAt d).tongs) = some a → (s.coreAt a).q2 = c :: l →
      ∃ t, exec (.engineStart d .tongs) s = .next t ∧ (t.coreAt a).q2 = l ∧ (t.dieAt d).rrTongs = (localOf a + 1) % 128 ∧
        tfind (t.dieAt d).tongs k = some { cmd := c, todo := [], done := false, code := 0, aux := 0, dest := [] }) ∧
    (freeSlot 2 (s.dieAt d).swage = some k →
      (roundRobin d (s.dieAt d).rrSwage).find? (fun a => s.headStarts a 3 1 (s.dieAt d).swage) = some a → (s.coreAt a).q6 = c :: l →
      ∃ t, exec (.engineStart d .swage) s = .next t ∧ (t.coreAt a).q6 = l ∧ (t.dieAt d).rrSwage = (localOf a + 1) % 128 ∧
        tfind (t.dieAt d).swage k = some { cmd := c, todo := [], done := false, code := 0, aux := 0, dest := [] })) ∧
  (∀ (s : State) (d slot : Nat) (x : Slot), tfind (s.dieAt d).tongs slot = some x → x.done = true → x.cmd.unwound = false →
    (wantsWord x.cmd.tcw x.code = false ∨ (s.coreAt x.cmd.core).cplRoom ((engOf (tcwOp x.cmd.tcw)).getD 0) = true →
      ∃ t, exec (.commandEnd d .tongs slot) s = .next t ∧ t.coreAt x.cmd.core = (s.coreAt x.cmd.core).finish x.cmd x.code x.aux.toNat ∧
        (t.dieAt d).tongs = tdel (s.dieAt d).tongs slot) ∧
    (wantsWord x.cmd.tcw x.code = true → (s.coreAt x.cmd.core).cplRoom ((engOf (tcwOp x.cmd.tcw)).getD 0) = false →
      exec (.commandEnd d .tongs slot) s = .next s)) ∧
  (∀ (s : State) (k : Nat) (o : BitVec 8) (m : CollMember) (ms : List CollMember), s.colls[k]? = some (o, m :: ms) →
    (o = 0x30 → s.CollTurns k o m ms (.creds k)) ∧ (o = 0x31 → s.CollTurns k o m ms (.cgath k)) ∧
    (o = 0x32 → s.CollTurns k o m ms (.cbcast k)) ∧ (o = 0x33 → s.CollTurns k o m ms (.callred k)) ∧
    ((m :: ms).any CollMember.done = false → (∃ y ∈ ms, dieOf y.cmd.core ≠ dieOf m.cmd.core) → ∃ t, exec (.dieToDiePathFailure k) s = .next t ∧
      t.colls[k]? = some (o, (m :: ms).map (fun y => { y with todo := [], done := true, code := codeOf stLink 0 0 })))) ∧
  ∀ (s s1 u : State) (a : Nat) (k k1 : Cmd) (q : List Cmd) (l : List Nat) (heads : List Cmd) (ms : List (Cmd × List Nat)), a < 512 →
    (s.collTurn (dieOf a) ≠ some a → exec (.collectiveStart a) s = .next s) ∧
    ((s.coreAt a).q4 = k :: q → s.collReady k = true → s.collTurn (dieOf a) = some a →
      (collOk k.tcw = false → ∃ t, exec (.collectiveStart a) s = .next t ∧ (t.dieAt (dieOf a)).rrColl = (localOf a + 1) % 128 ∧
        t.colls = s.colls ++ [(BitVec.ofNat 8 (tcwOp k.tcw), [{ cmd := k, todo := [], done := true, code := codeOf stBadop 0 0, dest := [] }])]) ∧
      (collOk k.tcw = true → s.readList k = .ok (s1, k1, l) → listOk k1 l = true → heads.length = l.length →
        heads = l.filterMap (fun m => ((s1.coreAt m).q4.head?).filter (fun x =>
          tcwOp x.tcw == tcwOp k1.tcw && collId x.tcw == collId k1.tcw && s1.collReady x)) →
        s1.readLists heads = (u, ms) → ms.length = l.length → ∃ t code, exec (.collectiveStart a) s = .next t ∧
          (t.dieAt (dieOf a)).rrColl = (localOf a + 1) % 128 ∧ code = (if ms.all (fun x => collAgree k1.tcw x.1.tcw && decide (x.2 = l)) then none
            else some (codeOf stBadop 0 0)) ∧
          t.colls = u.colls ++ [(BitVec.ofNat 8 (tcwOp k1.tcw), ms.map (fun x =>
            { cmd := x.1, todo := [], done := code.isSome, code := code.getD 0, dest := [] }))]))

/-- 11 R235 to R237, 13 R288 to R291, 14 R321 to R324: migration and save commands: MIGR begins a move or ends with its status, MIGRA aborts
a move that still copies, MEVAC begins an evacuation, a line is copied, the last one makes the move switch, a switch and an abort
write the leaf and end the move; SVCTX and RSCTX; a core stops for a forced save, and a task whose cores have drained is saved.
Readings of the model enter it: log entries 59, 60, 62, 67, 68, 69, 70 and 127. -/
def Obligations.MigrationAndSave : Prop :=
  (∀ (s : State) (d : Nat) (k : Cmd) (q : List Cmd), (s.dieAt d).migPort.queue = k :: q → (s.dieAt d).migEnded = [] →
    (tcwOp k.tcw = 0x40 →
      (migOk k.tcw = false → exec (.migr d) s = .next ((s.migPop d).migEnd d k stBadop 0)) ∧
      (migOk k.tcw = true → ∀ r, r = (s.migPop d).startMove d (tcwWord k.tcw 1) (tcwWord k.tcw 2) k none →
        (∀ t, r = .moves t → exec (.migr d) s = .next t) ∧ (∀ st, r = .fails st → exec (.migr d) s = .next ((s.migPop d).migEnd d k st 0)) ∧
        (r = .wait → exec (.migr d) s = .next s))) ∧
    (tcwOp k.tcw = 0x41 → migOk k.tcw = true → ∀ r, r = findMove (s.dieAt d).migs (tcwF k.tcw 1 48 9) (tcwF k.tcw 1 0 48) →
      (∀ i e, r = some (i, e) → e.phase = 0 →
        exec (.migra d) s = .next (((s.migPop d).mapDie d (fun x => { x with migs := tset x.migs i { e with phase := 2 } })).migEnd d k stOk 0)) ∧
      (r = none → exec (.migra d) s = .next ((s.migPop d).migEnd d k stNotfound 0))) ∧
    (tcwOp k.tcw = 0x42 → migOk k.tcw = true → (s.dieAt d).evacs = [] → ∃ t, exec (.mevac d) s = .next t ∧ (t.dieAt d).migPort.queue = q ∧
      (t.dieAt d).evacs = [{ cmd := k, next := 0, failed := none, pois := 0 }])) ∧
  (∀ (s : State) (d k : Nat) (e : MigEntry), tfind (s.dieAt d).migs k = some e → e.ended = none →
    (∀ line over', line = e.src / 128 + e.next → over' = e.dst / 128 + e.next → e.phase = 0 → e.next < migBytes e / 128 →
      s.reachable e.src = true → s.reachable e.dst = true → s.gone e.src = false → s.gone e.dst = false → s.linkDown e.dst = false →
      s.lostHome over' = false → s.homeHeld line = false → s.homeHeld over' = false → (∀ p ∈ s.pushes, p.line ≠ line) →
      (∀ a x, x ∈ (s.coreAt a).l1 ++ (s.coreAt a).l2 → x.line = line → x.dirty = 0) →
      ∃ t e', exec (.migrationLineCopy d k) s = .next t ∧ tfind (t.dieAt d).migs k = some e' ∧ e'.next = e.next + 1 ∧ e'.src = e.src ∧ e'.dst = e.dst ∧
        e'.phase = (if e.next + 1 = migBytes e / 128 then 1 else 0) ∧
        (thas s.hearth line = true → thas s.hearth over' = true → over' * 128 < hbmTop → s.homePoison line = false → t.homeLine over' = s.homeLine line)) ∧
    (e.phase = 1 → s.landAll.moveInFlight e = false →
      exec (.migrationSwitch d k) s = .next ((s.landAll.writeLeaves d e .switches).endMove d k e stOk)) ∧
    (e.phase = 2 → s.landAll.moveInFlight e = false →
      exec (.migrationAbort d k) s = .next (((s.landAll.writeLeaves d e .aborts).endMove d k e stMigabort).raise d
        { Raise.bare 8 6 with addr := canon (e.va.zeroExtend 64), detail := k, asid := some e.asid })) ∧
    (s.landAll.moveInFlight e = true → (e.phase = 1 → exec (.migrationSwitch d k) s = .next s.landAll) ∧
      (e.phase = 2 → exec (.migrationAbort d k) s = .next s.landAll))) ∧
  (∀ (s : State) (d a : Nat) (k : Cmd) (q : List Cmd), (s.dieAt d).savePort.queue = k :: q → (s.dieAt d).saveEnded = [] → saveOk k.tcw = true → a = 128 * d + tcwF k.tcw 1 0 7 →
    (tcwOp k.tcw = 0x48 →
      ((s.coreAt a).bound = none →
        (tcwF k.tcw 1 8 2 = 0 → exec (.svctxRequest d) s = .next ((s.savePop d).saveEnd d k stNotask)) ∧
        (tcwF k.tcw 1 8 2 = 1 → exec (.svctxForced d) s = .next ((s.savePop d).saveEnd d k stNotask)) ∧
        (tcwF k.tcw 1 8 2 = 2 → exec (.svctxFrozen d) s = .next ((s.savePop d).saveEnd d k stNotask))) ∧
      ∀ b e, (s.coreAt a).bound = some (b, e) →
        (tcwF k.tcw 1 8 2 = 0 → exec (.svctxRequest d) s = .next (((s.savePop d).mapCore a (fun c => { c with supv := true })).saveEnd d k stOk)) ∧
        (tcwF k.tcw 1 8 2 = 1 → ∃ t, exec (.svctxForced d) s = .next t ∧ (t.coreAt a).force = (s.coreAt a).force ++ [k] ∧
          ∀ x ∈ s.boundCores b e, (t.coreAt x).forced = true) ∧
        (tcwF k.tcw 1 8 2 = 2 → ((s.coreAt a).status = .running → exec (.svctxFrozen d) s = .next ((s.savePop d).saveEnd d k stBadop)) ∧
          ∀ cls, (s.coreAt a).status = .frozen cls → (s.coreAt a).crdepth = 0 → s.boundCores b e = [a] → (s.coreAt a).save = none →
            ∃ t j, exec (.svctxFrozen d) s = .next t ∧ (t.coreAt a).save = some j ∧ j.kind = 2 ∧ j.cmds = [k])) ∧
    (tcwOp k.tcw = 0x49 →
      ((s.coreAt a).bound ≠ none → tcwF k.tcw 2 0 52 % 16384 = 0 → exec (.rsctx d) s = .next ((s.savePop d).saveEnd d k stBusy)) ∧
      ((s.coreAt a).bound = none → (s.coreAt a).status = .idle → tcwF k.tcw 2 0 52 % 16384 = 0 → (s.savePop d).imgOk (tcwF k.tcw 2 0 52) = none →
        exec (.rsctx d) s = .next ((((s.savePop d).reload a a (tcwF k.tcw 3 0 5) (tcwF k.tcw 2 0 52)).restarted a (tcwF k.tcw 3 0 5)).saveEnd d k stOk)))) ∧
  ∀ (s : State) (a : Nat),
    (s.stopsHere a = true → exec (.save a) s = .next (s.stopForced a)) ∧
    ∀ j b k (cores : List Nat), s.stopsHere a = false → (s.coreAt a).save = some j → (s.coreAt a).bound = some (b, k) → cores = s.boundCores b k →
      (cores.all s.saveReady = false → exec (.save a) s = .next s) ∧
      (cores.all s.saveReady = true →
        ((∃ c ∈ cores, ∃ h ∈ (s.forgeAt (forgeOf c)).held (slotOf c), h.freeze ≠ none) → exec (.save a) s = .next (s.each cores State.freezeHeld)) ∧
        ((∀ c ∈ cores, ∀ h ∈ (s.forgeAt (forgeOf c)).held (slotOf c), h.freeze = none) → ∀ t, t = s.each cores (fun t c => t.relEffect c) →
          ((∃ c ∈ cores, t.incomplete c = true ∨ t.imageHeld c b k = true) → exec (.save a) s = .next t) ∧
          ((∀ c ∈ cores, t.incomplete c = false ∧ t.imageHeld c b k = false) → exec (.save a) s = .next (t.writeSave b k cores))))

/-! ### The scheduler -/

/-- 14 R302 to R305, R318, R321, 04 R77: aging; a dispatch gives the core its registers, context and priority; a restore; gang
reservation and dispatch; posts by the launch unit; a co-start team; a late pre-emption.
Readings of the model enter it: log entries 36, 71, 77, 128 and 129. -/
def Obligations.Scheduling : Prop :=
  (∀ (s : State) (a k : Nat) (e : WttEntry), a < 512 → k < 32 → e = (s.coreAt a).entry k → wttReady e = true → ∃ t, exec (.taskAgingTick a k) s = .next t ∧
    (t.coreAt a).entry k = { e with age := e.age + 1, eprio := if e.age = 255 then BitVec.ofNat 3 (min (e.eprio.toNat + 1) 7) else e.eprio }) ∧
  (∀ (s : State) (a k : Nat) (e : WttEntry), a < 512 → k < 32 → e = (s.coreAt a).entry k → (s.coreAt a).free = true → s.selection a = some k →
    s.gangOver a = none → (s.forgeAt (forgeOf a)).iftWant = false → imageGmask e.image = 0 →
    (e.state = .preempted → exec (.restore a k) s = .next (s.restoreTask a k) ∧ exec (.dispatch a) s = .next (s.restoreTask a k)) ∧
    (e.state = .eligible → s.teamCopy a = none → (s.ctxEntry (dieOf a) (imageAsid e.image))[0].getLsbD 0 = true →
      ∃ t, exec (.dispatch a) s = .next t ∧ (t.coreAt a).status = .running ∧ (t.coreAt a).bound = some (a, k) ∧ (t.coreAt a).runPrio = e.eprio ∧
        (t.coreAt a).regs = { Regs.zero with pc := imagePc e.image, s := Regs.zero.s.set 3 e.image[1] } ∧
        (t.coreAt a).ctx = ctxFrom (imageAsid e.image) (s.ctxEntry (dieOf a) (imageAsid e.image)) ∧ (t.coreAt a).crdepth = 0 ∧
        (t.coreAt a).entry k = { e with state := .running, rsv := false } ∧
        (t.coreAt a).mcAt (imageCsel e.image) = (s.coreAt a).mcAt (imageCsel e.image) - BitVec.ofNat 32 (imageThr e.image))) ∧
  (∀ (s : State) (g b k : Nat) (e : WttEntry), g < 64 → e = (s.coreAt b).entry k →
    ((s.forgeAt g).gangRes = none → s.gangPick g = some (b, k) → exec (.gangReservation g) s = .next
      (((s.mapCore b (fun c => c.setEntry k { c.entry k with rsv := true, asked := none })).mapForge g (fun x =>
        { x with gangRes := some (b, k) })).each (tab id (8 * g) 8) State.reserveGang)) ∧
    ((s.forgeAt g).gangRes = some (b, k) → (∀ a ∈ taskCores b e, (s.coreAt a).reserved = some (.gang b k)) →
      (e.state = .preempted → exec (.gangDispatch g) s = .next ((s.mapForge g (fun x => { x with gangRes := none })).restoreTask b k)) ∧
      (e.state = .eligible → ∃ t, exec (.gangDispatch g) s = .next t ∧ ∀ a ∈ taskCores b e, (t.coreAt a).gang = some
        { mask := imageGmask e.image, lslot := BitVec.ofNat 3 (slotOf b), pos := BitVec.ofNat 3 (taskPos a b e), issued := 0, runtime := false, led := true }))) ∧
  (∀ (s : State) (a : Nat) (l : Launch) (rest : List Launch), s.pkg.launches = l :: rest → a ∈ l.cores → l.idx < 32 → l.costart = false →
    wttOpen ((s.coreAt a).entry l.idx) = true → ∃ t, exec (.launchUnitPost a) s = .next t ∧
      (t.coreAt a).entry l.idx = ((s.coreAt a).entry l.idx).post (launchImage l) ∧
      t.pkg.launches = (if l.cores.filter (fun x => x != a) = [] then rest else { l with cores := l.cores.filter (fun x => x != a) } :: rest)) ∧
  (∀ (s : State) (x : Team) (rest : List Team), s.pkg.teams = x :: rest →
    (∀ a ∈ x.cores, (s.coreAt a).reserved = some (.team x.id.toNat) ∧ s.teamCopy a ≠ none) →
    exec (.costartDispatch x.id.toNat) s = .next ((s.each x.cores (fun u a => (u.startEntry a x.idx).dispatchOn a a x.idx)).mapPkg (fun g =>
      { g with teams := rest }))) ∧
  ∀ (s : State) (a : Nat) (c : Core), a < 512 → c = s.coreAt a → s.pend a = true → c.overdue = false → c.preBudget ≠ 0 →
    ∃ p sup, exec (.prebudgetExpiry a) s = .next ((s.mapCore a (fun c => { c with overdue := true })).sendPacket (dieOf a) sup p none) ∧
      fld p[0] 56 8 = 0x18 ∧ fld p[0] 52 1 = 1 ∧ fld p[0] 30 10 = a ∧ p[1] = c.regs.pc

/-! ### Outside the cores -/

/-- 15 R344, R345, 17 R377 to R382, 01 R20: in-field tests, island clocks and voltages, droops, brown-out, the power cap, and heat.
Readings of the model enter it: log entries 5, 19, 86 and 87. -/
def Obligations.PowerAndHeat : Prop :=
  (∀ (s : State) (g : Nat) (f : Forge), g < 64 → f = s.forgeAt g →
    (f.iftWant = true → f.iftRun = false → f.gangRes = none → (∀ a, a / 8 = g → (s.coreAt a).testable = true) →
      ∃ t, exec (.inFieldTest g) s = .next t ∧ t.forgeAt g = { f with iftRun := true, iftWant := false } ∧
        ∀ a, a / 8 = g → (t.coreAt a).reserved = some .test) ∧
    (f.iftRun = true →
      (∃ t, exec (.inFieldTestEnd g .pass) s = .next t ∧ t.forgeAt g = { f.dropBillets with iftRun := false, iftRuns := f.iftRuns + 1, iftLast := 1, chunks := 0, homes := 0, pkgs := 0 } ∧
        ∀ a, a / 8 = g → (t.coreAt a).reserved ≠ some .test) ∧
      ∀ r n, (r, n) ∈ [(TestResult.failCore, 0), (.failAnvil, 1)] → ∃ t : State, exec (.inFieldTestEnd g r) s = .next (t.raise (g / 16) { Raise.bare 10 n with forge := some g }) ∧
        t.forgeAt g = { f.dropBillets with iftRun := false, iftRuns := f.iftRuns + 1, iftLast := 2 }) ∧
    (f.iftIvl ≠ 0 → ∃ t, exec (.iftInterval g) s = .next t ∧ t.forgeAt g = { f with iftWant := true }) ∧
    ∃ t, exec (.iftStart g) s = .next t ∧ t.forgeAt g = { f with iftWant := true }) ∧
  (∀ (s : State) (d q : Nat) (i : Island), d < 4 → q < 32 → i = s.islandAt d q →
    (i.relock = true → ∃ t c, exec (.islandRelock d q) s = .next t ∧ t.islandAt d q = { i with locked := i.freq, relock := false, applied := c } ∧
      (i.capSteps = 0 → i.hotSteps = 0 → c.toNat = i.freq.toNat)) ∧
    (∀ v : Word, ∃ t, exec (.islctlWrite d q v) s = .next t ∧ (t.islandAt d q).freq.toNat = max 16 (min 48 (v.toNat % 64)) ∧
      (t.islandAt d q).vset.toNat = v.toNat / 2 ^ 24 % 256 ∧ (t.islandAt d q).vfix = v.getLsbD 9 ∧ (t.islandAt d q).droop = v.getLsbD 8 ∧
      (t.islandAt d q).applied = i.applied ∧ (t.islandAt d q).locked = i.locked ∧ ((t.islandAt d q).freq ≠ i.freq → (t.islandAt d q).relock = true) ∧
      (v.getLsbD 9 = true → v.toNat / 2 ^ 24 % 256 ≤ (t.islandAt d q).vcur.toNat)) ∧
    (∃ t, exec (.voltageLoopAdjust d q) s = .next t ∧ (t.islandAt d q).applied = i.applied ∧ (i.vfix = true → i.vset.toNat ≤ (t.islandAt d q).vcur.toNat)) ∧
    (i.droop = false → i.stretch = false →
      exec (.droopStretch d q) s = .next ((s.mapIsland d q (fun i => { i with stretch := true })).raise d
        { Raise.bare 13 0 with detail := q, behalf := some (128 * d + 4 * q) })) ∧
    (i.droop = true → exec (.droopStretch d q) s = .next ((quadCores d q).foldl (fun t a => t.droopFreeze d q a) s)) ∧
    (∃ t, exec (.droopRecover d q) s = .next t ∧ t.islandAt d q = { i with stretch := false }) ∧
    (∀ temp : BitVec 8, 100 ≤ temp.toNat → i.hot = false → exec (.junctionHot d q temp) s = .next (((s.mapIsland d q (fun i => { i with junction := temp })).mapIsland d q
      (fun i => { i with hot := true })).raise d { Raise.bare 12 0 with detail := q, behalf := some (128 * d + 4 * q) })) ∧
    (∀ temp : BitVec 8, i.hot = true → ∃ t, exec (.throttleStep d q temp) s = .next t ∧ (t.islandAt d q).junction = temp ∧
      (temp.toNat < 97 → (t.islandAt d q).hot = false ∧ (t.islandAt d q).hotSteps = 0) ∧
      (97 ≤ temp.toNat → (t.islandAt d q).hot = true ∧
        (t.islandAt d q).hotSteps.toNat = min (i.hotSteps.toNat + 1) 255 ∧ (t.islandAt d q).applied = (t.islandAt d q).clock))) ∧
  (∀ i : Island, i.clock.toNat = max (max (i.locked.toNat - i.capSteps.toNat) ((i.locked.toNat + 1) / 2) - i.hotSteps.toNat)
    (min (max (i.locked.toNat - i.capSteps.toNat) ((i.locked.toNat + 1) / 2)) 16)) ∧
  (∀ (s : State) (g : Nat) (temp : BitVec 8), g < 64 →
    (∃ t, exec (.converterRowHot g temp) s = .next t ∧
      t.forgeAt g = { s.forgeAt g with rowTemp := temp, hotQuench := (s.forgeAt g).hotQuench || decide (95 ≤ temp.toNat) }) ∧
    (∃ t, exec (.quenchExit g temp) s = .next t ∧
      t.forgeAt g = { s.forgeAt g with rowTemp := temp, hotQuench := (s.forgeAt g).hotQuench && decide (90 ≤ temp.toNat) }) ∧
    exec (.photonicHot g) s = .next (s.raise (g / 16) { Raise.bare 12 1 with forge := some g })) ∧
  (∀ s : State,
    (∃ t, exec .brownoutHold s = .next t ∧ t.pkg = { s.pkg with hold := true }) ∧
    (s.pkg.hold = true → s.pkg.cmds = [] → ∃ t u : State, u = t.each (tab id 0 4) (fun t d => t.raise d (Raise.bare 13 0)) ∧
      t.pkg.hold = false ∧ t.pkg.pwrHold = true ∧ t.cores = s.cores ∧
      exec .brownoutResume s = .next (match s.pkg.resetAsked with | some x => u.warm x | none => u)) ∧
    ∃ t, exec .thermalTrip s = .next t ∧ t.pkg.trip = true ∧ t.pkg.alert = true ∧ 110 ≤ t.pkg.tripTemp.toNat ∧ t.cores = s.cores ∧ ∀ a, t.stalled a = true) ∧
  ∀ (s : State) (avg : BitVec 16),
    (∃ t, exec (.powerCapStep avg) s = .next t ∧ t.pkg.pwrAvg = avg ∧ t.pkg.pwrPeak.toNat = max s.pkg.pwrPeak.toNat avg.toNat ∧
      (avg.toNat ≤ s.pkg.pwrcap.toNat → t.dies = s.dies ∧ t.pkg.capping = s.pkg.capping) ∧ (s.pkg.pwrcap.toNat < avg.toNat → t.pkg.capping = true)) ∧
    ∃ t, exec (.powerCapRestore avg) s = .next t ∧ t.pkg.pwrAvg = avg ∧ t.pkg.pwrPeak.toNat = max s.pkg.pwrPeak.toNat avg.toNat ∧
      (s.pkg.pwrcap.toNat * 95 ≤ avg.toNat * 100 → t.dies = s.dies ∧ t.pkg.capping = s.pkg.capping) ∧
      (avg.toNat * 100 < s.pkg.pwrcap.toNat * 95 → t.pkg.capping = false)

/-- 17 R363, R368, R373 to R376, R383: cold and warm boots, the host commands, the sideband bus, and the loss of power. What the
flash window answers at each stage is the model's choice (log entry 85).
Readings of the model enter it: log entries 79, 80, 81, 82, 83, 84, 85, 112 and 132. -/
def Obligations.BootsAndCommands : Prop :=
  (∀ (s : State) (x : BootInputs) (h : ImageHeader), s.pkg.bootNext = 0 → s.pkg.fwctl = false → s.pkg.slotImage[0] = none → x.slotA = some h →
    (h.signed = true → h.key = Config.fusedKey → Config.fusedSvn.toNat ≤ h.svn.toNat → x.trained = 0xFF → x.failForges = [] → x.lostHomes = [] → x.vbus = [] →
      (∃ t, exec (.coldBoot x) s = .next t ∧ t.pkg.bootStage = 6 ∧ t.pkg.bootCode = 0 ∧ t.pkg.bootSlot = 0 ∧ t.pkg.bootSvn = h.svn ∧ t.pkg.fwMaj = 2 ∧
        t.pkg.fwMin = h.fwMin ∧ t.pkg.bootDigest = h.digest ∧ t.pkg.powered = true ∧ t.pkg.trip = false ∧ t.cores = [] ∧ t.homes = [] ∧ t.hearth = [] ∧ t.full = [] ∧
        t.mem = keepCells s.mem cxlBase cxlTop) ∧
      ∃ t, s.warm x = t ∧ t.pkg.bootStage = 6 ∧ t.pkg.trip = s.pkg.trip ∧ (s.pkg.bootStage = 6 → t.pkg.hdm = s.pkg.hdm) ∧ t.cores = [] ∧ t.hearth = [] ∧
        t.full = [] ∧ t.mem = keepCells s.mem 0 cxlTop) ∧
    (s.pkg.slotImage[1] = none → x.slotB = some h → ∀ n : Nat, (h.signed = false ∨ h.key ≠ Config.fusedKey) ∧ n = 1 ∨
      (h.signed = true ∧ h.key = Config.fusedKey ∧ h.svn.toNat < Config.fusedSvn.toNat) ∧ n = 2 →
      ∃ t, exec (.coldBoot x) s = .next t ∧ t.pkg.bootStage = 15 ∧ t.pkg.bootCode.toNat = n)) ∧
  (∀ (s : State) (x : BootInputs), x.slotA = none → x.slotB = none → ∃ t, exec (.coldBoot x) s = .next t ∧ t.pkg.bootStage = 15 ∧ t.pkg.bootCode = 3 ∧
    ∀ a, 512 ≤ a → a < 520 → (t.coreAt a).status = .parked) ∧
  (∀ (s : State) (x : BootInputs) (n : BitVec 4) (w : Vector Word 4),
    (∀ k, exec (.pcieReset k x) s = .next (if s.pkg.hold then s.mapPkg (fun g => { g with resetAsked := some x }) else s.warm x)) ∧
    (s.pkg.cmds = [] → s.pkg.hold = false → exec (.warmReset x) s = .next (s.warm x)) ∧
    (s.pkg.cmds = [] → exec (.postTransport x) s = .next (s.transportTest x)) ∧
    (s.pkg.cmds = [.host n w] → ∀ q : State, q = s.mapPkg (fun g => { g with cmds := [] }) →
      (n = 1 → exec (.hostcmdWarmReset x) s = .next (if s.pkg.hold then s else q.warm x)) ∧
      (n = 2 → exec (.hostcmdPostTransport x) s = .next (q.transportTest x)) ∧
      (n ≠ 1 → exec (.hostcmdWarmReset x) s = .next s) ∧ (n ≠ 2 → exec (.hostcmdPostTransport x) s = .next s)) ∧
    (x.trained = 0xFF → x.lostHomes = [] → s.pkg.atf = [] → ∀ g, g < 64 → ((s.transportTest x).forgeAt g).iftWant = true)) ∧
  (∀ (s : State) (w : Vector Word 4) (h : ImageHeader) (flash : Bool),
    (s.pkg.cmds = [.host 3 w] → ∃ t, exec .hostcmdQuote s = .next t ∧ t.pkg.cmds = [] ∧
      t.pkg.quote = some { nonce := w, digest := s.pkg.bootDigest, feat := featWord s.pkg 0, boot := bootWord s.pkg, n := s.fresh }) ∧
    (s.pkg.cmds = [.host 4 w] → h = Config.stagedImage s.pkg.staging → ∃ t, exec (.hostcmdFwCommit flash) s = .next t ∧ t.pkg.cmds = [] ∧
      (h.signed = true → h.key = Config.fusedKey → Config.fusedSvn.toNat ≤ h.svn.toNat →
        if flash then t.pkg.fwstat = 1 ∧ t.pkg.bootNext = ~~~s.pkg.bootSlot else t.pkg.fwstat = 0x302 ∧ t.pkg.bootNext = s.pkg.bootNext) ∧
      (h.signed = false ∨ h.key ≠ Config.fusedKey → t.pkg.fwstat = 0x102 ∧ t.pkg.bootNext = s.pkg.bootNext) ∧
      (h.signed = true → h.key = Config.fusedKey → h.svn.toNat < Config.fusedSvn.toNat → t.pkg.fwstat = 0x202 ∧ t.pkg.bootNext = s.pkg.bootNext))) ∧
  (∀ (s : State) (x : BootInputs) (v : Word) (off : Nat), s.pkg.cmds ≠ [] → ∀ y, y ∈ [(Instr.readStatus, PkgCmd.readStatus), (.warmReset x, .warmReset x),
    (.postTransport x, .postTransport x), (.setCap v, .setCap v), (.readFeat, .readFeat), (.flashWindow off, .flashWindow off)] →
    exec y.1 s = .next (s.mapPkg (fun g => { g with cmds := g.cmds ++ [y.2] }))) ∧
  ∀ s : State,
    (s.pkg.cmds = [] → exec .readStatus s = .next (s.answer (.block [bootWord s.pkg, pwrWord s.pkg, s.thermWord])) ∧
      exec .readFeat s = .next (s.answer (.block [featWord s.pkg 0, featWord s.pkg 1, featWord s.pkg 2, featWord s.pkg 3])) ∧
      (∀ v : Word, ∃ t, exec (.setCap v) s = .next t ∧ t.pkg.pwrcap.toNat = max 600 (min 1500 (v.toNat % 2 ^ 16))) ∧
      (∀ off, (s.pkg.bootStage ≠ 0 → exec (.flashWindow off) s = .next (s.answer .nack)) ∧
        (s.pkg.bootStage = 0 → ∃ ws, exec (.flashWindow off) s = .next (s.answer (.block ws)) ∧ ws.length = 4)) ∧
      ∀ code : BitVec 8, s.pkg.powered = true → ¬(1 ≤ code.toNat ∧ code.toNat ≤ 5 ∨ code = 0x10) → s.turn (.sideband code) = .next (s.answer .nack)) ∧
    (∃ t, exec .hostLinkDown s = .next t ∧ t.pkg.hostUp = false ∧ t.pkg.hostOut = s.pkg.hostOut) ∧
    (∃ t, exec .hostLinkUp s = .next t ∧ t.pkg.hostUp = true ∧ t.pkg.hostOut = [] ∧ t.pkg.sent = s.pkg.hostOut.reverse ++ s.pkg.sent) ∧
    ∃ t, exec .powerRemoval s = .next t ∧ t.pkg.powered = false ∧ t.cores = [] ∧ t.mem = keepCells s.mem cxlBase cxlTop

/-- 17 R364 to R372, 16 R357, R359, 14 R304, R305, R310, 11 R235, R239, 07 R146, R151, 13 R294, 09 R196 to R199: what the host, the fabric
and register writes with rows of their own do. A read of the device waits behind the posted writes; a BAR0 write of another size is an
unsupported request, and a BAR2 access without storage a completer abort. A load or store in the event-unit range acts as EVWAIT or EVSIG.
Readings of the model enter it: log entries 20, 48, 88, 89, 92 and 95. -/
def Obligations.HostPort : Prop :=
  (∀ (s : State) (off n v : Nat) (l : List Byte), s.pkg.hostUp = true → s.pkg.hostWrites = [] → l = toBytes n v →
    (off % 8 = 0 → evSelector off = none → n = 8 →
      exec (.hostMemRead .bar0 off 8) s = .next ((s.mmioRead s.slotClass off).1.answer (.read (s.mmioRead s.slotClass off).2)) ∧
      ∀ q : State, q = s.mapPkg (fun g => { g with hostWrites := [{ bar := .bar0, off := off, data := l }] }) →
        (∀ u : State, q.mmioWrite none off (BitVec.ofNat 64 (ofBytes l)) = some u →
          exec (.hostMemWrite .bar0 off n v) s = .next (u.mapPkg (fun g => { g with hostWrites := [] }))) ∧
        (q.mmioWrite none off (BitVec.ofNat 64 (ofBytes l)) = none → exec (.hostMemWrite .bar0 off n v) s = .next q)) ∧
    (n ≠ 8 ∨ off % 8 ≠ 0 → exec (.hostMemWrite .bar0 off n v) s = .next (s.answer .unsupported)) ∧
    (n ≠ 0 → s.storageAt off n = false ∨ 2 ^ 42 < off + n →
      exec (.hostMemRead .bar2 off n) s = .next (s.answer .completerAbort) ∧ exec (.hostMemWrite .bar2 off n v) s = .next s) ∧
    (n ≠ 0 → s.storageAt off n = true → off + n ≤ 2 ^ 42 → s.rangeHeld off n = false →
      (n ≤ 8 → ∃ t, exec (.hostMemRead .bar2 off n) s = .next t ∧ t.pkg.answers = .read (BitVec.ofNat 64 (ofBytes (s.homeBytes off n))) :: s.pkg.answers) ∧
      (∃ u : State, exec (.hostMemWrite .bar2 off n v) s = .next (u.mapPkg (fun g => { g with hostWrites := [] })) ∧
        u = (s.mapPkg (fun g => { g with hostWrites := [{ bar := .bar2, off := off, data := l }] })).outsideWrite off l) ∧
      (off / 128 = (off + n - 1) / 128 → s.pushes = [] → (∀ d, (s.dieAt d).migs = []) → (∀ h, (s.homeAt h).degraded = false ∧ s.bypassed h = false) →
        ((s.hearth.map Prod.fst).filter (fun x => homeOf (lineBase x) == homeOf off)).length < 16 →
        ∃ t, exec (.hostMemWrite .bar2 off n v) s = .next t ∧
          ∀ a, canonAddr a = a → isPeer a = false → t.homeByte a = if off ≤ a ∧ a < off + n then nth 0 l (a - off) else s.homeByte a))) ∧
  (∀ (s : State) (b : HostBar) (off n v : Nat), (s.pkg.hostUp = false → exec (.hostMemRead b off n) s = .next s ∧ exec (.hostMemWrite b off n v) s = .next s) ∧
    (s.pkg.hostWrites ≠ [] → exec (.hostMemRead b off n) s = .next s)) ∧
  (∀ (s : State) (port x : Nat) (held : Nat → Prop), x < 4 → s.pkg.cxlGone.contains (port * 4 + x) = false →
    held = (fun line => ∃ e ∈ s.pkg.hdm, e.1 / 4 = port ∧ e.2.expander = x ∧ within (line * 128) e.2.base e.2.len = true) →
    (∃ e ∈ s.pkg.hdm, e.1 / 4 = port ∧ e.2.expander = x) →
    ((∀ h ∈ s.hearth, h.2.dirty = true → ¬held h.1) →
      exec (.cxlSurpriseRemoval port x) s = .next (s.mapPkg (fun g => { g with cxlGone := ninsert g.cxlGone (port * 4 + x) }))) ∧
    ∀ h, s.hearth = [h] → h.2.dirty = true → held h.1 → ∃ u : State, u.homePoison h.1 = true ∧ exec (.cxlSurpriseRemoval port x) s =
      .next (u.raise (homeOf (h.1 * 128) / 128) (Raise.atPort 15 3 (homeOf (h.1 * 128)) (h.1 * 128)))) ∧
  (∀ (s : State) (k : Nat) (p : AtfPort), p = s.atfAt k →
    (p.up = true → p.retrain = false →
      exec (.atfinLockLost k) s = .next (s.setAtf k { p with retrain := true }) ∧
      exec (.atfinReplayLimit k) s = .next (s.setAtf k { p with retrain := true }) ∧
      (∃ t, exec (.atfinReplayRequest k) s = .next t ∧ t.pkg.flits = p.buffer.reverse ++ s.pkg.flits ∧ (t.atfAt k).buffer = p.buffer ∧
        (t.atfAt k).replays.toNat = min (p.replays.toNat + p.buffer.length) 65535) ∧
      ∀ f : Flit,
        (f.crcOk = false → exec (.atfinFlitArrival k f) s = .next (s.setAtf k { p with asked := p.asked + 1 })) ∧
        (f.crcOk = true →
          (∀ pa n, f.body = .peerRead pa n → s.rangeHeld pa n = false → ∃ t, exec (.atfinFlitArrival k f) s = .next t ∧
            t.pkg.replies = (if s.storageAt pa n then some (s.homeBytes pa n) else none) :: s.pkg.replies) ∧
          (∀ pa v, f.body = .mergedWrite pa v → s.storageAt pa 8 = true → s.rangeHeld pa 8 = false → exec (.atfinFlitArrival k f) s = .next (s.outsideWrite pa (toBytes 8 v.toNat))) ∧
          (∀ pa fn b d, f.body = .peerAtomic pa fn b d → s.storageAt pa (amoSize fn) = false →
            exec (.atfinFlitArrival k f) s = .next (s.mapPkg (fun g => { g with replies := none :: g.replies }))) ∧
          (∀ n, f.body = .barArrival n → ∃ t, exec (.atfinFlitArrival k f) s = .next t ∧
            ∀ a, t.coreAt a = if a < 512 then (s.coreAt a).setBar n ((s.coreAt a).bar n).arrive else s.coreAt a) ∧
          ∀ a r, s.atomics = [r] → r.agent = a → r.remote = true → r.done = none → r.dropped = false → r.accepted = false → amoReduces r.fn = false →
            (∀ old, f.body = .switchReply a old →
              exec (.atfinFlitArrival k f) s = .next { s with atomics := [{ r with done := some (amoDone r old) }] }) ∧
            (f.body = .atomicFail a true →
              exec (.atfinFlitArrival k f) s = .next { s with atomics := [{ r with done := some { old := 0, flags := 0, bad := true, gone := false } }] }))) ∧
    (p.up = true → exec (.atfinFlitAck k) s = .next (s.setAtf k { p with buffer := p.buffer.drop 1 })) ∧
    (p.up = true → p.retrain = true → ∀ (ok : Bool) (w : BitVec 8),
      (ok = true → w ≠ 0 → ∃ u : State, exec (.atfinRetrainEnd k ok w) s = .next (u.linkRaise 6 k) ∧ (u.atfAt k).retrain = false ∧ (u.atfAt k).waves = w ∧
        ((u.atfAt k).degraded = true ↔ w ≠ 255) ∧ (u.atfAt k).buffer = p.buffer ++ p.held ∧ (u.atfAt k).held = [] ∧
        u.pkg.flits = p.held.reverse ++ (p.buffer.reverse ++ s.pkg.flits)) ∧
      (ok = false ∨ w = 0 → p.failed.toNat < 2 → exec (.atfinRetrainEnd k ok w) s = .next ((s.setAtf k { p with retrain := true, failed := p.failed + 1 }).linkRaise 6 k)) ∧
      (ok = false ∨ w = 0 → 2 ≤ p.failed.toNat → p.buffer = [] → p.held = [] → ∃ u : State, (u.atfAt k).up = false ∧ ∀ r, r = (u.linkRaise 6 k).linkRaise 7 k →
        exec (.atfinRetrainEnd k ok w) s = .next (if r.pkg.fabricUp then r else r.fabricLost k)))) ∧
  (∀ (s : State) (a k : Nat) (e : WttEntry), a < 512 → k < 32 → e = (s.coreAt a).entry k →
    s.pkg.hostUp = true → s.pkg.hostWrites = [] →
    (wttOpen e = true → imageOk a e.image = true → ∃ t, exec (.wttPost a k) s = .next t ∧ t.cores = (s.postEntry a k e.image).cores ∧ t.mem = s.mem) ∧
    (wttOpen e = false ∨ imageOk a e.image = false → exec (.wttPost a k) s = .next s) ∧
    (e.state = .waiting ∨ e.state = .eligible → ∃ t u, exec (.wttCancel a k) s = .next t ∧ exec (.wttKill a k) s = .next u ∧
      ((t.coreAt a).entry k).state = .cancelled ∧ ((u.coreAt a).entry k).state = .cancelled) ∧
    (e.state = .free ∨ e.state = .cancelled → exec (.wttCancel a k) s = .next s ∧ exec (.wttKill a k) s = .next s) ∧
    (e.state = .running ∨ e.state = .preempted → exec (.wttCancel a k) s = .next s) ∧
    (e.state = .running ∨ e.state = .preempted → ∃ t, exec (.wttKill a k) s = .next t ∧ ((t.coreAt a).entry k).state = .cancelled)) ∧
  (∀ (s : State) (v : Word) (cores : List Nat), cores = ((List.range 64).filter (fun f => s.pkg.lmask.getLsbD f)).flatMap (fun f => (List.range 8).map (fun x => 8 * f + x)) →
    s.pkg.hostUp = true → s.pkg.hostWrites = [] →
    ∀ ok : Bool, ok = (cores != [] && cores.all (fun a => imageOk a (imageOf s.pkg.limg.toList)) && !(v.getLsbD 8 && imageGmask (imageOf s.pkg.limg.toList) != 0)) →
      (ok = true → exec (.teamLaunch v) s = .next (s.mapPkg (fun g => { g with
        lteam := g.lteam + 1, lstatus := 0,
        launches := g.launches ++ [{ image := g.limg, cores := cores, all := cores, idx := v.toNat % 32, team := g.lteam + 1, costart := v.getLsbD 8 }] }))) ∧
      (ok = false → exec (.teamLaunch v) s = .next (s.mapPkg (fun g => { g with lstatus := 1 })))) ∧
  (∀ (s : State) (d sup : Nat) (w : Word) (p q : Port) (t u : Tcw), 512 ≤ sup → sup < 520 → p = (s.dieAt d).migPort → q = (s.dieAt d).savePort →
    t = tcwOf ((nth (Vector.replicate 3 0) p.stage.toList (sup - 512)).toList ++ [w]) →
    u = tcwOf ((nth (Vector.replicate 3 0) q.stage.toList (sup - 512)).toList ++ [w]) →
    (tcwAccepted 4 t = true → p.queue.length < 16 → ∃ (x : State) (k : Cmd), exec (.migPortSubmit d sup w) s = .next x ∧ k.tcw = t ∧ k.core = sup ∧
      (x.dieAt d).migPort = { p with queue := p.queue ++ [k] }) ∧
    (tcwAccepted 5 u = true → q.queue.length < 4 → ∃ (x : State) (k : Cmd), exec (.savePortSubmit d sup w) s = .next x ∧ k.tcw = u ∧ k.core = sup ∧
      (x.dieAt d).savePort = { q with queue := q.queue ++ [k] }) ∧
    (tcwAccepted 4 t = false → p.cpl.length < 32 → ∃ x : State, exec (.migPortSubmit d sup w) s = .next x ∧
      (x.dieAt d).migPort = { p with cpl := p.cpl ++ [cplWordOf 4 t (codeOf stBadop 0 0) 0] }) ∧
    (tcwAccepted 5 u = false → q.cpl.length < 32 → ∃ x : State, exec (.savePortSubmit d sup w) s = .next x ∧
      (x.dieAt d).savePort = { q with cpl := q.cpl ++ [cplWordOf 5 u (codeOf stBadop 0 0) 0] }) ∧
    (tcwAccepted 4 t = true → 16 ≤ p.queue.length → exec (.migPortSubmit d sup w) s = .next s) ∧
    (tcwAccepted 5 u = true → 4 ≤ q.queue.length → exec (.savePortSubmit d sup w) s = .next s) ∧
    (∀ c l, p.cpl = c :: l → ∃ x : State, exec (.migPortPop d) s = .next x ∧ (x.dieAt d).migPort = { p with cpl := l }) ∧
    (∀ c l, q.cpl = c :: l → ∃ x : State, exec (.savePortPop d) s = .next x ∧ (x.dieAt d).savePort = { q with cpl := l }) ∧
    (p.cpl = [] → exec (.migPortPop d) s = .next s) ∧ (q.cpl = [] → exec (.savePortPop d) s = .next s)) ∧
  (∀ (s : State) (d : Nat), (∀ w l, (s.dieAt d).nq = w :: l → exec (.nqPop d) s = .next (s.mapDie d (fun x => { x with nq := l }))) ∧
    ((s.dieAt d).nq = [] → exec (.nqPop d) s = .next s)) ∧
  (∀ (s : State) (v : Word),
    (∃ t, exec (.smsgDoorbell v) s = .next t ∧ t.pkg.smsg = s.pkg.smsg.set 7 v ∧ (s.pkg.hostUp = true → s.pkg.hostOut = [] → t.pkg.sent = .msix 2 :: s.pkg.sent)) ∧
    (s.pkg.hostUp = true → s.pkg.hostWrites = [] →
      (∃ t, exec (.hdoor v) s = .next t ∧ ((t.coreAt 512).mcAt 14).toNat = min (((s.coreAt 512).mcAt 14).toNat + 1) (2 ^ 32 - 1) ∧ ∀ a, a ≠ 512 → t.coreAt a = s.coreAt a) ∧
      (∃ t, exec (.hrelease v) s = .next t ∧ ∀ i < 8, t.coreAt (512 + i) = if v.getLsbD i ∧ (s.coreAt (512 + i)).status = .parked
        then { s.coreAt (512 + i) with status := .running, wait := none } else s.coreAt (512 + i)) ∧
      ∀ g < 64, ∃ t, exec (.histClear g v) s = .next t ∧ t.forgeAt g = if v.getLsbD 0 then { s.forgeAt g with hist := Vector.replicate 32 0 } else s.forgeAt g)) ∧
  (∀ (s : State) (d : BitVec 5) (g k f : Nat), s.cur < 512 → g < 64 → k < 16 → s.still → s.core.scoreboard = [] → f = forgeOf s.cur →
    (s.forgeAt f).evWait = [] → s.core.wait = none →
    (s.ready (Plan.memory [] [sR d] 0) = true → (s.forgeAt f).evAt k ≠ 0 → ∃ t, exec (.evWindowLoad g (BitVec.ofNat 8 k) d) s = .next t ∧
      t.core.regs = { (s.core.writeS d (((s.forgeAt f).evAt k - 1).zeroExtend 64)).regs with pc := nextPc s.core.regs.pc } ∧
      (t.forgeAt f).evAt k = (s.forgeAt f).evAt k - 1) ∧
    (s.ready (Plan.memory [] [] 0) = true → ∃ t, exec (.evWindowStore g (BitVec.ofNat 8 k)) s = .next t ∧
      t.core.regs = { s.core.regs with pc := nextPc s.core.regs.pc } ∧
      t.signals = s.signals ++ [{ forge := f, ev := BitVec.ofNat 4 k, sender := s.cur, remote := false }])) ∧
  ∀ (s : State) (a : Nat) (v : Word),
    (a < 512 →
      ((s.coreAt a).bound ≠ none ∨ v.toNat % 16 = 0 ∨ 8 < v.toNat % 16 → exec (.lsplitWrite a v) s = .next s) ∧
      ((s.coreAt a).bound = none → 1 ≤ v.toNat % 16 → v.toNat % 16 ≤ 8 → v.toNat % 16 ≠ (s.coreAt a).l1sz.toNat → (s.coreAt a).l1 = [] →
        ∃ t, exec (.lsplitWrite a v) s = .next t ∧ (t.coreAt a).l1sz.toNat = v.toNat % 16) ∧
      ∃ t, exec (.l2scrWrite a v) s = .next t ∧ (t.coreAt a).l2held = 0 ∧
        ∀ k < 16, (t.coreAt a).l2scr.getLsbD k = (v.getLsbD k && ((s.coreAt a).l2scr.getLsbD k || (s.coreAt a).l2held.getLsbD k))) ∧
    (∃ t, exec (.hsampleWrite a v) s = .next t ∧ (t.dieAt a).hsample = v.truncate 24 ∧ ∀ h, h / 128 = a → (t.homeAt h).reqs = 0) ∧
    ∀ off, mmioBase ≤ off → off < paTop → off % 8 = 0 → exec (.registerWrite off v) s = exec (.hostMemWrite .bar0 (off - mmioBase) 8 v.toNat) s

/-! ### The machine as a whole -/

/-- 04 R76, 05 R97, R120, 07 R142, R156: s0 reads 0 and p0 reads all ones, and writes to them change nothing; any other register of s, v,
p and k reads what was written, and no write reaches a second register; a write clears the register's poison bit, and a poisoned value sets
it. A byte of storage reads what was put there, every other byte as before, and the canonical form of the memory holds (the form is the
model's). -/
def Obligations.RegistersAndMemory : Prop :=
  (∀ (c : Core) (d e : BitVec 5) (x : Word) (v : VWord), c.readS 0 = 0 ∧ c.writeS 0 x = c ∧ c.poisonS 0 x = c ∧ (d ≠ 0 → (c.writeS d x).readS d = x) ∧
    (e ≠ d → (c.writeS d x).readS e = c.readS e) ∧ (c.writeV d v).readV d = v ∧ (e ≠ d → (c.writeV d v).readV e = c.readV e) ∧
    (∀ r, (c.writeS d x).regs.sPoison.getLsbD r = (c.regs.sPoison.getLsbD r && !decide (d ≠ 0 ∧ r = d.toNat))) ∧
    (∀ r < 32, (c.poisonS d x).regs.sPoison.getLsbD r = (c.regs.sPoison.getLsbD r || decide (d ≠ 0 ∧ r = d.toNat))) ∧
    (∀ r, (c.writeV d v).regs.vPoison.getLsbD r = (c.regs.vPoison.getLsbD r && decide (r ≠ d.toNat))) ∧
    ∀ r < 32, (c.poisonV d v).regs.vPoison.getLsbD r = (c.regs.vPoison.getLsbD r || decide (r = d.toNat))) ∧
  (∀ (c : Core) (d e : BitVec 2) (x : Word), (c.writeK d x).readK d = x ∧ (e ≠ d → (c.writeK d x).readK e = c.readK e) ∧
    (∀ r, (c.writeK d x).regs.kPoison.getLsbD r = (c.regs.kPoison.getLsbD r && decide (r ≠ d.toNat))) ∧
    (∀ r, (c.writeK d x).readS r = c.readS r) ∧ (∀ r, (c.writeK d x).readV r = c.readV r) ∧ ∀ r, (c.writeK d x).readP r = c.readP r) ∧
  (∀ (c : Core) (d : BitVec 3) (p : PWord) (r : Nat), (c.writeP d p).regs.pPoison.getLsbD r = (c.regs.pPoison.getLsbD r && !decide (d ≠ 0 ∧ r = d.toNat))) ∧
  (∀ (c : Core) (d e : BitVec 3) (p : PWord), c.readP 0 = BitVec.allOnes 256 ∧ c.writeP 0 p = c ∧ (d ≠ 0 → (c.writeP d p).readP d = p) ∧
    (e ≠ d → (c.writeP d p).readP e = c.readP e)) ∧
  ∀ (m : Memory) (a b : Nat) (l : List Byte), m.wf = true → Memory.wf (memPut m a l) = true ∧
    memGet (memPut m a l) b = if a ≤ b then (match l[b - a]? with | some x => x | none => memGet m b) else memGet m b

/-- 07 R142, R155, R156, 17 R374: in every state whose memory is in its canonical form, whatever an instruction, a step of the
device, an input, an eviction or a storage error does to the storage leaves it in that form: equal contents of the storage are
equal data. The form is the model's. -/
def Obligations.MemoryStaysCanonical : Prop :=
  (∀ (i : Instr) (s t : State), s.mem.wf = true → exec i s = .next t → t.mem.wf = true) ∧
  ∀ s t : State, s.mem.wf = true → step s = .next t → t.mem.wf = true

/-- 04 R77, 06 R139, 07 R142, R146, 13 R294, 15 R326, 17 R366, R374, R380: what reset leaves, and that the first step from it is the boot, which ends at stage
6. The registers are those of a machine in which nothing has been written; what the manual gives no reset value reads 0 (log entry 23). -/
def Obligations.ResetValues : Prop :=
  (∀ a : Nat, (State.reset.coreAt a).status = .idle ∧ (State.reset.coreAt a).bound = none ∧ (State.reset.coreAt a).regs.pc = 0 ∧
    (∀ r, (State.reset.coreAt a).readS r = 0) ∧ (∀ r, (State.reset.coreAt a).readV r = 0) ∧ (State.reset.coreAt a).l1sz = 4 ∧
    spSize (State.reset.coreAt a) = 524288 ∧ (State.reset.coreAt a).l2scr = 0 ∧ (State.reset.coreAt a).crdepth = 0 ∧
    (State.reset.coreAt a).regs.frm = 0 ∧ (State.reset.coreAt a).regs.fflags = 0 ∧ ∀ k < 32, wttOpen ((State.reset.coreAt a).entry k) = true) ∧
  (∀ g, (State.reset.forgeAt g).wrr = 0x11111111 ∧ (∀ k : Fin 8, (State.reset.forgeAt g).tol[k] = 0x1000000) ∧ (State.reset.forgeAt g).stale = true ∧
    (State.reset.forgeAt g).probeIvl = 100 ∧ (State.reset.forgeAt g).active.valid = false ∧ (State.reset.forgeAt g).shadow.valid = false) ∧
  (∀ d, (State.reset.dieAt d).cycle = 0 ∧ (State.reset.dieAt d).hsample = 0x180400 ∧ (State.reset.dieAt d).hthresh = 256 ∧ (State.reset.dieAt d).partmap = 0 ∧
    (State.reset.dieAt d).pktSeq = 0) ∧
  State.reset.pkg.pwrcap = 1500 ∧ State.reset.pkg.bootStage = 0 ∧
  State.reset.mem.wf = true ∧ (∀ a, memGet State.reset.mem a = 0 ∧ State.reset.isFull a = false ∧ State.reset.poison.contains a = false) ∧
  ∃ t, step State.reset = .next t ∧ t.pkg.bootStage = 6 ∧ t.pkg.bootCode = 0 ∧ t.schedule = [] ∧ t.cores = []

/-- 04 R91, 03 R66: a core's turn runs what its PC names. When the four bytes there, lowest first, are found clean at homes that serve
them and decode to an instruction, the step is that instruction's `exec` with the word in `ir`; a word that is no instruction runs as
the fate R66 gives it. Around it the step lets time pass before, and lets eligible entries and posted host writes in after.
Readings of the model enter it: log entries 22, 90, 91 and 94. -/
def Obligations.StepRunsDecodedWord : Prop :=
  ∀ (s u t : State) (a : Nat) (p : FetchPlace) (lines : List Nat) (l : List Byte) (turn : Turn × State) (leave : Bool),
    turn = s.elapse.nextTurn → (leave, turn.1) ∈ [(false, Turn.core a), (true, .issue a)] → a < 520 → u = { turn.2 with cur := a, leave := leave } →
    u.stalled a = false → u.core.save = none → u.stopsHere a = false → u.core.status = .running → u.core.ahead = none → u.core.unwinding = none →
    u.core.scoreboard.filter SbEntry.due = [] → u.gangHolds a = false → u.fetchAt a u.core.regs.pc = .ok p → lines = (linesOf p.cells).map Prod.fst →
    (∀ x ∈ lines, u.homeHeld x = false ∨ u.core.holdsLine x = true) → u.touchHeld (dieOf a) (some a) lines = false →
    t = (u.tlbFill (dieOf a) (some a) (u.ctxOf a).asid p.fills).mapCore a (fun c => { c with fetched := [p.page] }) → t.loadCells a p.cells = (l, false) →
    (∀ i, decode (wordOf l) = .ok i → step s = after State.settleStep (exec i { t with ir := wordOf l })) ∧
    (decode (wordOf l) = .error .extension → step s = after State.settleStep (exec (.emul (wordOf l)) { t with ir := wordOf l })) ∧
    ∀ r, decode (wordOf l) = .error r → r ≠ .extension → step s = after State.settleStep (exec (.illegalInstruction (wordOf l)) { t with ir := wordOf l })

/-- 03 R53 to R61: the encoding examples of the manual decode to the instructions they stand for; the all-zero word is ILL. -/
def Obligations.EncodingExamples : Prop :=
  decode 0x00000001 = .ok .nop ∧ decode 0x04A63800 = .ok (.add 5 6 7) ∧ decode 0x54A40022 = .ok (.ld 5 4 2 2) ∧ decode 0x74A40022 = .ok (.lds 5 4 2 2) ∧
  decode 0x00006004 = .ok (.rel 4) ∧ decode 0x2C60FFFD = .ok (.bne 3 0 0xFFFD) ∧ decode 0x81093050 = .ok (.bext 8 9 12 5) ∧
  decode 0xAC2219A1 = .ok (.vfmaF32 1 2 3 2 1) ∧ decode 0xC0852080 = .ok (.vcvt 4 5 4 1 0 0) ∧ decode 0x00000000 = .ok .ill ∧
  wordOfBytes 0x00 0x38 0xA6 0x04 = 0x04A63800

/-- 03 R53 to R61, R66: every well-formed instruction that has an encoding is what its word decodes to; a word that decodes is the
encoding of that one well-formed instruction; a word of majors 0x36 to 0x3E is an extension, and one of major 0x3F is illegal. -/
def Obligations.DecodeEncodesBack : Prop :=
  (∀ (i : Instr) (w : IWord), i.wf = true → encode i = some w → decode w = .ok i) ∧
  (∀ (i : Instr) (w : IWord), decode w = .ok i → i.wf = true ∧ encode i = some w) ∧
  ∀ w : IWord, (0x36 ≤ w.toNat / 2 ^ 26 → w.toNat / 2 ^ 26 < 0x3F → decode w = .error .extension) ∧
    (w.toNat / 2 ^ 26 = 0x3F → decode w = .error .majorIllegal)

/-- Every instruction and every step of the device has a next state, in every state: nothing is refused, and no instruction stops the
machine; a step stops only for an agent number that no agent has (01 R14).
Readings of the model enter it: log entry 91. -/
def Obligations.EveryInstructionHasItsNextState : Prop :=
  (∀ (i : Instr) (s : State), ∃ t, exec i s = .next t) ∧
  ∀ s : State, (∃ t, step s = .next t) ∨ (step s = .fault .noSuchAgent ∧ ∃ a line l2, 520 ≤ a ∧
    s.elapse.nextTurn.1 ∈ [Turn.core a, .issue a, .evict a line l2, .dropTlb a line l2])

/-- 15 R330, R331, R334, 08 R175, 13 R284: taking a fault found at issue. The core freezes with the class, its registers as they were, the
PC naming the instruction, and its packet goes to supervisor (core_local div 64) of its die, in the die buffer while the ring is not in
use. A translation fault of a compute core at a data access begins run-ahead instead, which freezes it when it ends. 15 R326, R327: what
each action of the severity matrix does with a raise.
Readings of the model enter it: log entry 9. -/
def Obligations.FaultEntry : Prop :=
  (∀ (s : State) (a : Nat) (c : Core) (d : Die), a < 512 → c = s.coreAt a → d = s.dieAt (dieOf a) → c.chunk = none → c.closed = [] → c.ahead = none →
    s.pushes.any (fun p => p.agent == a) = false →
    (∀ (f : IFault) (cls : Nat) (addr x : Word) (w : IWord),
      (f, cls, addr) ∈ [(.illegal w, 0x12, w.zeroExtend 64), (.emul w, 0x13, w.zeroExtend 64), (.access x, 0x11, x), (.heapLimit x, 0x14, x), (.misalign x, 0x15, x)] →
      ∃ t : State, s.takeFault a f = t ∧
        (d.rings.toList.all (fun r => !r.base.getLsbD 0) = true → d.packets.length < 32 →
          (t.coreAt a).status = .frozen (BitVec.ofNat 8 cls) ∧ (t.coreAt a).regs = c.regs ∧ t.mem = s.mem ∧ (∀ b, b ≠ a → t.coreAt b = s.coreAt b) ∧
          ∃ p, (t.dieAt (dieOf a)).packets = d.packets ++ [(BitVec.ofNat 1 (a % 128 / 64), p)] ∧ fld p[0] 56 8 = cls ∧ fld p[0] 52 1 = 0 ∧
            fld p[0] 30 10 = a ∧ p[1] = c.regs.pc ∧ p[2] = addr ∧ (t.dieAt (dieOf a)).pktSeq = d.pktSeq + 1)) ∧
    ∀ (va : Word) (ty : BitVec 4) (page : Nat), ((s.takeFault a (.translation va ty page)).coreAt a).status = .faulted va ty ∧
      ((s.takeFault a (.translation va ty page)).coreAt a).regs = c.regs) ∧
  ∀ (s t : State) (die act : Nat) (r : Raise), act = (s.dieAt die).action r.cls r.src → t = s.raise die r →
    (act = 0 → t = s) ∧
    (act = 1 → t.cores = s.cores ∧ t.forges = s.forges ∧ t.mem = s.mem ∧ (r.cls < 16 → r.src < 8 → ∃ e : Vector Word 4,
      (t.dieAt die).log = tset (s.dieAt die).log (s.dieAt die).logNext.toNat e ∧ fld e[0] 60 4 = r.cls ∧ fld e[0] 57 3 = r.src ∧ fld e[0] 54 3 = 1 ∧ e[1] = r.addr)) ∧
    (act = 2 → (∀ a, r.agent = some a → a < 520 → (s.coreAt a).status.stopped = false → (t.coreAt a).status = .frozen (BitVec.ofNat 8 r.cls)) ∧
      ((∀ a, r.agent = some a → (s.coreAt a).status.stopped = true) → ∀ b, (t.coreAt b).status = (s.coreAt b).status)) ∧
    (act = 3 → ∀ asid : BitVec 9, (r.asid = some asid ∨ (r.asid = none ∧ ∃ a, r.agent = some a ∧ (s.coreAt a).bound.isSome = true ∧ (s.coreAt a).ctx.asid = asid)) →
      ∀ a k, a < 512 → k < 32 → dieOf a = die → ∀ e, e = (s.coreAt a).entry k → e.state = .running ∨ e.state = .preempted →
        e.image[0].toNat / 2 ^ 48 % 512 = asid.toNat → ((t.coreAt a).entry k).state = .cancelled) ∧
    (4 ≤ act → ∀ f g, (r.forge = some f ∨ (r.forge = none ∧ ∃ a < 512, r.agent = some a ∧ f = a / 8)) → g < 64 → s.partOf g = s.partOf f →
      (t.forgeAt g).active.valid = false ∧ (t.forgeAt g).shadow.valid = false ∧ (∀ i : Fin 16, (t.forgeAt g).dir[i].valid = false) ∧
      ∀ a, a / 8 = g → (∀ e, (t.coreAt a).cmdQ e = []) ∧ (t.coreAt a).anvinj = 0 ∧ (t.coreAt a).records = Vector.replicate 16 (Vector.replicate 8 0) ∧
        ∀ b k, (s.coreAt a).bound = some (b, k) → b < 512 → k < 32 → ((s.coreAt b).entry k).state = .running → ((t.coreAt b).entry k).state = .cancelled)
end

