-- ==== Sys2Proof/Laws/Commands.lean ====
section
/-! SUPPORT. What a command to the package does when it arrives (17 R368, R383): once for the sideband, once for a host command. -/

namespace Sys2Proof.Machine

/-- Behind nothing, a command of the sideband that can be served is served. -/
theorem State.sideband_served (s : State) (c : PkgCmd) (h : s.pkg.cmds = []) (hs : s.servable c = true) :
    s.sideband c = s.serve c := by simp [State.sideband, h, hs]

/-- Any other joins the list, and nothing else happens. -/
theorem State.sideband_waits (s : State) (c : PkgCmd) (h : s.pkg.cmds ≠ [] ∨ s.servable c = false) :
    s.sideband c = s.mapPkg (fun g => { g with cmds := g.cmds ++ [c] }) := by
  rcases h with h | h <;> simp [State.sideband, h]

/-- A host command at the head of the list runs with the NONCE of its writing, and what waited behind it is served. -/
theorem State.hostcmd_runs (s : State) (n : BitVec 4) (nonce : Vector Word 4) (t : List PkgCmd)
    (run : State → Vector Word 4 → State) (h : s.pkg.cmds = .host n nonce :: t) :
    s.hostcmd n run = (run (s.mapPkg (fun g => { g with cmds := t })) nonce).serveAll
      (run (s.mapPkg (fun g => { g with cmds := t })) nonce).pkg.cmds.length := by simp [State.hostcmd, h]

/-- A host command that is not at the head does not run. -/
theorem State.hostcmd_waits (s : State) (n : BitVec 4) (run : State → Vector Word 4 → State)
    (h : ∀ nonce t, s.pkg.cmds ≠ .host n nonce :: t) : s.hostcmd n run = s := by
  unfold State.hostcmd
  split
  · next m nonce t e =>
    by_cases hm : m = n
    · exact absurd (hm ▸ e) (h nonce t)
    · simp [hm]
  · rfl

end Sys2Proof.Machine
end

