-- ==== Sys2Proof/Laws/Dispatch.lean ====
section
/-! SUPPORT. One lemma per arm of `exec`: the meaning that the arm calls. -/

namespace Sys2Proof.Machine

theorem exec_illegalInstruction w (s : State) : exec (.illegalInstruction w) s = execIllegalInstruction w s := rfl
theorem exec_emul w (s : State) : exec (.emul w) s = execEmul w s := rfl
theorem exec_mapply g (s : State) : exec (.mapply g) s = execMapply g s := rfl
theorem exec_mcolsum g (s : State) : exec (.mcolsum g) s = execMcolsum g s := rfl
theorem exec_mloadb g (s : State) : exec (.mloadb g) s = execMloadb g s := rfl
theorem exec_mswapb g (s : State) : exec (.mswapb g) s = execMswapb g s := rfl
theorem exec_mrotb g (s : State) : exec (.mrotb g) s = execMrotb g s := rfl
theorem exec_mprobe g (s : State) : exec (.mprobe g) s = execMprobe g s := rfl
theorem exec_sfact d slot (s : State) : exec (.sfact d slot) s = execSfact d slot s := rfl
theorem exec_sfactq d slot (s : State) : exec (.sfactq d slot) s = execSfactq d slot s := rfl
theorem exec_tcopy d slot (s : State) : exec (.tcopy d slot) s = execTcopy d slot s := rfl
theorem exec_tcopy2 d slot (s : State) : exec (.tcopy2 d slot) s = execTcopy2 d slot s := rfl
theorem exec_tgath d slot (s : State) : exec (.tgath d slot) s = execTgath d slot s := rfl
theorem exec_tscat d slot (s : State) : exec (.tscat d slot) s = execTscat d slot s := rfl
theorem exec_tfill d slot (s : State) : exec (.tfill d slot) s = execTfill d slot s := rfl
theorem exec_tpref d slot (s : State) : exec (.tpref d slot) s = execTpref d slot s := rfl
theorem exec_creds k (s : State) : exec (.creds k) s = execCreds k s := rfl
theorem exec_cgath k (s : State) : exec (.cgath k) s = execCgath k s := rfl
theorem exec_cbcast k (s : State) : exec (.cbcast k) s = execCbcast k s := rfl
theorem exec_callred k (s : State) : exec (.callred k) s = execCallred k s := rfl
theorem exec_migr d (s : State) : exec (.migr d) s = execMigr d s := rfl
theorem exec_migra d (s : State) : exec (.migra d) s = execMigra d s := rfl
theorem exec_mevac d (s : State) : exec (.mevac d) s = execMevac d s := rfl
theorem exec_svctxRequest d (s : State) : exec (.svctxRequest d) s = execSvctxRequest d s := rfl
theorem exec_svctxForced d (s : State) : exec (.svctxForced d) s = execSvctxForced d s := rfl
theorem exec_svctxFrozen d (s : State) : exec (.svctxFrozen d) s = execSvctxFrozen d s := rfl
theorem exec_rsctx d (s : State) : exec (.rsctx d) s = execRsctx d s := rfl
theorem exec_engineStart d e (s : State) : exec (.engineStart d e) s = execEngineStart d e s := rfl
theorem exec_collectiveStart core (s : State) : exec (.collectiveStart core) s = execCollectiveStart core s := rfl
theorem exec_commandEnd d e slot (s : State) : exec (.commandEnd d e slot) s = execCommandEnd d e slot s := rfl
theorem exec_anvilArbiterRound g (s : State) : exec (.anvilArbiterRound g) s = execAnvilArbiterRound g s := rfl
theorem exec_anvilPass g (s : State) : exec (.anvilPass g) s = execAnvilPass g s := rfl
theorem exec_passDrain g (s : State) : exec (.passDrain g) s = execPassDrain g s := rfl
theorem exec_holdingBufferDrain core (s : State) : exec (.holdingBufferDrain core) s = execHoldingBufferDrain core s := rfl
theorem exec_shadowTransferEnd g (s : State) : exec (.shadowTransferEnd g) s = execShadowTransferEnd g s := rfl
theorem exec_batchBoundary g (s : State) : exec (.batchBoundary g) s = execBatchBoundary g s := rfl
theorem exec_probeSet g (s : State) : exec (.probeSet g) s = execProbeSet g s := rfl
theorem exec_probeReferenceEnd g (s : State) : exec (.probeReferenceEnd g) s = execProbeReferenceEnd g s := rfl
theorem exec_probeUpdate g (s : State) : exec (.probeUpdate g) s = execProbeUpdate g s := rfl
theorem exec_probeStaleTimeout g (s : State) : exec (.probeStaleTimeout g) s = execProbeStaleTimeout g s := rfl
theorem exec_chunkCommit agent (s : State) : exec (.chunkCommit agent) s = execChunkCommit agent s := rfl
theorem exec_writeNotice (s : State) : exec (.writeNotice) s = execWriteNotice s := rfl
theorem exec_scoreboardComplete agent entry (s : State) : exec (.scoreboardComplete agent entry) s = execScoreboardComplete agent entry s := rfl
theorem exec_lateFault agent entry (s : State) : exec (.lateFault agent entry) s = execLateFault agent entry s := rfl
theorem exec_runAhead agent (s : State) : exec (.runAhead agent) s = execRunAhead agent s := rfl
theorem exec_atomicPerform (s : State) : exec (.atomicPerform) s = execAtomicPerform s := rfl
theorem exec_reductionDelivery (s : State) : exec (.reductionDelivery) s = execReductionDelivery s := rfl
theorem exec_feWaitRelease word (s : State) : exec (.feWaitRelease word) s = execFeWaitRelease word s := rfl
theorem exec_linkSlotArrival core dir (s : State) : exec (.linkSlotArrival core dir) s = execLinkSlotArrival core dir s := rfl
theorem exec_barrierArrival (s : State) : exec (.barrierArrival) s = execBarrierArrival s := rfl
theorem exec_eventRelease g (s : State) : exec (.eventRelease g) s = execEventRelease g s := rfl
theorem exec_taskAgingTick core entry (s : State) : exec (.taskAgingTick core entry) s = execTaskAgingTick core entry s := rfl
theorem exec_dispatch core (s : State) : exec (.dispatch core) s = execDispatch core s := rfl
theorem exec_restore core entry (s : State) : exec (.restore core entry) s = execRestore core entry s := rfl
theorem exec_gangReservation g (s : State) : exec (.gangReservation g) s = execGangReservation g s := rfl
theorem exec_gangDispatch g (s : State) : exec (.gangDispatch g) s = execGangDispatch g s := rfl
theorem exec_launchUnitPost core (s : State) : exec (.launchUnitPost core) s = execLaunchUnitPost core s := rfl
theorem exec_costartDispatch team (s : State) : exec (.costartDispatch team) s = execCostartDispatch team s := rfl
theorem exec_prebudgetExpiry core (s : State) : exec (.prebudgetExpiry core) s = execPrebudgetExpiry core s := rfl
theorem exec_save core (s : State) : exec (.save core) s = execSave core s := rfl
theorem exec_packetRingWrite sup (s : State) : exec (.packetRingWrite sup) s = execPacketRingWrite sup s := rfl
theorem exec_migrationLineCopy d entry (s : State) : exec (.migrationLineCopy d entry) s = execMigrationLineCopy d entry s := rfl
theorem exec_migrationSwitch d entry (s : State) : exec (.migrationSwitch d entry) s = execMigrationSwitch d entry s := rfl
theorem exec_migrationAbort d entry (s : State) : exec (.migrationAbort d entry) s = execMigrationAbort d entry s := rfl
theorem exec_hotnessSample port (s : State) : exec (.hotnessSample port) s = execHotnessSample port s := rfl
theorem exec_hotnessHalving port (s : State) : exec (.hotnessHalving port) s = execHotnessHalving port s := rfl
theorem exec_notificationRepost d (s : State) : exec (.notificationRepost d) s = execNotificationRepost d s := rfl
theorem exec_scrubStep port row ce ue (s : State) : exec (.scrubStep port row ce ue) s = execScrubStep port row ce ue s := rfl
theorem exec_scrubRateReview port (s : State) : exec (.scrubRateReview port) s = execScrubRateReview port s := rfl
theorem exec_refreshDue port bank how (s : State) : exec (.refreshDue port bank how) s = execRefreshDue port bank how s := rfl
theorem exec_activationAlert port banks (s : State) : exec (.activationAlert port banks) s = execActivationAlert port banks s := rfl
theorem exec_vbusCrcError d group lane (s : State) : exec (.vbusCrcError d group lane) s = execVbusCrcError d group lane s := rfl
theorem exec_vbusLaneSteer d group (s : State) : exec (.vbusLaneSteer d group) s = execVbusLaneSteer d group s := rfl
theorem exec_inFieldTest g (s : State) : exec (.inFieldTest g) s = execInFieldTest g s := rfl
theorem exec_iftInterval g (s : State) : exec (.iftInterval g) s = execIftInterval g s := rfl
theorem exec_iftStart g (s : State) : exec (.iftStart g) s = execIftStart g s := rfl
theorem exec_islandRelock d q (s : State) : exec (.islandRelock d q) s = execIslandRelock d q s := rfl
theorem exec_islctlWrite d q v (s : State) : exec (.islctlWrite d q v) s = execIslctlWrite d q v s := rfl
theorem exec_droopStretch d q (s : State) : exec (.droopStretch d q) s = execDroopStretch d q s := rfl
theorem exec_droopRecover d q (s : State) : exec (.droopRecover d q) s = execDroopRecover d q s := rfl
theorem exec_brownoutHold (s : State) : exec (.brownoutHold) s = execBrownoutHold s := rfl
theorem exec_brownoutResume (s : State) : exec (.brownoutResume) s = execBrownoutResume s := rfl
theorem exec_powerCapStep avg (s : State) : exec (.powerCapStep avg) s = execPowerCapStep avg s := rfl
theorem exec_powerCapRestore avg (s : State) : exec (.powerCapRestore avg) s = execPowerCapRestore avg s := rfl
theorem exec_converterRowHot g temp (s : State) : exec (.converterRowHot g temp) s = execConverterRowHot g temp s := rfl
theorem exec_quenchExit g temp (s : State) : exec (.quenchExit g temp) s = execQuenchExit g temp s := rfl
theorem exec_junctionHot d q temp (s : State) : exec (.junctionHot d q temp) s = execJunctionHot d q temp s := rfl
theorem exec_throttleStep d q temp (s : State) : exec (.throttleStep d q temp) s = execThrottleStep d q temp s := rfl
theorem exec_photonicHot g (s : State) : exec (.photonicHot g) s = execPhotonicHot g s := rfl
theorem exec_thermalTrip (s : State) : exec (.thermalTrip) s = execThermalTrip s := rfl
theorem exec_coldBoot inputs (s : State) : exec (.coldBoot inputs) s = execColdBoot inputs s := rfl
theorem exec_pcieReset kind inputs (s : State) : exec (.pcieReset kind inputs) s = execPcieReset kind inputs s := rfl
theorem exec_hostLinkDown (s : State) : exec (.hostLinkDown) s = execHostLinkDown s := rfl
theorem exec_hostLinkUp (s : State) : exec (.hostLinkUp) s = execHostLinkUp s := rfl
theorem exec_hostMemRead bar off size (s : State) : exec (.hostMemRead bar off size) s = execHostMemRead bar off size s := rfl
theorem exec_hostMemWrite bar off size v (s : State) : exec (.hostMemWrite bar off size v) s = execHostMemWrite bar off size v s := rfl
theorem exec_cxlSurpriseRemoval port expander (s : State) : exec (.cxlSurpriseRemoval port expander) s = execCxlSurpriseRemoval port expander s := rfl
theorem exec_atfinLockLost port (s : State) : exec (.atfinLockLost port) s = execAtfinLockLost port s := rfl
theorem exec_atfinReplayRequest port (s : State) : exec (.atfinReplayRequest port) s = execAtfinReplayRequest port s := rfl
theorem exec_atfinFlitAck port (s : State) : exec (.atfinFlitAck port) s = execAtfinFlitAck port s := rfl
theorem exec_atfinReplayLimit port (s : State) : exec (.atfinReplayLimit port) s = execAtfinReplayLimit port s := rfl
theorem exec_atfinRetrainEnd port ok waves (s : State) : exec (.atfinRetrainEnd port ok waves) s = execAtfinRetrainEnd port ok waves s := rfl
theorem exec_hostcmdWarmReset inputs (s : State) : exec (.hostcmdWarmReset inputs) s = execHostcmdWarmReset inputs s := rfl
theorem exec_hostcmdPostTransport inputs (s : State) : exec (.hostcmdPostTransport inputs) s = execHostcmdPostTransport inputs s := rfl
theorem exec_hostcmdQuote (s : State) : exec (.hostcmdQuote) s = execHostcmdQuote s := rfl
theorem exec_hostcmdFwCommit flash (s : State) : exec (.hostcmdFwCommit flash) s = execHostcmdFwCommit flash s := rfl
theorem exec_readStatus (s : State) : exec (.readStatus) s = execReadStatus s := rfl
theorem exec_warmReset inputs (s : State) : exec (.warmReset inputs) s = execWarmReset inputs s := rfl
theorem exec_postTransport inputs (s : State) : exec (.postTransport inputs) s = execPostTransport inputs s := rfl
theorem exec_setCap v (s : State) : exec (.setCap v) s = execSetCap v s := rfl
theorem exec_readFeat (s : State) : exec (.readFeat) s = execReadFeat s := rfl
theorem exec_flashWindow off (s : State) : exec (.flashWindow off) s = execFlashWindow off s := rfl
theorem exec_wttPost core entry (s : State) : exec (.wttPost core entry) s = execWttPost core entry s := rfl
theorem exec_wttCancel core entry (s : State) : exec (.wttCancel core entry) s = execWttCancel core entry s := rfl
theorem exec_wttKill core entry (s : State) : exec (.wttKill core entry) s = execWttKill core entry s := rfl
theorem exec_teamLaunch v (s : State) : exec (.teamLaunch v) s = execTeamLaunch v s := rfl
theorem exec_migPortSubmit d sup w3 (s : State) : exec (.migPortSubmit d sup w3) s = execMigPortSubmit d sup w3 s := rfl
theorem exec_migPortPop d (s : State) : exec (.migPortPop d) s = execMigPortPop d s := rfl
theorem exec_savePortSubmit d sup w3 (s : State) : exec (.savePortSubmit d sup w3) s = execSavePortSubmit d sup w3 s := rfl
theorem exec_savePortPop d (s : State) : exec (.savePortPop d) s = execSavePortPop d s := rfl
theorem exec_nqPop d (s : State) : exec (.nqPop d) s = execNqPop d s := rfl
theorem exec_hdoor v (s : State) : exec (.hdoor v) s = execHdoor v s := rfl
theorem exec_hrelease v (s : State) : exec (.hrelease v) s = execHrelease v s := rfl
theorem exec_smsgDoorbell v (s : State) : exec (.smsgDoorbell v) s = execSmsgDoorbell v s := rfl
theorem exec_histClear g v (s : State) : exec (.histClear g v) s = execHistClear g v s := rfl
theorem exec_evWindowLoad g sel d (s : State) : exec (.evWindowLoad g sel d) s = execEvWindowLoad g sel d s := rfl
theorem exec_evWindowStore g sel (s : State) : exec (.evWindowStore g sel) s = execEvWindowStore g sel s := rfl
theorem exec_lsplitWrite core v (s : State) : exec (.lsplitWrite core v) s = execLsplitWrite core v s := rfl
theorem exec_l2scrWrite core v (s : State) : exec (.l2scrWrite core v) s = execL2scrWrite core v s := rfl
theorem exec_hsampleWrite d v (s : State) : exec (.hsampleWrite d v) s = execHsampleWrite d v s := rfl
theorem exec_registerWrite pa v (s : State) : exec (.registerWrite pa v) s = execRegisterWrite pa v s := rfl
theorem exec_voltageLoopAdjust d q (s : State) : exec (.voltageLoopAdjust d q) s = execVoltageLoopAdjust d q s := rfl
theorem exec_refreshComplete port stalled (s : State) : exec (.refreshComplete port stalled) s = execRefreshComplete port stalled s := rfl
theorem exec_powerRemoval (s : State) : exec (.powerRemoval) s = execPowerRemoval s := rfl
theorem exec_inFieldTestEnd g result (s : State) : exec (.inFieldTestEnd g result) s = execInFieldTestEnd g result s := rfl
theorem exec_dieToDiePathFailure k (s : State) : exec (.dieToDiePathFailure k) s = execDieToDiePathFailure k s := rfl
theorem exec_atfinFlitArrival port flit (s : State) : exec (.atfinFlitArrival port flit) s = execAtfinFlitArrival port flit s := rfl
theorem exec_homeAcknowledge (s : State) : exec (.homeAcknowledge) s = execHomeAcknowledge s := rfl
theorem exec_msgDelivery (s : State) : exec (.msgDelivery) s = execMsgDelivery s := rfl
theorem exec_skxDelivery (s : State) : exec (.skxDelivery) s = execSkxDelivery s := rfl
theorem exec_ill (s : State) : exec (.ill) s = execIll s := rfl
theorem exec_nop (s : State) : exec (.nop) s = execNop s := rfl
theorem exec_csrr d c (s : State) : exec (.csrr d c) s = execCsrr d c s := rfl
theorem exec_csrw d a c (s : State) : exec (.csrw d a c) s = execCsrw d a c s := rfl
theorem exec_csrs d a c (s : State) : exec (.csrs d a c) s = execCsrs d a c s := rfl
theorem exec_csrc d a c (s : State) : exec (.csrc d a c) s = execCsrc d a c s := rfl
theorem exec_fence sc (s : State) : exec (.fence sc) s = execFence sc s := rfl
theorem exec_rel sc (s : State) : exec (.rel sc) s = execRel sc s := rfl
theorem exec_acq sc (s : State) : exec (.acq sc) s = execAcq sc s := rfl
theorem exec_chunke (s : State) : exec (.chunke) s = execChunke s := rfl
theorem exec_svc n (s : State) : exec (.svc n) s = execSvc n s := rfl
theorem exec_halt (s : State) : exec (.halt) s = execHalt s := rfl
theorem exec_resume d a (s : State) : exec (.resume d a) s = execResume d a s := rfl
theorem exec_tlbi a m (s : State) : exec (.tlbi a m) s = execTlbi a m s := rfl
theorem exec_frply a (s : State) : exec (.frply a) s = execFrply a s := rfl
theorem exec_l2flw a (s : State) : exec (.l2flw a) s = execL2flw a s := rfl
theorem exec_hflush d a m (s : State) : exec (.hflush d a m) s = execHflush d a m s := rfl
theorem exec_add d a b (s : State) : exec (.add d a b) s = execAdd d a b s := rfl
theorem exec_sub d a b (s : State) : exec (.sub d a b) s = execSub d a b s := rfl
theorem exec_and d a b (s : State) : exec (.and d a b) s = execAnd d a b s := rfl
theorem exec_or d a b (s : State) : exec (.or d a b) s = execOr d a b s := rfl
theorem exec_xor d a b (s : State) : exec (.xor d a b) s = execXor d a b s := rfl
theorem exec_andn d a b (s : State) : exec (.andn d a b) s = execAndn d a b s := rfl
theorem exec_orn d a b (s : State) : exec (.orn d a b) s = execOrn d a b s := rfl
theorem exec_xnor d a b (s : State) : exec (.xnor d a b) s = execXnor d a b s := rfl
theorem exec_sll d a b (s : State) : exec (.sll d a b) s = execSll d a b s := rfl
theorem exec_srl d a b (s : State) : exec (.srl d a b) s = execSrl d a b s := rfl
theorem exec_sra d a b (s : State) : exec (.sra d a b) s = execSra d a b s := rfl
theorem exec_rol d a b (s : State) : exec (.rol d a b) s = execRol d a b s := rfl
theorem exec_ror d a b (s : State) : exec (.ror d a b) s = execRor d a b s := rfl
theorem exec_slt d a b (s : State) : exec (.slt d a b) s = execSlt d a b s := rfl
theorem exec_sltu d a b (s : State) : exec (.sltu d a b) s = execSltu d a b s := rfl
theorem exec_seq d a b (s : State) : exec (.seq d a b) s = execSeq d a b s := rfl
theorem exec_min d a b (s : State) : exec (.min d a b) s = execMin d a b s := rfl
theorem exec_max d a b (s : State) : exec (.max d a b) s = execMax d a b s := rfl
theorem exec_minu d a b (s : State) : exec (.minu d a b) s = execMinu d a b s := rfl
theorem exec_maxu d a b (s : State) : exec (.maxu d a b) s = execMaxu d a b s := rfl
theorem exec_mul d a b l (s : State) : exec (.mul d a b l) s = execMul d a b l s := rfl
theorem exec_mulh d a b l (s : State) : exec (.mulh d a b l) s = execMulh d a b l s := rfl
theorem exec_mulhu d a b l (s : State) : exec (.mulhu d a b l) s = execMulhu d a b l s := rfl
theorem exec_div d a b l (s : State) : exec (.div d a b l) s = execDiv d a b l s := rfl
theorem exec_divu d a b l (s : State) : exec (.divu d a b l) s = execDivu d a b l s := rfl
theorem exec_rem d a b l (s : State) : exec (.rem d a b l) s = execRem d a b l s := rfl
theorem exec_remu d a b l (s : State) : exec (.remu d a b l) s = execRemu d a b l s := rfl
theorem exec_clz d a (s : State) : exec (.clz d a) s = execClz d a s := rfl
theorem exec_ctz d a (s : State) : exec (.ctz d a) s = execCtz d a s := rfl
theorem exec_popc d a (s : State) : exec (.popc d a) s = execPopc d a s := rfl
theorem exec_brev d a (s : State) : exec (.brev d a) s = execBrev d a s := rfl
theorem exec_bswap d a (s : State) : exec (.bswap d a) s = execBswap d a s := rfl
theorem exec_sextb d a (s : State) : exec (.sextb d a) s = execSextb d a s := rfl
theorem exec_sexth d a (s : State) : exec (.sexth d a) s = execSexth d a s := rfl
theorem exec_sextw d a (s : State) : exec (.sextw d a) s = execSextw d a s := rfl
theorem exec_zextw d a (s : State) : exec (.zextw d a) s = execZextw d a s := rfl
theorem exec_addw d a b (s : State) : exec (.addw d a b) s = execAddw d a b s := rfl
theorem exec_subw d a b (s : State) : exec (.subw d a b) s = execSubw d a b s := rfl
theorem exec_adds d a b (s : State) : exec (.adds d a b) s = execAdds d a b s := rfl
theorem exec_hadd d a b (s : State) : exec (.hadd d a b) s = execHadd d a b s := rfl
theorem exec_addi d a i (s : State) : exec (.addi d a i) s = execAddi d a i s := rfl
theorem exec_andi d a i (s : State) : exec (.andi d a i) s = execAndi d a i s := rfl
theorem exec_ori d a i (s : State) : exec (.ori d a i) s = execOri d a i s := rfl
theorem exec_xori d a i (s : State) : exec (.xori d a i) s = execXori d a i s := rfl
theorem exec_slti d a i (s : State) : exec (.slti d a i) s = execSlti d a i s := rfl
theorem exec_sltiu d a i (s : State) : exec (.sltiu d a i) s = execSltiu d a i s := rfl
theorem exec_lui d i (s : State) : exec (.lui d i) s = execLui d i s := rfl
theorem exec_slli d a n (s : State) : exec (.slli d a n) s = execSlli d a n s := rfl
theorem exec_srli d a n (s : State) : exec (.srli d a n) s = execSrli d a n s := rfl
theorem exec_srai d a n (s : State) : exec (.srai d a n) s = execSrai d a n s := rfl
theorem exec_rori d a n (s : State) : exec (.rori d a n) s = execRori d a n s := rfl
theorem exec_beq a b o (s : State) : exec (.beq a b o) s = execBeq a b o s := rfl
theorem exec_bne a b o (s : State) : exec (.bne a b o) s = execBne a b o s := rfl
theorem exec_blt a b o (s : State) : exec (.blt a b o) s = execBlt a b o s := rfl
theorem exec_bge a b o (s : State) : exec (.bge a b o) s = execBge a b o s := rfl
theorem exec_bltu a b o (s : State) : exec (.bltu a b o) s = execBltu a b o s := rfl
theorem exec_bgeu a b o (s : State) : exec (.bgeu a b o) s = execBgeu a b o s := rfl
theorem exec_jal o (s : State) : exec (.jal o) s = execJal o s := rfl
theorem exec_jalr d a i (s : State) : exec (.jalr d a i) s = execJalr d a i s := rfl
theorem exec_lb d a o l (s : State) : exec (.lb d a o l) s = execLb d a o l s := rfl
theorem exec_lh d a o l (s : State) : exec (.lh d a o l) s = execLh d a o l s := rfl
theorem exec_lw d a o l (s : State) : exec (.lw d a o l) s = execLw d a o l s := rfl
theorem exec_ld d a o l (s : State) : exec (.ld d a o l) s = execLd d a o l s := rfl
theorem exec_lbu d a o l (s : State) : exec (.lbu d a o l) s = execLbu d a o l s := rfl
theorem exec_lhu d a o l (s : State) : exec (.lhu d a o l) s = execLhu d a o l s := rfl
theorem exec_lwu d a o l (s : State) : exec (.lwu d a o l) s = execLwu d a o l s := rfl
theorem exec_sb d a o l (s : State) : exec (.sb d a o l) s = execSb d a o l s := rfl
theorem exec_sh d a o l (s : State) : exec (.sh d a o l) s = execSh d a o l s := rfl
theorem exec_sw d a o l (s : State) : exec (.sw d a o l) s = execSw d a o l s := rfl
theorem exec_sd d a o l (s : State) : exec (.sd d a o l) s = execSd d a o l s := rfl
theorem exec_lds d a o l (s : State) : exec (.lds d a o l) s = execLds d a o l s := rfl
theorem exec_ldse d a l (s : State) : exec (.ldse d a l) s = execLdse d a l s := rfl
theorem exec_stf a b l (s : State) : exec (.stf a b l) s = execStf a b l s := rfl
theorem exec_feclr a l (s : State) : exec (.feclr a l) s = execFeclr a l s := rfl
theorem exec_feset a l (s : State) : exec (.feset a l) s = execFeset a l s := rfl
theorem exec_feq d a l (s : State) : exec (.feq d a l) s = execFeq d a l s := rfl
theorem exec_fadd d a b l (s : State) : exec (.fadd d a b l) s = execFadd d a b l s := rfl
theorem exec_fsub d a b l (s : State) : exec (.fsub d a b l) s = execFsub d a b l s := rfl
theorem exec_fmul d a b l (s : State) : exec (.fmul d a b l) s = execFmul d a b l s := rfl
theorem exec_fdiv d a b l (s : State) : exec (.fdiv d a b l) s = execFdiv d a b l s := rfl
theorem exec_fsqrt d a l (s : State) : exec (.fsqrt d a l) s = execFsqrt d a l s := rfl
theorem exec_fmin d a b l (s : State) : exec (.fmin d a b l) s = execFmin d a b l s := rfl
theorem exec_fmax d a b l (s : State) : exec (.fmax d a b l) s = execFmax d a b l s := rfl
theorem exec_fceq d a b l (s : State) : exec (.fceq d a b l) s = execFceq d a b l s := rfl
theorem exec_fclt d a b l (s : State) : exec (.fclt d a b l) s = execFclt d a b l s := rfl
theorem exec_fcle d a b l (s : State) : exec (.fcle d a b l) s = execFcle d a b l s := rfl
theorem exec_fmac d a b l (s : State) : exec (.fmac d a b l) s = execFmac d a b l s := rfl
theorem exec_fcvtdl d a l (s : State) : exec (.fcvtdl d a l) s = execFcvtdl d a l s := rfl
theorem exec_fcvtld d a l (s : State) : exec (.fcvtld d a l) s = execFcvtld d a l s := rfl
theorem exec_fcvtsd d a l (s : State) : exec (.fcvtsd d a l) s = execFcvtsd d a l s := rfl
theorem exec_fcvtds d a l (s : State) : exec (.fcvtds d a l) s = execFcvtds d a l s := rfl
theorem exec_fclass d a l (s : State) : exec (.fclass d a l) s = execFclass d a l s := rfl
theorem exec_bext d a p n (s : State) : exec (.bext d a p n) s = execBext d a p n s := rfl
theorem exec_bexts d a p n (s : State) : exec (.bexts d a p n) s = execBexts d a p n s := rfl
theorem exec_bins d a p n (s : State) : exec (.bins d a p n) s = execBins d a p n s := rfl
theorem exec_amoswap d a b l (s : State) : exec (.amoswap d a b l) s = execAmoswap d a b l s := rfl
theorem exec_amoadd d a b l (s : State) : exec (.amoadd d a b l) s = execAmoadd d a b l s := rfl
theorem exec_amoand d a b l (s : State) : exec (.amoand d a b l) s = execAmoand d a b l s := rfl
theorem exec_amoor d a b l (s : State) : exec (.amoor d a b l) s = execAmoor d a b l s := rfl
theorem exec_amoxor d a b l (s : State) : exec (.amoxor d a b l) s = execAmoxor d a b l s := rfl
theorem exec_amomin d a b l (s : State) : exec (.amomin d a b l) s = execAmomin d a b l s := rfl
theorem exec_amomax d a b l (s : State) : exec (.amomax d a b l) s = execAmomax d a b l s := rfl
theorem exec_amominu d a b l (s : State) : exec (.amominu d a b l) s = execAmominu d a b l s := rfl
theorem exec_amomaxu d a b l (s : State) : exec (.amomaxu d a b l) s = execAmomaxu d a b l s := rfl
theorem exec_amoswapI32 d a b l (s : State) : exec (.amoswapI32 d a b l) s = execAmoswapI32 d a b l s := rfl
theorem exec_amoaddI32 d a b l (s : State) : exec (.amoaddI32 d a b l) s = execAmoaddI32 d a b l s := rfl
theorem exec_amoandI32 d a b l (s : State) : exec (.amoandI32 d a b l) s = execAmoandI32 d a b l s := rfl
theorem exec_amoorI32 d a b l (s : State) : exec (.amoorI32 d a b l) s = execAmoorI32 d a b l s := rfl
theorem exec_amoxorI32 d a b l (s : State) : exec (.amoxorI32 d a b l) s = execAmoxorI32 d a b l s := rfl
theorem exec_amominI32 d a b l (s : State) : exec (.amominI32 d a b l) s = execAmominI32 d a b l s := rfl
theorem exec_amomaxI32 d a b l (s : State) : exec (.amomaxI32 d a b l) s = execAmomaxI32 d a b l s := rfl
theorem exec_amominuI32 d a b l (s : State) : exec (.amominuI32 d a b l) s = execAmominuI32 d a b l s := rfl
theorem exec_amomaxuI32 d a b l (s : State) : exec (.amomaxuI32 d a b l) s = execAmomaxuI32 d a b l s := rfl
theorem exec_cas d a b l (s : State) : exec (.cas d a b l) s = execCas d a b l s := rfl
theorem exec_casgt d a b l (s : State) : exec (.casgt d a b l) s = execCasgt d a b l s := rfl
theorem exec_casver d a b l (s : State) : exec (.casver d a b l) s = execCasver d a b l s := rfl
theorem exec_castag d a b l (s : State) : exec (.castag d a b l) s = execCastag d a b l s := rfl
theorem exec_amofadd d a b l (s : State) : exec (.amofadd d a b l) s = execAmofadd d a b l s := rfl
theorem exec_redadd d a b l (s : State) : exec (.redadd d a b l) s = execRedadd d a b l s := rfl
theorem exec_redmin d a b l (s : State) : exec (.redmin d a b l) s = execRedmin d a b l s := rfl
theorem exec_redmax d a b l (s : State) : exec (.redmax d a b l) s = execRedmax d a b l s := rfl
theorem exec_redfadd d a b l (s : State) : exec (.redfadd d a b l) s = execRedfadd d a b l s := rfl
theorem exec_redor d a b l (s : State) : exec (.redor d a b l) s = execRedor d a b l s := rfl
theorem exec_barArr n (s : State) : exec (.barArr n) s = execBarArr n s := rfl
theorem exec_barWait n (s : State) : exec (.barWait n) s = execBarWait n s := rfl
theorem exec_barArrw n (s : State) : exec (.barArrw n) s = execBarArrw n s := rfl
theorem exec_barInit n a sc (s : State) : exec (.barInit n a sc) s = execBarInit n a sc s := rfl
theorem exec_evwait d a (s : State) : exec (.evwait d a) s = execEvwait d a s := rfl
theorem exec_evsig a b (s : State) : exec (.evsig a b) s = execEvsig a b s := rfl
theorem exec_msg a b (s : State) : exec (.msg a b) s = execMsg a b s := rfl
theorem exec_cntadd n a (s : State) : exec (.cntadd n a) s = execCntadd n a s := rfl
theorem exec_cntwait n a (s : State) : exec (.cntwait n a) s = execCntwait n a s := rfl
theorem exec_tkpost d a b (s : State) : exec (.tkpost d a b) s = execTkpost d a b s := rfl
theorem exec_tkcancel d a (s : State) : exec (.tkcancel d a) s = execTkcancel d a s := rfl
theorem exec_tkexit (s : State) : exec (.tkexit) s = execTkexit s := rfl
theorem exec_tkyield a b (s : State) : exec (.tkyield a b) s = execTkyield a b s := rfl
theorem exec_prehint a b (s : State) : exec (.prehint a b) s = execPrehint a b s := rfl
theorem exec_gang a (s : State) : exec (.gang a) s = execGang a s := rfl
theorem exec_split (s : State) : exec (.split) s = execSplit s := rfl
theorem exec_cropen a (s : State) : exec (.cropen a) s = execCropen a s := rfl
theorem exec_crclose (s : State) : exec (.crclose) s = execCrclose s := rfl
theorem exec_tkstat d a (s : State) : exec (.tkstat d a) s = execTkstat d a s := rfl
theorem exec_qsend q a t (s : State) : exec (.qsend q a t) s = execQsend q a t s := rfl
theorem exec_qsendv q a t (s : State) : exec (.qsendv q a t) s = execQsendv q a t s := rfl
theorem exec_qpush q a (s : State) : exec (.qpush q a) s = execQpush q a s := rfl
theorem exec_qpop d q l (s : State) : exec (.qpop d q l) s = execQpop d q l s := rfl
theorem exec_qpopv d q l (s : State) : exec (.qpopv d q l) s = execQpopv d q l s := rfl
theorem exec_qstat d q (s : State) : exec (.qstat d q) s = execQstat d q s := rfl
theorem exec_qflush q (s : State) : exec (.qflush q) s = execQflush q s := rfl
theorem exec_lkrd d k l (s : State) : exec (.lkrd d k l) s = execLkrd d k l s := rfl
theorem exec_lkrdf d k l (s : State) : exec (.lkrdf d k l) s = execLkrdf d k l s := rfl
theorem exec_lkwr k a (s : State) : exec (.lkwr k a) s = execLkwr k a s := rfl
theorem exec_lkstat d (s : State) : exec (.lkstat d) s = execLkstat d s := rfl
theorem exec_tloc d a l (s : State) : exec (.tloc d a l) s = execTloc d a l s := rfl
theorem exec_tfix d a (s : State) : exec (.tfix d a) s = execTfix d a s := rfl
theorem exec_tretry d a (s : State) : exec (.tretry d a) s = execTretry d a s := rfl
theorem exec_trrd d a b l (s : State) : exec (.trrd d a b l) s = execTrrd d a b l s := rfl
theorem exec_wspsw a (s : State) : exec (.wspsw a) s = execWspsw a s := rfl
theorem exec_mbatch d (s : State) : exec (.mbatch d) s = execMbatch d s := rfl
theorem exec_mdrain d (s : State) : exec (.mdrain d) s = execMdrain d s := rfl
theorem exec_skcomb d a b (s : State) : exec (.skcomb d a b) s = execSkcomb d a b s := rfl
theorem exec_ckacc k a l (s : State) : exec (.ckacc k a l) s = execCkacc k a l s := rfl
theorem exec_ckaccx k a l (s : State) : exec (.ckaccx k a l) s = execCkaccx k a l s := rfl
theorem exec_ckaccf k a l (s : State) : exec (.ckaccf k a l) s = execCkaccf k a l s := rfl
theorem exec_ckaccv k a e l (s : State) : exec (.ckaccv k a e l) s = execCkaccv k a e l s := rfl
theorem exec_ckchk k a b l (s : State) : exec (.ckchk k a b l) s = execCkchk k a b l s := rfl
theorem exec_ckchkf k a b l (s : State) : exec (.ckchkf k a b l) s = execCkchkf k a b l s := rfl
theorem exec_ckclr k (s : State) : exec (.ckclr k) s = execCkclr k s := rfl
theorem exec_ckrd d k (s : State) : exec (.ckrd d k) s = execCkrd d k s := rfl
theorem exec_fshl d a b c (s : State) : exec (.fshl d a b c) s = execFshl d a b c s := rfl
theorem exec_fshr d a b c (s : State) : exec (.fshr d a b c) s = execFshr d a b c s := rfl
theorem exec_bextv d a b c (s : State) : exec (.bextv d a b c) s = execBextv d a b c s := rfl
theorem exec_binsv d a b c (s : State) : exec (.binsv d a b c) s = execBinsv d a b c s := rfl
theorem exec_vaddI32 d a b p l (s : State) : exec (.vaddI32 d a b p l) s = execVaddI32 d a b p l s := rfl
theorem exec_vsubI32 d a b p l (s : State) : exec (.vsubI32 d a b p l) s = execVsubI32 d a b p l s := rfl
theorem exec_vmulI32 d a b p l (s : State) : exec (.vmulI32 d a b p l) s = execVmulI32 d a b p l s := rfl
theorem exec_vmacI32 d a b p l (s : State) : exec (.vmacI32 d a b p l) s = execVmacI32 d a b p l s := rfl
theorem exec_vminI32 d a b p l (s : State) : exec (.vminI32 d a b p l) s = execVminI32 d a b p l s := rfl
theorem exec_vmaxI32 d a b p l (s : State) : exec (.vmaxI32 d a b p l) s = execVmaxI32 d a b p l s := rfl
theorem exec_vminuI32 d a b p l (s : State) : exec (.vminuI32 d a b p l) s = execVminuI32 d a b p l s := rfl
theorem exec_vmaxuI32 d a b p l (s : State) : exec (.vmaxuI32 d a b p l) s = execVmaxuI32 d a b p l s := rfl
theorem exec_vabsI32 d a p l (s : State) : exec (.vabsI32 d a p l) s = execVabsI32 d a p l s := rfl
theorem exec_vnegI32 d a p l (s : State) : exec (.vnegI32 d a p l) s = execVnegI32 d a p l s := rfl
theorem exec_vshlI32 d a b p l (s : State) : exec (.vshlI32 d a b p l) s = execVshlI32 d a b p l s := rfl
theorem exec_vshrI32 d a b p l (s : State) : exec (.vshrI32 d a b p l) s = execVshrI32 d a b p l s := rfl
theorem exec_vsraI32 d a b p l (s : State) : exec (.vsraI32 d a b p l) s = execVsraI32 d a b p l s := rfl
theorem exec_vceqI32 d a b p l (s : State) : exec (.vceqI32 d a b p l) s = execVceqI32 d a b p l s := rfl
theorem exec_vcltI32 d a b p l (s : State) : exec (.vcltI32 d a b p l) s = execVcltI32 d a b p l s := rfl
theorem exec_vcltuI32 d a b p l (s : State) : exec (.vcltuI32 d a b p l) s = execVcltuI32 d a b p l s := rfl
theorem exec_vaddI16 d a b p l (s : State) : exec (.vaddI16 d a b p l) s = execVaddI16 d a b p l s := rfl
theorem exec_vsubI16 d a b p l (s : State) : exec (.vsubI16 d a b p l) s = execVsubI16 d a b p l s := rfl
theorem exec_vmulI16 d a b p l (s : State) : exec (.vmulI16 d a b p l) s = execVmulI16 d a b p l s := rfl
theorem exec_vmacI16 d a b p l (s : State) : exec (.vmacI16 d a b p l) s = execVmacI16 d a b p l s := rfl
theorem exec_vminI16 d a b p l (s : State) : exec (.vminI16 d a b p l) s = execVminI16 d a b p l s := rfl
theorem exec_vmaxI16 d a b p l (s : State) : exec (.vmaxI16 d a b p l) s = execVmaxI16 d a b p l s := rfl
theorem exec_vminuI16 d a b p l (s : State) : exec (.vminuI16 d a b p l) s = execVminuI16 d a b p l s := rfl
theorem exec_vmaxuI16 d a b p l (s : State) : exec (.vmaxuI16 d a b p l) s = execVmaxuI16 d a b p l s := rfl
theorem exec_vabsI16 d a p l (s : State) : exec (.vabsI16 d a p l) s = execVabsI16 d a p l s := rfl
theorem exec_vnegI16 d a p l (s : State) : exec (.vnegI16 d a p l) s = execVnegI16 d a p l s := rfl
theorem exec_vshlI16 d a b p l (s : State) : exec (.vshlI16 d a b p l) s = execVshlI16 d a b p l s := rfl
theorem exec_vshrI16 d a b p l (s : State) : exec (.vshrI16 d a b p l) s = execVshrI16 d a b p l s := rfl
theorem exec_vsraI16 d a b p l (s : State) : exec (.vsraI16 d a b p l) s = execVsraI16 d a b p l s := rfl
theorem exec_vceqI16 d a b p l (s : State) : exec (.vceqI16 d a b p l) s = execVceqI16 d a b p l s := rfl
theorem exec_vcltI16 d a b p l (s : State) : exec (.vcltI16 d a b p l) s = execVcltI16 d a b p l s := rfl
theorem exec_vcltuI16 d a b p l (s : State) : exec (.vcltuI16 d a b p l) s = execVcltuI16 d a b p l s := rfl
theorem exec_vaddI8 d a b p l (s : State) : exec (.vaddI8 d a b p l) s = execVaddI8 d a b p l s := rfl
theorem exec_vsubI8 d a b p l (s : State) : exec (.vsubI8 d a b p l) s = execVsubI8 d a b p l s := rfl
theorem exec_vmulI8 d a b p l (s : State) : exec (.vmulI8 d a b p l) s = execVmulI8 d a b p l s := rfl
theorem exec_vmacI8 d a b p l (s : State) : exec (.vmacI8 d a b p l) s = execVmacI8 d a b p l s := rfl
theorem exec_vminI8 d a b p l (s : State) : exec (.vminI8 d a b p l) s = execVminI8 d a b p l s := rfl
theorem exec_vmaxI8 d a b p l (s : State) : exec (.vmaxI8 d a b p l) s = execVmaxI8 d a b p l s := rfl
theorem exec_vminuI8 d a b p l (s : State) : exec (.vminuI8 d a b p l) s = execVminuI8 d a b p l s := rfl
theorem exec_vmaxuI8 d a b p l (s : State) : exec (.vmaxuI8 d a b p l) s = execVmaxuI8 d a b p l s := rfl
theorem exec_vabsI8 d a p l (s : State) : exec (.vabsI8 d a p l) s = execVabsI8 d a p l s := rfl
theorem exec_vnegI8 d a p l (s : State) : exec (.vnegI8 d a p l) s = execVnegI8 d a p l s := rfl
theorem exec_vshlI8 d a b p l (s : State) : exec (.vshlI8 d a b p l) s = execVshlI8 d a b p l s := rfl
theorem exec_vshrI8 d a b p l (s : State) : exec (.vshrI8 d a b p l) s = execVshrI8 d a b p l s := rfl
theorem exec_vsraI8 d a b p l (s : State) : exec (.vsraI8 d a b p l) s = execVsraI8 d a b p l s := rfl
theorem exec_vceqI8 d a b p l (s : State) : exec (.vceqI8 d a b p l) s = execVceqI8 d a b p l s := rfl
theorem exec_vcltI8 d a b p l (s : State) : exec (.vcltI8 d a b p l) s = execVcltI8 d a b p l s := rfl
theorem exec_vcltuI8 d a b p l (s : State) : exec (.vcltuI8 d a b p l) s = execVcltuI8 d a b p l s := rfl
theorem exec_vaddF32 d a b p l (s : State) : exec (.vaddF32 d a b p l) s = execVaddF32 d a b p l s := rfl
theorem exec_vsubF32 d a b p l (s : State) : exec (.vsubF32 d a b p l) s = execVsubF32 d a b p l s := rfl
theorem exec_vmulF32 d a b p l (s : State) : exec (.vmulF32 d a b p l) s = execVmulF32 d a b p l s := rfl
theorem exec_vfmaF32 d a b p l (s : State) : exec (.vfmaF32 d a b p l) s = execVfmaF32 d a b p l s := rfl
theorem exec_vminF32 d a b p l (s : State) : exec (.vminF32 d a b p l) s = execVminF32 d a b p l s := rfl
theorem exec_vmaxF32 d a b p l (s : State) : exec (.vmaxF32 d a b p l) s = execVmaxF32 d a b p l s := rfl
theorem exec_vfmsF32 d a b p l (s : State) : exec (.vfmsF32 d a b p l) s = execVfmsF32 d a b p l s := rfl
theorem exec_vdivF32 d a b p l (s : State) : exec (.vdivF32 d a b p l) s = execVdivF32 d a b p l s := rfl
theorem exec_vabsF32 d a p l (s : State) : exec (.vabsF32 d a p l) s = execVabsF32 d a p l s := rfl
theorem exec_vnegF32 d a p l (s : State) : exec (.vnegF32 d a p l) s = execVnegF32 d a p l s := rfl
theorem exec_vsqrtF32 d a p l (s : State) : exec (.vsqrtF32 d a p l) s = execVsqrtF32 d a p l s := rfl
theorem exec_vrcpeF32 d a p l (s : State) : exec (.vrcpeF32 d a p l) s = execVrcpeF32 d a p l s := rfl
theorem exec_vrsqeF32 d a p l (s : State) : exec (.vrsqeF32 d a p l) s = execVrsqeF32 d a p l s := rfl
theorem exec_vceqF32 d a b p l (s : State) : exec (.vceqF32 d a b p l) s = execVceqF32 d a b p l s := rfl
theorem exec_vcltF32 d a b p l (s : State) : exec (.vcltF32 d a b p l) s = execVcltF32 d a b p l s := rfl
theorem exec_vcleF32 d a b p l (s : State) : exec (.vcleF32 d a b p l) s = execVcleF32 d a b p l s := rfl
theorem exec_vaddBf16 d a b p l (s : State) : exec (.vaddBf16 d a b p l) s = execVaddBf16 d a b p l s := rfl
theorem exec_vsubBf16 d a b p l (s : State) : exec (.vsubBf16 d a b p l) s = execVsubBf16 d a b p l s := rfl
theorem exec_vmulBf16 d a b p l (s : State) : exec (.vmulBf16 d a b p l) s = execVmulBf16 d a b p l s := rfl
theorem exec_vfmaBf16 d a b p l (s : State) : exec (.vfmaBf16 d a b p l) s = execVfmaBf16 d a b p l s := rfl
theorem exec_vminBf16 d a b p l (s : State) : exec (.vminBf16 d a b p l) s = execVminBf16 d a b p l s := rfl
theorem exec_vmaxBf16 d a b p l (s : State) : exec (.vmaxBf16 d a b p l) s = execVmaxBf16 d a b p l s := rfl
theorem exec_vfmsBf16 d a b p l (s : State) : exec (.vfmsBf16 d a b p l) s = execVfmsBf16 d a b p l s := rfl
theorem exec_vabsBf16 d a p l (s : State) : exec (.vabsBf16 d a p l) s = execVabsBf16 d a p l s := rfl
theorem exec_vnegBf16 d a p l (s : State) : exec (.vnegBf16 d a p l) s = execVnegBf16 d a p l s := rfl
theorem exec_vrcpeBf16 d a p l (s : State) : exec (.vrcpeBf16 d a p l) s = execVrcpeBf16 d a p l s := rfl
theorem exec_vrsqeBf16 d a p l (s : State) : exec (.vrsqeBf16 d a p l) s = execVrsqeBf16 d a p l s := rfl
theorem exec_vceqBf16 d a b p l (s : State) : exec (.vceqBf16 d a b p l) s = execVceqBf16 d a b p l s := rfl
theorem exec_vcltBf16 d a b p l (s : State) : exec (.vcltBf16 d a b p l) s = execVcltBf16 d a b p l s := rfl
theorem exec_vcleBf16 d a b p l (s : State) : exec (.vcleBf16 d a b p l) s = execVcleBf16 d a b p l s := rfl
theorem exec_vaddF16 d a b p l (s : State) : exec (.vaddF16 d a b p l) s = execVaddF16 d a b p l s := rfl
theorem exec_vsubF16 d a b p l (s : State) : exec (.vsubF16 d a b p l) s = execVsubF16 d a b p l s := rfl
theorem exec_vmulF16 d a b p l (s : State) : exec (.vmulF16 d a b p l) s = execVmulF16 d a b p l s := rfl
theorem exec_vfmaF16 d a b p l (s : State) : exec (.vfmaF16 d a b p l) s = execVfmaF16 d a b p l s := rfl
theorem exec_vminF16 d a b p l (s : State) : exec (.vminF16 d a b p l) s = execVminF16 d a b p l s := rfl
theorem exec_vmaxF16 d a b p l (s : State) : exec (.vmaxF16 d a b p l) s = execVmaxF16 d a b p l s := rfl
theorem exec_vfmsF16 d a b p l (s : State) : exec (.vfmsF16 d a b p l) s = execVfmsF16 d a b p l s := rfl
theorem exec_vabsF16 d a p l (s : State) : exec (.vabsF16 d a p l) s = execVabsF16 d a p l s := rfl
theorem exec_vnegF16 d a p l (s : State) : exec (.vnegF16 d a p l) s = execVnegF16 d a p l s := rfl
theorem exec_vrcpeF16 d a p l (s : State) : exec (.vrcpeF16 d a p l) s = execVrcpeF16 d a p l s := rfl
theorem exec_vrsqeF16 d a p l (s : State) : exec (.vrsqeF16 d a p l) s = execVrsqeF16 d a p l s := rfl
theorem exec_vceqF16 d a b p l (s : State) : exec (.vceqF16 d a b p l) s = execVceqF16 d a b p l s := rfl
theorem exec_vcltF16 d a b p l (s : State) : exec (.vcltF16 d a b p l) s = execVcltF16 d a b p l s := rfl
theorem exec_vcleF16 d a b p l (s : State) : exec (.vcleF16 d a b p l) s = execVcleF16 d a b p l s := rfl
theorem exec_vand d a b p (s : State) : exec (.vand d a b p) s = execVand d a b p s := rfl
theorem exec_vor d a b p (s : State) : exec (.vor d a b p) s = execVor d a b p s := rfl
theorem exec_vxor d a b p (s : State) : exec (.vxor d a b p) s = execVxor d a b p s := rfl
theorem exec_vandn d a b p (s : State) : exec (.vandn d a b p) s = execVandn d a b p s := rfl
theorem exec_vsel d a b p (s : State) : exec (.vsel d a b p) s = execVsel d a b p s := rfl
theorem exec_vpand d a b (s : State) : exec (.vpand d a b) s = execVpand d a b s := rfl
theorem exec_vpor d a b (s : State) : exec (.vpor d a b) s = execVpor d a b s := rfl
theorem exec_vpxor d a b (s : State) : exec (.vpxor d a b) s = execVpxor d a b s := rfl
theorem exec_vpnot d a (s : State) : exec (.vpnot d a) s = execVpnot d a s := rfl
theorem exec_vpcnt d a e p l (s : State) : exec (.vpcnt d a e p l) s = execVpcnt d a e p l s := rfl
theorem exec_vpfirst d a e p l (s : State) : exec (.vpfirst d a e p l) s = execVpfirst d a e p l s := rfl
theorem exec_vperm d a b p l (s : State) : exec (.vperm d a b p l) s = execVperm d a b p l s := rfl
theorem exec_vbcast d a b w l (s : State) : exec (.vbcast d a b w l) s = execVbcast d a b w l s := rfl
theorem exec_vext d a b p l (s : State) : exec (.vext d a b p l) s = execVext d a b p l s := rfl
theorem exec_vins d a b w l (s : State) : exec (.vins d a b w l) s = execVins d a b w l s := rfl
theorem exec_vslup d a b p l (s : State) : exec (.vslup d a b p l) s = execVslup d a b p l s := rfl
theorem exec_vsldn d a b p l (s : State) : exec (.vsldn d a b p l) s = execVsldn d a b p l s := rfl
theorem exec_viota d e p l (s : State) : exec (.viota d e p l) s = execViota d e p l s := rfl
theorem exec_vcompr d a e p l (s : State) : exec (.vcompr d a e p l) s = execVcompr d a e p l s := rfl
theorem exec_vredi d a e p l (s : State) : exec (.vredi d a e p l) s = execVredi d a e p l s := rfl
theorem exec_vredf d a e p l (s : State) : exec (.vredf d a e p l) s = execVredf d a e p l s := rfl
theorem exec_vredmx d a e p l (s : State) : exec (.vredmx d a e p l) s = execVredmx d a e p l s := rfl
theorem exec_vredmn d a e p l (s : State) : exec (.vredmn d a e p l) s = execVredmn d a e p l s := rfl
theorem exec_vcvt d a c x p l (s : State) : exec (.vcvt d a c x p l) s = execVcvt d a c x p l s := rfl
theorem exec_vqgrp d a b t l (s : State) : exec (.vqgrp d a b t l) s = execVqgrp d a b t l s := rfl
theorem exec_vdqgrp d a b t l (s : State) : exec (.vdqgrp d a b t l) s = execVdqgrp d a b t l s := rfl
theorem exec_vqmx d a b t l (s : State) : exec (.vqmx d a b t l) s = execVqmx d a b t l s := rfl
theorem exec_vdqmx d a b t l (s : State) : exec (.vdqmx d a b t l) s = execVdqmx d a b t l s := rfl
theorem exec_vscacc d a b p l (s : State) : exec (.vscacc d a b p l) s = execVscacc d a b p l s := rfl
theorem exec_vbfpn d a b f l (s : State) : exec (.vbfpn d a b f l) s = execVbfpn d a b f l s := rfl
theorem exec_vbfpx d a f l (s : State) : exec (.vbfpx d a f l) s = execVbfpx d a f l s := rfl
theorem exec_vzpc d a b p l (s : State) : exec (.vzpc d a b p l) s = execVzpc d a b p l s := rfl
theorem exec_vld d a o l (s : State) : exec (.vld d a o l) s = execVld d a o l s := rfl
theorem exec_vst d a o l (s : State) : exec (.vst d a o l) s = execVst d a o l s := rfl
theorem exec_vlds d a b p l (s : State) : exec (.vlds d a b p l) s = execVlds d a b p l s := rfl
theorem exec_vsts d a b p l (s : State) : exec (.vsts d a b p l) s = execVsts d a b p l s := rfl
theorem exec_vgth d a b p l (s : State) : exec (.vgth d a b p l) s = execVgth d a b p l s := rfl
theorem exec_vsct d a b p l (s : State) : exec (.vsct d a b p l) s = execVsct d a b p l s := rfl
theorem exec_vldb d a w l (s : State) : exec (.vldb d a w l) s = execVldb d a w l s := rfl
theorem exec_vmvsv d a w l (s : State) : exec (.vmvsv d a w l) s = execVmvsv d a w l s := rfl
theorem exec_vmvvs d a b w l (s : State) : exec (.vmvvs d a b w l) s = execVmvvs d a b w l s := rfl
theorem exec_vpld d a n l (s : State) : exec (.vpld d a n l) s = execVpld d a n l s := rfl
theorem exec_vpst d a n l (s : State) : exec (.vpst d a n l) s = execVpst d a n l s := rfl

end Sys2Proof.Machine
end

