-- ==== Sys2Proof/Laws/Encoding.lean ====
section
/-! SUPPORT. The fields of a packed word read back, one law per field of each form, and a word packed again from its own fields. -/

namespace Sys2Proof

/-- The lower part of an append. -/
theorem extract_append_low {v w : Nat} (x : BitVec v) (y : BitVec w) (lo n : Nat) (h : lo + n ≤ w) :
    (x ++ y).extractLsb' lo n = y.extractLsb' lo n := by
  apply BitVec.eq_of_getLsbD_eq
  intro i hi
  simp only [BitVec.getLsbD_extractLsb', hi, decide_true, Bool.true_and, BitVec.getLsbD_append]
  rw [if_pos (by omega)]

/-- The upper part of an append. -/
theorem extract_append_high {v w : Nat} (x : BitVec v) (y : BitVec w) (lo n : Nat) (h : w ≤ lo) :
    (x ++ y).extractLsb' lo n = x.extractLsb' (lo - w) n := by
  apply BitVec.eq_of_getLsbD_eq
  intro i hi
  simp only [BitVec.getLsbD_extractLsb', hi, decide_true, Bool.true_and, BitVec.getLsbD_append]
  rw [if_neg (by omega), show lo + i - w = lo - w + i by omega]

/-- All of a word. -/
theorem extract_all {w : Nat} (x : BitVec w) : x.extractLsb' 0 w = x := by
  apply BitVec.eq_of_getLsbD_eq
  intro i hi
  simp only [BitVec.getLsbD_extractLsb', hi, decide_true, Bool.true_and, Nat.zero_add]

/-- Two neighbouring parts of a word, appended. -/
theorem extract_join {w : Nat} (x : BitVec w) (lo m n : Nat) :
    x.extractLsb' (lo + n) m ++ x.extractLsb' lo n = x.extractLsb' lo (m + n) := by
  apply BitVec.eq_of_getLsbD_eq
  intro i hi
  simp only [BitVec.getLsbD_append, BitVec.getLsbD_extractLsb', hi, decide_true, Bool.true_and]
  split
  · rename_i h
    simp only [h, decide_true, Bool.true_and]
  · rw [decide_eq_true (by omega : i - n < m), Bool.true_and, show lo + n + (i - n) = lo + i by omega]


@[simp] theorem packR_m (m : BitVec 6) (d : BitVec 5) (a : BitVec 5) (b : BitVec 5) (fn : BitVec 7) (la : BitVec 4) : (packR m d a b fn la).extractLsb' 26 6 = m := by
  unfold packR
  rw [extract_append_high _ _ _ _ (by decide), extract_append_high _ _ _ _ (by decide), extract_append_high _ _ _ _ (by decide), extract_append_high _ _ _ _ (by decide), extract_append_high _ _ _ _ (by decide)]
  exact extract_all _
@[simp] theorem packR_d (m : BitVec 6) (d : BitVec 5) (a : BitVec 5) (b : BitVec 5) (fn : BitVec 7) (la : BitVec 4) : (packR m d a b fn la).extractLsb' 21 5 = d := by
  unfold packR
  rw [extract_append_high _ _ _ _ (by decide), extract_append_high _ _ _ _ (by decide), extract_append_high _ _ _ _ (by decide), extract_append_high _ _ _ _ (by decide)]
  rw [extract_append_low _ _ _ _ (by decide)]
  exact extract_all _
@[simp] theorem packR_a (m : BitVec 6) (d : BitVec 5) (a : BitVec 5) (b : BitVec 5) (fn : BitVec 7) (la : BitVec 4) : (packR m d a b fn la).extractLsb' 16 5 = a := by
  unfold packR
  rw [extract_append_high _ _ _ _ (by decide), extract_append_high _ _ _ _ (by decide), extract_append_high _ _ _ _ (by decide)]
  rw [extract_append_low _ _ _ _ (by decide)]
  exact extract_all _
@[simp] theorem packR_b (m : BitVec 6) (d : BitVec 5) (a : BitVec 5) (b : BitVec 5) (fn : BitVec 7) (la : BitVec 4) : (packR m d a b fn la).extractLsb' 11 5 = b := by
  unfold packR
  rw [extract_append_high _ _ _ _ (by decide), extract_append_high _ _ _ _ (by decide)]
  rw [extract_append_low _ _ _ _ (by decide)]
  exact extract_all _
@[simp] theorem packR_fn (m : BitVec 6) (d : BitVec 5) (a : BitVec 5) (b : BitVec 5) (fn : BitVec 7) (la : BitVec 4) : (packR m d a b fn la).extractLsb' 4 7 = fn := by
  unfold packR
  rw [extract_append_high _ _ _ _ (by decide)]
  rw [extract_append_low _ _ _ _ (by decide)]
  exact extract_all _
@[simp] theorem packR_la (m : BitVec 6) (d : BitVec 5) (a : BitVec 5) (b : BitVec 5) (fn : BitVec 7) (la : BitVec 4) : (packR m d a b fn la).extractLsb' 0 4 = la := by
  unfold packR
  rw [extract_append_low _ _ _ _ (by decide)]
  exact extract_all _

/-- A word packed again from its own fields. -/
theorem packR_of_word (w : IWord) : packR (w.extractLsb' 26 6) (w.extractLsb' 21 5) (w.extractLsb' 16 5) (w.extractLsb' 11 5) (w.extractLsb' 4 7) (w.extractLsb' 0 4) = w := by
  unfold packR
  rw [(extract_join w 21 6 5), (extract_join w 16 11 5), (extract_join w 11 16 5), (extract_join w 4 21 7), (extract_join w 0 28 4)]
  exact extract_all w

@[simp] theorem packI_m (m : BitVec 6) (d : BitVec 5) (a : BitVec 5) (imm : BitVec 16) : (packI m d a imm).extractLsb' 26 6 = m := by
  unfold packI
  rw [extract_append_high _ _ _ _ (by decide), extract_append_high _ _ _ _ (by decide), extract_append_high _ _ _ _ (by decide)]
  exact extract_all _
@[simp] theorem packI_d (m : BitVec 6) (d : BitVec 5) (a : BitVec 5) (imm : BitVec 16) : (packI m d a imm).extractLsb' 21 5 = d := by
  unfold packI
  rw [extract_append_high _ _ _ _ (by decide), extract_append_high _ _ _ _ (by decide)]
  rw [extract_append_low _ _ _ _ (by decide)]
  exact extract_all _
@[simp] theorem packI_a (m : BitVec 6) (d : BitVec 5) (a : BitVec 5) (imm : BitVec 16) : (packI m d a imm).extractLsb' 16 5 = a := by
  unfold packI
  rw [extract_append_high _ _ _ _ (by decide)]
  rw [extract_append_low _ _ _ _ (by decide)]
  exact extract_all _
@[simp] theorem packI_imm (m : BitVec 6) (d : BitVec 5) (a : BitVec 5) (imm : BitVec 16) : (packI m d a imm).extractLsb' 0 16 = imm := by
  unfold packI
  rw [extract_append_low _ _ _ _ (by decide)]
  exact extract_all _

/-- A word packed again from its own fields. -/
theorem packI_of_word (w : IWord) : packI (w.extractLsb' 26 6) (w.extractLsb' 21 5) (w.extractLsb' 16 5) (w.extractLsb' 0 16) = w := by
  unfold packI
  rw [(extract_join w 21 6 5), (extract_join w 16 11 5), (extract_join w 0 16 16)]
  exact extract_all w

@[simp] theorem packM_m (m : BitVec 6) (d : BitVec 5) (a : BitVec 5) (off : BitVec 12) (la : BitVec 4) : (packM m d a off la).extractLsb' 26 6 = m := by
  unfold packM
  rw [extract_append_high _ _ _ _ (by decide), extract_append_high _ _ _ _ (by decide), extract_append_high _ _ _ _ (by decide), extract_append_high _ _ _ _ (by decide)]
  exact extract_all _
@[simp] theorem packM_d (m : BitVec 6) (d : BitVec 5) (a : BitVec 5) (off : BitVec 12) (la : BitVec 4) : (packM m d a off la).extractLsb' 21 5 = d := by
  unfold packM
  rw [extract_append_high _ _ _ _ (by decide), extract_append_high _ _ _ _ (by decide), extract_append_high _ _ _ _ (by decide)]
  rw [extract_append_low _ _ _ _ (by decide)]
  exact extract_all _
@[simp] theorem packM_a (m : BitVec 6) (d : BitVec 5) (a : BitVec 5) (off : BitVec 12) (la : BitVec 4) : (packM m d a off la).extractLsb' 16 5 = a := by
  unfold packM
  rw [extract_append_high _ _ _ _ (by decide), extract_append_high _ _ _ _ (by decide)]
  rw [extract_append_low _ _ _ _ (by decide)]
  exact extract_all _
@[simp] theorem packM_off (m : BitVec 6) (d : BitVec 5) (a : BitVec 5) (off : BitVec 12) (la : BitVec 4) : (packM m d a off la).extractLsb' 4 12 = off := by
  unfold packM
  rw [extract_append_high _ _ _ _ (by decide)]
  rw [extract_append_low _ _ _ _ (by decide)]
  exact extract_all _
@[simp] theorem packM_la (m : BitVec 6) (d : BitVec 5) (a : BitVec 5) (off : BitVec 12) (la : BitVec 4) : (packM m d a off la).extractLsb' 0 4 = la := by
  unfold packM
  rw [extract_append_low _ _ _ _ (by decide)]
  exact extract_all _

/-- A word packed again from its own fields. -/
theorem packM_of_word (w : IWord) : packM (w.extractLsb' 26 6) (w.extractLsb' 21 5) (w.extractLsb' 16 5) (w.extractLsb' 4 12) (w.extractLsb' 0 4) = w := by
  unfold packM
  rw [(extract_join w 21 6 5), (extract_join w 16 11 5), (extract_join w 4 16 12), (extract_join w 0 28 4)]
  exact extract_all w

@[simp] theorem packB_m (m : BitVec 6) (a : BitVec 5) (b : BitVec 5) (off : BitVec 16) : (packB m a b off).extractLsb' 26 6 = m := by
  unfold packB
  rw [extract_append_high _ _ _ _ (by decide), extract_append_high _ _ _ _ (by decide), extract_append_high _ _ _ _ (by decide)]
  exact extract_all _
@[simp] theorem packB_a (m : BitVec 6) (a : BitVec 5) (b : BitVec 5) (off : BitVec 16) : (packB m a b off).extractLsb' 21 5 = a := by
  unfold packB
  rw [extract_append_high _ _ _ _ (by decide), extract_append_high _ _ _ _ (by decide)]
  rw [extract_append_low _ _ _ _ (by decide)]
  exact extract_all _
@[simp] theorem packB_b (m : BitVec 6) (a : BitVec 5) (b : BitVec 5) (off : BitVec 16) : (packB m a b off).extractLsb' 16 5 = b := by
  unfold packB
  rw [extract_append_high _ _ _ _ (by decide)]
  rw [extract_append_low _ _ _ _ (by decide)]
  exact extract_all _
@[simp] theorem packB_off (m : BitVec 6) (a : BitVec 5) (b : BitVec 5) (off : BitVec 16) : (packB m a b off).extractLsb' 0 16 = off := by
  unfold packB
  rw [extract_append_low _ _ _ _ (by decide)]
  exact extract_all _

/-- A word packed again from its own fields. -/
theorem packB_of_word (w : IWord) : packB (w.extractLsb' 26 6) (w.extractLsb' 21 5) (w.extractLsb' 16 5) (w.extractLsb' 0 16) = w := by
  unfold packB
  rw [(extract_join w 21 6 5), (extract_join w 16 11 5), (extract_join w 0 16 16)]
  exact extract_all w

@[simp] theorem packJ_m (m : BitVec 6) (off : BitVec 26) : (packJ m off).extractLsb' 26 6 = m := by
  unfold packJ
  rw [extract_append_high _ _ _ _ (by decide)]
  exact extract_all _
@[simp] theorem packJ_off (m : BitVec 6) (off : BitVec 26) : (packJ m off).extractLsb' 0 26 = off := by
  unfold packJ
  rw [extract_append_low _ _ _ _ (by decide)]
  exact extract_all _

/-- A word packed again from its own fields. -/
theorem packJ_of_word (w : IWord) : packJ (w.extractLsb' 26 6) (w.extractLsb' 0 26) = w := by
  unfold packJ
  rw [(extract_join w 0 6 26)]
  exact extract_all w

@[simp] theorem packS_m (m : BitVec 6) (d : BitVec 5) (a : BitVec 5) (sub : BitVec 4) (imm : BitVec 12) : (packS m d a sub imm).extractLsb' 26 6 = m := by
  unfold packS
  rw [extract_append_high _ _ _ _ (by decide), extract_append_high _ _ _ _ (by decide), extract_append_high _ _ _ _ (by decide), extract_append_high _ _ _ _ (by decide)]
  exact extract_all _
@[simp] theorem packS_d (m : BitVec 6) (d : BitVec 5) (a : BitVec 5) (sub : BitVec 4) (imm : BitVec 12) : (packS m d a sub imm).extractLsb' 21 5 = d := by
  unfold packS
  rw [extract_append_high _ _ _ _ (by decide), extract_append_high _ _ _ _ (by decide), extract_append_high _ _ _ _ (by decide)]
  rw [extract_append_low _ _ _ _ (by decide)]
  exact extract_all _
@[simp] theorem packS_a (m : BitVec 6) (d : BitVec 5) (a : BitVec 5) (sub : BitVec 4) (imm : BitVec 12) : (packS m d a sub imm).extractLsb' 16 5 = a := by
  unfold packS
  rw [extract_append_high _ _ _ _ (by decide), extract_append_high _ _ _ _ (by decide)]
  rw [extract_append_low _ _ _ _ (by decide)]
  exact extract_all _
@[simp] theorem packS_sub (m : BitVec 6) (d : BitVec 5) (a : BitVec 5) (sub : BitVec 4) (imm : BitVec 12) : (packS m d a sub imm).extractLsb' 12 4 = sub := by
  unfold packS
  rw [extract_append_high _ _ _ _ (by decide)]
  rw [extract_append_low _ _ _ _ (by decide)]
  exact extract_all _
@[simp] theorem packS_imm (m : BitVec 6) (d : BitVec 5) (a : BitVec 5) (sub : BitVec 4) (imm : BitVec 12) : (packS m d a sub imm).extractLsb' 0 12 = imm := by
  unfold packS
  rw [extract_append_low _ _ _ _ (by decide)]
  exact extract_all _

/-- A word packed again from its own fields. -/
theorem packS_of_word (w : IWord) : packS (w.extractLsb' 26 6) (w.extractLsb' 21 5) (w.extractLsb' 16 5) (w.extractLsb' 12 4) (w.extractLsb' 0 12) = w := by
  unfold packS
  rw [(extract_join w 21 6 5), (extract_join w 16 11 5), (extract_join w 12 16 4), (extract_join w 0 20 12)]
  exact extract_all w

@[simp] theorem packBF_m (m : BitVec 6) (d : BitVec 5) (a : BitVec 5) (pos : BitVec 6) (len : BitVec 6) (sub : BitVec 2) (z : BitVec 2) : (packBF m d a pos len sub z).extractLsb' 26 6 = m := by
  unfold packBF
  rw [extract_append_high _ _ _ _ (by decide), extract_append_high _ _ _ _ (by decide), extract_append_high _ _ _ _ (by decide), extract_append_high _ _ _ _ (by decide), extract_append_high _ _ _ _ (by decide), extract_append_high _ _ _ _ (by decide)]
  exact extract_all _
@[simp] theorem packBF_d (m : BitVec 6) (d : BitVec 5) (a : BitVec 5) (pos : BitVec 6) (len : BitVec 6) (sub : BitVec 2) (z : BitVec 2) : (packBF m d a pos len sub z).extractLsb' 21 5 = d := by
  unfold packBF
  rw [extract_append_high _ _ _ _ (by decide), extract_append_high _ _ _ _ (by decide), extract_append_high _ _ _ _ (by decide), extract_append_high _ _ _ _ (by decide), extract_append_high _ _ _ _ (by decide)]
  rw [extract_append_low _ _ _ _ (by decide)]
  exact extract_all _
@[simp] theorem packBF_a (m : BitVec 6) (d : BitVec 5) (a : BitVec 5) (pos : BitVec 6) (len : BitVec 6) (sub : BitVec 2) (z : BitVec 2) : (packBF m d a pos len sub z).extractLsb' 16 5 = a := by
  unfold packBF
  rw [extract_append_high _ _ _ _ (by decide), extract_append_high _ _ _ _ (by decide), extract_append_high _ _ _ _ (by decide), extract_append_high _ _ _ _ (by decide)]
  rw [extract_append_low _ _ _ _ (by decide)]
  exact extract_all _
@[simp] theorem packBF_pos (m : BitVec 6) (d : BitVec 5) (a : BitVec 5) (pos : BitVec 6) (len : BitVec 6) (sub : BitVec 2) (z : BitVec 2) : (packBF m d a pos len sub z).extractLsb' 10 6 = pos := by
  unfold packBF
  rw [extract_append_high _ _ _ _ (by decide), extract_append_high _ _ _ _ (by decide), extract_append_high _ _ _ _ (by decide)]
  rw [extract_append_low _ _ _ _ (by decide)]
  exact extract_all _
@[simp] theorem packBF_len (m : BitVec 6) (d : BitVec 5) (a : BitVec 5) (pos : BitVec 6) (len : BitVec 6) (sub : BitVec 2) (z : BitVec 2) : (packBF m d a pos len sub z).extractLsb' 4 6 = len := by
  unfold packBF
  rw [extract_append_high _ _ _ _ (by decide), extract_append_high _ _ _ _ (by decide)]
  rw [extract_append_low _ _ _ _ (by decide)]
  exact extract_all _
@[simp] theorem packBF_sub (m : BitVec 6) (d : BitVec 5) (a : BitVec 5) (pos : BitVec 6) (len : BitVec 6) (sub : BitVec 2) (z : BitVec 2) : (packBF m d a pos len sub z).extractLsb' 2 2 = sub := by
  unfold packBF
  rw [extract_append_high _ _ _ _ (by decide)]
  rw [extract_append_low _ _ _ _ (by decide)]
  exact extract_all _
@[simp] theorem packBF_z (m : BitVec 6) (d : BitVec 5) (a : BitVec 5) (pos : BitVec 6) (len : BitVec 6) (sub : BitVec 2) (z : BitVec 2) : (packBF m d a pos len sub z).extractLsb' 0 2 = z := by
  unfold packBF
  rw [extract_append_low _ _ _ _ (by decide)]
  exact extract_all _

/-- A word packed again from its own fields. -/
theorem packBF_of_word (w : IWord) : packBF (w.extractLsb' 26 6) (w.extractLsb' 21 5) (w.extractLsb' 16 5) (w.extractLsb' 10 6) (w.extractLsb' 4 6) (w.extractLsb' 2 2) (w.extractLsb' 0 2) = w := by
  unfold packBF
  rw [(extract_join w 21 6 5), (extract_join w 16 11 5), (extract_join w 10 16 6), (extract_join w 4 22 6), (extract_join w 2 28 2), (extract_join w 0 30 2)]
  exact extract_all w

@[simp] theorem packFS_m (m : BitVec 6) (d : BitVec 5) (a : BitVec 5) (b : BitVec 5) (c : BitVec 5) (sub : BitVec 2) (z : BitVec 4) : (packFS m d a b c sub z).extractLsb' 26 6 = m := by
  unfold packFS
  rw [extract_append_high _ _ _ _ (by decide), extract_append_high _ _ _ _ (by decide), extract_append_high _ _ _ _ (by decide), extract_append_high _ _ _ _ (by decide), extract_append_high _ _ _ _ (by decide), extract_append_high _ _ _ _ (by decide)]
  exact extract_all _
@[simp] theorem packFS_d (m : BitVec 6) (d : BitVec 5) (a : BitVec 5) (b : BitVec 5) (c : BitVec 5) (sub : BitVec 2) (z : BitVec 4) : (packFS m d a b c sub z).extractLsb' 21 5 = d := by
  unfold packFS
  rw [extract_append_high _ _ _ _ (by decide), extract_append_high _ _ _ _ (by decide), extract_append_high _ _ _ _ (by decide), extract_append_high _ _ _ _ (by decide), extract_append_high _ _ _ _ (by decide)]
  rw [extract_append_low _ _ _ _ (by decide)]
  exact extract_all _
@[simp] theorem packFS_a (m : BitVec 6) (d : BitVec 5) (a : BitVec 5) (b : BitVec 5) (c : BitVec 5) (sub : BitVec 2) (z : BitVec 4) : (packFS m d a b c sub z).extractLsb' 16 5 = a := by
  unfold packFS
  rw [extract_append_high _ _ _ _ (by decide), extract_append_high _ _ _ _ (by decide), extract_append_high _ _ _ _ (by decide), extract_append_high _ _ _ _ (by decide)]
  rw [extract_append_low _ _ _ _ (by decide)]
  exact extract_all _
@[simp] theorem packFS_b (m : BitVec 6) (d : BitVec 5) (a : BitVec 5) (b : BitVec 5) (c : BitVec 5) (sub : BitVec 2) (z : BitVec 4) : (packFS m d a b c sub z).extractLsb' 11 5 = b := by
  unfold packFS
  rw [extract_append_high _ _ _ _ (by decide), extract_append_high _ _ _ _ (by decide), extract_append_high _ _ _ _ (by decide)]
  rw [extract_append_low _ _ _ _ (by decide)]
  exact extract_all _
@[simp] theorem packFS_c (m : BitVec 6) (d : BitVec 5) (a : BitVec 5) (b : BitVec 5) (c : BitVec 5) (sub : BitVec 2) (z : BitVec 4) : (packFS m d a b c sub z).extractLsb' 6 5 = c := by
  unfold packFS
  rw [extract_append_high _ _ _ _ (by decide), extract_append_high _ _ _ _ (by decide)]
  rw [extract_append_low _ _ _ _ (by decide)]
  exact extract_all _
@[simp] theorem packFS_sub (m : BitVec 6) (d : BitVec 5) (a : BitVec 5) (b : BitVec 5) (c : BitVec 5) (sub : BitVec 2) (z : BitVec 4) : (packFS m d a b c sub z).extractLsb' 4 2 = sub := by
  unfold packFS
  rw [extract_append_high _ _ _ _ (by decide)]
  rw [extract_append_low _ _ _ _ (by decide)]
  exact extract_all _
@[simp] theorem packFS_z (m : BitVec 6) (d : BitVec 5) (a : BitVec 5) (b : BitVec 5) (c : BitVec 5) (sub : BitVec 2) (z : BitVec 4) : (packFS m d a b c sub z).extractLsb' 0 4 = z := by
  unfold packFS
  rw [extract_append_low _ _ _ _ (by decide)]
  exact extract_all _

/-- A word packed again from its own fields. -/
theorem packFS_of_word (w : IWord) : packFS (w.extractLsb' 26 6) (w.extractLsb' 21 5) (w.extractLsb' 16 5) (w.extractLsb' 11 5) (w.extractLsb' 6 5) (w.extractLsb' 4 2) (w.extractLsb' 0 4) = w := by
  unfold packFS
  rw [(extract_join w 21 6 5), (extract_join w 16 11 5), (extract_join w 11 16 5), (extract_join w 6 21 5), (extract_join w 4 26 2), (extract_join w 0 28 4)]
  exact extract_all w

@[simp] theorem packV_m (m : BitVec 6) (d : BitVec 5) (a : BitVec 5) (b : BitVec 5) (fn : BitVec 4) (pm : BitVec 3) (la : BitVec 4) : (packV m d a b fn pm la).extractLsb' 26 6 = m := by
  unfold packV
  rw [extract_append_high _ _ _ _ (by decide), extract_append_high _ _ _ _ (by decide), extract_append_high _ _ _ _ (by decide), extract_append_high _ _ _ _ (by decide), extract_append_high _ _ _ _ (by decide), extract_append_high _ _ _ _ (by decide)]
  exact extract_all _
@[simp] theorem packV_d (m : BitVec 6) (d : BitVec 5) (a : BitVec 5) (b : BitVec 5) (fn : BitVec 4) (pm : BitVec 3) (la : BitVec 4) : (packV m d a b fn pm la).extractLsb' 21 5 = d := by
  unfold packV
  rw [extract_append_high _ _ _ _ (by decide), extract_append_high _ _ _ _ (by decide), extract_append_high _ _ _ _ (by decide), extract_append_high _ _ _ _ (by decide), extract_append_high _ _ _ _ (by decide)]
  rw [extract_append_low _ _ _ _ (by decide)]
  exact extract_all _
@[simp] theorem packV_a (m : BitVec 6) (d : BitVec 5) (a : BitVec 5) (b : BitVec 5) (fn : BitVec 4) (pm : BitVec 3) (la : BitVec 4) : (packV m d a b fn pm la).extractLsb' 16 5 = a := by
  unfold packV
  rw [extract_append_high _ _ _ _ (by decide), extract_append_high _ _ _ _ (by decide), extract_append_high _ _ _ _ (by decide), extract_append_high _ _ _ _ (by decide)]
  rw [extract_append_low _ _ _ _ (by decide)]
  exact extract_all _
@[simp] theorem packV_b (m : BitVec 6) (d : BitVec 5) (a : BitVec 5) (b : BitVec 5) (fn : BitVec 4) (pm : BitVec 3) (la : BitVec 4) : (packV m d a b fn pm la).extractLsb' 11 5 = b := by
  unfold packV
  rw [extract_append_high _ _ _ _ (by decide), extract_append_high _ _ _ _ (by decide), extract_append_high _ _ _ _ (by decide)]
  rw [extract_append_low _ _ _ _ (by decide)]
  exact extract_all _
@[simp] theorem packV_fn (m : BitVec 6) (d : BitVec 5) (a : BitVec 5) (b : BitVec 5) (fn : BitVec 4) (pm : BitVec 3) (la : BitVec 4) : (packV m d a b fn pm la).extractLsb' 7 4 = fn := by
  unfold packV
  rw [extract_append_high _ _ _ _ (by decide), extract_append_high _ _ _ _ (by decide)]
  rw [extract_append_low _ _ _ _ (by decide)]
  exact extract_all _
@[simp] theorem packV_pm (m : BitVec 6) (d : BitVec 5) (a : BitVec 5) (b : BitVec 5) (fn : BitVec 4) (pm : BitVec 3) (la : BitVec 4) : (packV m d a b fn pm la).extractLsb' 4 3 = pm := by
  unfold packV
  rw [extract_append_high _ _ _ _ (by decide)]
  rw [extract_append_low _ _ _ _ (by decide)]
  exact extract_all _
@[simp] theorem packV_la (m : BitVec 6) (d : BitVec 5) (a : BitVec 5) (b : BitVec 5) (fn : BitVec 4) (pm : BitVec 3) (la : BitVec 4) : (packV m d a b fn pm la).extractLsb' 0 4 = la := by
  unfold packV
  rw [extract_append_low _ _ _ _ (by decide)]
  exact extract_all _

/-- A word packed again from its own fields. -/
theorem packV_of_word (w : IWord) : packV (w.extractLsb' 26 6) (w.extractLsb' 21 5) (w.extractLsb' 16 5) (w.extractLsb' 11 5) (w.extractLsb' 7 4) (w.extractLsb' 4 3) (w.extractLsb' 0 4) = w := by
  unfold packV
  rw [(extract_join w 21 6 5), (extract_join w 16 11 5), (extract_join w 11 16 5), (extract_join w 7 21 4), (extract_join w 4 25 3), (extract_join w 0 28 4)]
  exact extract_all w

end Sys2Proof
end

