-- ==== Sys2Proof/Laws/Table.lean ====
section
/-! SUPPORT. Laws of tables, sets and memory: read after write, and the canonical form that every memory operation keeps. -/

namespace Sys2Proof.Machine

/-! ### Tables -/

theorem tget_tset_self {α : Type} (d x : α) (t : Table α) (k : Nat) : tget d (tset t k x) k = x := by
  induction t with
  | nil => simp [tset, tget]
  | cons p t ih =>
    obtain ⟨j, y⟩ := p
    simp only [tset]
    split
    · simp [tget]
    · split
      · simp [tget]
      · rename_i h1 h2
        simp only [tget, ih, if_neg (fun h : j = k => h2 h.symm)]

theorem tget_tset_other {α : Type} (d x : α) (t : Table α) {j k : Nat} (h : j ≠ k) : tget d (tset t k x) j = tget d t j := by
  induction t with
  | nil => simp [tset, tget, Ne.symm h]
  | cons p t ih =>
    obtain ⟨i, y⟩ := p
    simp only [tset]
    split
    · simp [tget, Ne.symm h]
    · split
      · rename_i h1 h2
        subst h2
        simp [tget, Ne.symm h]
      · simp only [tget, ih]

theorem tset_sorted {α : Type} (x : α) (t : Table α) (k lo : Nat) (h : tsorted lo t = true) (hk : lo ≤ k) :
    tsorted lo (tset t k x) = true := by
  induction t generalizing lo with
  | nil => simp [tset, tsorted, hk]
  | cons p t ih =>
    obtain ⟨j, y⟩ := p
    simp only [tsorted, Bool.and_eq_true, decide_eq_true_eq] at h
    simp only [tset]
    split
    · simp only [tsorted, Bool.and_eq_true, decide_eq_true_eq]
      exact ⟨hk, by omega, h.2⟩
    · split
      · rename_i h2
        subst h2
        simp [tsorted, h.1, h.2]
      · simp only [tsorted, Bool.and_eq_true, decide_eq_true_eq]
        exact ⟨h.1, ih (j + 1) h.2 (by omega)⟩

/-! ### The canonical form of a memory -/

theorem wfFrom_le {lo lo' : Nat} {m : Memory} (h : Memory.wfFrom lo m = true) (hl : lo' ≤ lo) : Memory.wfFrom lo' m = true := by
  cases m with
  | nil => rfl
  | cons p t =>
    obtain ⟨a, b⟩ := p
    simp only [Memory.wfFrom, Bool.and_eq_true, decide_eq_true_eq] at h ⊢
    exact ⟨⟨by omega, h.1.2⟩, h.2⟩

theorem tset_wf (b : Byte) (m : Memory) (a lo : Nat) (h : Memory.wfFrom lo m = true) (hb : b ≠ 0) (ha : lo ≤ a) :
    Memory.wfFrom lo (tset m a b) = true := by
  induction m generalizing lo with
  | nil =>
    simp only [tset, Memory.wfFrom, Bool.and_true, Bool.and_eq_true, decide_eq_true_eq]
    exact ⟨ha, hb⟩
  | cons p t ih =>
    obtain ⟨j, y⟩ := p
    simp only [Memory.wfFrom, Bool.and_eq_true, decide_eq_true_eq] at h
    simp only [tset]
    split
    · simp only [Memory.wfFrom, Bool.and_eq_true, decide_eq_true_eq]
      exact ⟨⟨ha, hb⟩, ⟨by omega, h.1.2⟩, h.2⟩
    · split
      · rename_i h2
        subst h2
        simp only [Memory.wfFrom, Bool.and_eq_true, decide_eq_true_eq]
        exact ⟨⟨h.1.1, hb⟩, h.2⟩
      · simp only [Memory.wfFrom, Bool.and_eq_true, decide_eq_true_eq]
        exact ⟨h.1, ih (j + 1) h.2 (by omega)⟩

theorem tdel_wf (m : Memory) (a lo : Nat) (h : Memory.wfFrom lo m = true) : Memory.wfFrom lo (tdel m a) = true := by
  induction m generalizing lo with
  | nil => rfl
  | cons p t ih =>
    obtain ⟨j, y⟩ := p
    simp only [Memory.wfFrom, Bool.and_eq_true, decide_eq_true_eq] at h
    simp only [tdel]
    split
    · exact wfFrom_le h.2 (by omega)
    · simp only [Memory.wfFrom, Bool.and_eq_true, decide_eq_true_eq]
      exact ⟨h.1, ih (j + 1) h.2⟩

/-- A byte written keeps the canonical form. -/
theorem memSet_wf (m : Memory) (a : Nat) (b : Byte) (h : m.wf = true) : Memory.wf (memSet m a b) = true := by
  unfold memSet
  split
  · exact tdel_wf m a 0 h
  · rename_i hb
    exact tset_wf b m a 0 h hb (Nat.zero_le _)

/-- Bytes written keep the canonical form. -/
theorem memPut_wf (m : Memory) (a : Nat) (l : List Byte) (h : m.wf = true) : Memory.wf (memPut m a l) = true := by
  induction l generalizing m a with
  | nil => exact h
  | cons b t ih => exact ih _ _ (memSet_wf m a b h)

/-- Bytes left out keep the canonical form. -/
theorem filter_wf (p : Host.Cell → Bool) (m : Memory) (lo : Nat) (h : Memory.wfFrom lo m = true) :
    Memory.wfFrom lo (m.filter p) = true := by
  induction m generalizing lo with
  | nil => rfl
  | cons c t ih =>
    obtain ⟨j, y⟩ := c
    simp only [Memory.wfFrom, Bool.and_eq_true, decide_eq_true_eq] at h
    simp only [List.filter]
    split
    · simp only [Memory.wfFrom, Bool.and_eq_true, decide_eq_true_eq]
      exact ⟨h.1, ih (j + 1) h.2⟩
    · exact wfFrom_le (ih (j + 1) h.2) (by omega)

theorem tget_below (m : Memory) (a lo : Nat) (h : Memory.wfFrom lo m = true) (ha : a < lo) (d : Byte) : tget d m a = d := by
  induction m generalizing lo with
  | nil => rfl
  | cons c t ih =>
    obtain ⟨j, y⟩ := c
    simp only [Memory.wfFrom, Bool.and_eq_true, decide_eq_true_eq] at h
    simp only [tget, if_neg (by omega : ¬ j = a)]
    exact ih (j + 1) h.2 (by omega)

theorem tget_tdel (m : Memory) (a lo : Nat) (h : Memory.wfFrom lo m = true) (d : Byte) : tget d (tdel m a) a = d := by
  induction m generalizing lo with
  | nil => rfl
  | cons c t ih =>
    obtain ⟨j, y⟩ := c
    simp only [Memory.wfFrom, Bool.and_eq_true, decide_eq_true_eq] at h
    simp only [tdel]
    split
    · rename_i e
      subst e
      exact tget_below t a (a + 1) h.2 (by omega) d
    · rename_i e
      simp only [tget, if_neg (fun x : j = a => e x.symm)]
      exact ih (j + 1) h.2

theorem tget_tdel_other {α : Type} (d : α) (t : Table α) {j k : Nat} (h : j ≠ k) : tget d (tdel t k) j = tget d t j := by
  induction t with
  | nil => rfl
  | cons p t ih =>
    obtain ⟨i, y⟩ := p
    simp only [tdel]
    split
    · rename_i e
      subst e
      simp [tget, Ne.symm h]
    · simp only [tget, ih]

/-- A byte reads back as written. -/
theorem memGet_memSet (m : Memory) (a : Nat) (b : Byte) (h : m.wf = true) : memGet (memSet m a b) a = b := by
  unfold memGet memSet
  split
  · rename_i e
    rw [tget_tdel m a 0 h]
    exact e.symm
  · exact tget_tset_self _ _ _ _

/-- A write leaves every other byte alone. -/
theorem memGet_memSet_other (m : Memory) {a x : Nat} (b : Byte) (h : x ≠ a) : memGet (memSet m a b) x = memGet m x := by
  unfold memGet memSet
  split
  · exact tget_tdel_other _ _ h
  · exact tget_tset_other _ _ _ h

/-- Bytes below a write are left alone. -/
theorem memGet_memPut_below (m : Memory) (a x : Nat) (l : List Byte) (h : x < a) : memGet (memPut m a l) x = memGet m x := by
  induction l generalizing m a with
  | nil => rfl
  | cons b t ih =>
    simp only [memPut]
    rw [ih _ _ (by omega), memGet_memSet_other m b (by omega)]

/-- Bytes read back as written. -/
theorem memGet_memPut (m : Memory) (a : Nat) (l : List Byte) (h : m.wf = true) (i : Nat) (hi : i < l.length) :
    memGet (memPut m a l) (a + i) = l[i] := by
  induction l generalizing m a i with
  | nil => simp at hi
  | cons b t ih =>
    simp only [memPut]
    cases i with
    | zero =>
      rw [memGet_memPut_below _ _ _ _ (by omega)]
      exact memGet_memSet m a b h
    | succ n =>
      have := ih (memSet m a b) (a + 1) (memSet_wf m a b h) n (by simpa using hi)
      rw [show a + (n + 1) = a + 1 + n by omega, this]
      rfl

/-- A write of bytes leaves every other byte alone. -/
theorem memGet_memPut_other (m : Memory) (a x : Nat) (l : List Byte) (h : x < a ∨ a + l.length ≤ x) :
    memGet (memPut m a l) x = memGet m x := by
  induction l generalizing m a with
  | nil => rfl
  | cons b t ih =>
    simp only [memPut]
    rw [ih _ _ (by simp at h; omega), memGet_memSet_other m b (by simp at h; omega)]

end Sys2Proof.Machine
end

