-- ==== Sys2Proof/Laws/State.lean ====
section
/-! SUPPORT. One lemma per field of `State` and update: an update changes the one field it names. Then what each update reads
back as. -/

namespace Sys2Proof.Machine

/-! ### State.setCore -/

@[simp] theorem State.setCore_forges (s : State) (a : Nat) (c : Core) : (s.setCore a c).forges = s.forges := rfl
@[simp] theorem State.setCore_dies (s : State) (a : Nat) (c : Core) : (s.setCore a c).dies = s.dies := rfl
@[simp] theorem State.setCore_homes (s : State) (a : Nat) (c : Core) : (s.setCore a c).homes = s.homes := rfl
@[simp] theorem State.setCore_pkg (s : State) (a : Nat) (c : Core) : (s.setCore a c).pkg = s.pkg := rfl
@[simp] theorem State.setCore_mem (s : State) (a : Nat) (c : Core) : (s.setCore a c).mem = s.mem := rfl
@[simp] theorem State.setCore_full (s : State) (a : Nat) (c : Core) : (s.setCore a c).full = s.full := rfl
@[simp] theorem State.setCore_poison (s : State) (a : Nat) (c : Core) : (s.setCore a c).poison = s.poison := rfl
@[simp] theorem State.setCore_hearth (s : State) (a : Nat) (c : Core) : (s.setCore a c).hearth = s.hearth := rfl
@[simp] theorem State.setCore_pushes (s : State) (a : Nat) (c : Core) : (s.setCore a c).pushes = s.pushes := rfl
@[simp] theorem State.setCore_commits (s : State) (a : Nat) (c : Core) : (s.setCore a c).commits = s.commits := rfl
@[simp] theorem State.setCore_msgs (s : State) (a : Nat) (c : Core) : (s.setCore a c).msgs = s.msgs := rfl
@[simp] theorem State.setCore_linkMsgs (s : State) (a : Nat) (c : Core) : (s.setCore a c).linkMsgs = s.linkMsgs := rfl
@[simp] theorem State.setCore_skxMsgs (s : State) (a : Nat) (c : Core) : (s.setCore a c).skxMsgs = s.skxMsgs := rfl
@[simp] theorem State.setCore_deliveries (s : State) (a : Nat) (c : Core) : (s.setCore a c).deliveries = s.deliveries := rfl
@[simp] theorem State.setCore_arrivals (s : State) (a : Nat) (c : Core) : (s.setCore a c).arrivals = s.arrivals := rfl
@[simp] theorem State.setCore_signals (s : State) (a : Nat) (c : Core) : (s.setCore a c).signals = s.signals := rfl
@[simp] theorem State.setCore_atomics (s : State) (a : Nat) (c : Core) : (s.setCore a c).atomics = s.atomics := rfl
@[simp] theorem State.setCore_notices (s : State) (a : Nat) (c : Core) : (s.setCore a c).notices = s.notices := rfl
@[simp] theorem State.setCore_feWaiters (s : State) (a : Nat) (c : Core) : (s.setCore a c).feWaiters = s.feWaiters := rfl
@[simp] theorem State.setCore_colls (s : State) (a : Nat) (c : Core) : (s.setCore a c).colls = s.colls := rfl
@[simp] theorem State.setCore_serial (s : State) (a : Nat) (c : Core) : (s.setCore a c).serial = s.serial := rfl
@[simp] theorem State.setCore_fresh (s : State) (a : Nat) (c : Core) : (s.setCore a c).fresh = s.fresh := rfl
@[simp] theorem State.setCore_ir (s : State) (a : Nat) (c : Core) : (s.setCore a c).ir = s.ir := rfl
@[simp] theorem State.setCore_leave (s : State) (a : Nat) (c : Core) : (s.setCore a c).leave = s.leave := rfl
@[simp] theorem State.setCore_reissuing (s : State) (a : Nat) (c : Core) : (s.setCore a c).reissuing = s.reissuing := rfl
@[simp] theorem State.setCore_cur (s : State) (a : Nat) (c : Core) : (s.setCore a c).cur = s.cur := rfl
@[simp] theorem State.setCore_schedule (s : State) (a : Nat) (c : Core) : (s.setCore a c).schedule = s.schedule := rfl

/-! ### State.mapCore -/

@[simp] theorem State.mapCore_forges (s : State) (a : Nat) (f : Core → Core) : (s.mapCore a f).forges = s.forges := rfl
@[simp] theorem State.mapCore_dies (s : State) (a : Nat) (f : Core → Core) : (s.mapCore a f).dies = s.dies := rfl
@[simp] theorem State.mapCore_homes (s : State) (a : Nat) (f : Core → Core) : (s.mapCore a f).homes = s.homes := rfl
@[simp] theorem State.mapCore_pkg (s : State) (a : Nat) (f : Core → Core) : (s.mapCore a f).pkg = s.pkg := rfl
@[simp] theorem State.mapCore_mem (s : State) (a : Nat) (f : Core → Core) : (s.mapCore a f).mem = s.mem := rfl
@[simp] theorem State.mapCore_full (s : State) (a : Nat) (f : Core → Core) : (s.mapCore a f).full = s.full := rfl
@[simp] theorem State.mapCore_poison (s : State) (a : Nat) (f : Core → Core) : (s.mapCore a f).poison = s.poison := rfl
@[simp] theorem State.mapCore_hearth (s : State) (a : Nat) (f : Core → Core) : (s.mapCore a f).hearth = s.hearth := rfl
@[simp] theorem State.mapCore_pushes (s : State) (a : Nat) (f : Core → Core) : (s.mapCore a f).pushes = s.pushes := rfl
@[simp] theorem State.mapCore_commits (s : State) (a : Nat) (f : Core → Core) : (s.mapCore a f).commits = s.commits := rfl
@[simp] theorem State.mapCore_msgs (s : State) (a : Nat) (f : Core → Core) : (s.mapCore a f).msgs = s.msgs := rfl
@[simp] theorem State.mapCore_linkMsgs (s : State) (a : Nat) (f : Core → Core) : (s.mapCore a f).linkMsgs = s.linkMsgs := rfl
@[simp] theorem State.mapCore_skxMsgs (s : State) (a : Nat) (f : Core → Core) : (s.mapCore a f).skxMsgs = s.skxMsgs := rfl
@[simp] theorem State.mapCore_deliveries (s : State) (a : Nat) (f : Core → Core) : (s.mapCore a f).deliveries = s.deliveries := rfl
@[simp] theorem State.mapCore_arrivals (s : State) (a : Nat) (f : Core → Core) : (s.mapCore a f).arrivals = s.arrivals := rfl
@[simp] theorem State.mapCore_signals (s : State) (a : Nat) (f : Core → Core) : (s.mapCore a f).signals = s.signals := rfl
@[simp] theorem State.mapCore_atomics (s : State) (a : Nat) (f : Core → Core) : (s.mapCore a f).atomics = s.atomics := rfl
@[simp] theorem State.mapCore_notices (s : State) (a : Nat) (f : Core → Core) : (s.mapCore a f).notices = s.notices := rfl
@[simp] theorem State.mapCore_feWaiters (s : State) (a : Nat) (f : Core → Core) : (s.mapCore a f).feWaiters = s.feWaiters := rfl
@[simp] theorem State.mapCore_colls (s : State) (a : Nat) (f : Core → Core) : (s.mapCore a f).colls = s.colls := rfl
@[simp] theorem State.mapCore_serial (s : State) (a : Nat) (f : Core → Core) : (s.mapCore a f).serial = s.serial := rfl
@[simp] theorem State.mapCore_fresh (s : State) (a : Nat) (f : Core → Core) : (s.mapCore a f).fresh = s.fresh := rfl
@[simp] theorem State.mapCore_ir (s : State) (a : Nat) (f : Core → Core) : (s.mapCore a f).ir = s.ir := rfl
@[simp] theorem State.mapCore_leave (s : State) (a : Nat) (f : Core → Core) : (s.mapCore a f).leave = s.leave := rfl
@[simp] theorem State.mapCore_reissuing (s : State) (a : Nat) (f : Core → Core) : (s.mapCore a f).reissuing = s.reissuing := rfl
@[simp] theorem State.mapCore_cur (s : State) (a : Nat) (f : Core → Core) : (s.mapCore a f).cur = s.cur := rfl
@[simp] theorem State.mapCore_schedule (s : State) (a : Nat) (f : Core → Core) : (s.mapCore a f).schedule = s.schedule := rfl

/-! ### State.me -/

@[simp] theorem State.me_forges (s : State) (f : Core → Core) : (s.me f).forges = s.forges := rfl
@[simp] theorem State.me_dies (s : State) (f : Core → Core) : (s.me f).dies = s.dies := rfl
@[simp] theorem State.me_homes (s : State) (f : Core → Core) : (s.me f).homes = s.homes := rfl
@[simp] theorem State.me_pkg (s : State) (f : Core → Core) : (s.me f).pkg = s.pkg := rfl
@[simp] theorem State.me_mem (s : State) (f : Core → Core) : (s.me f).mem = s.mem := rfl
@[simp] theorem State.me_full (s : State) (f : Core → Core) : (s.me f).full = s.full := rfl
@[simp] theorem State.me_poison (s : State) (f : Core → Core) : (s.me f).poison = s.poison := rfl
@[simp] theorem State.me_hearth (s : State) (f : Core → Core) : (s.me f).hearth = s.hearth := rfl
@[simp] theorem State.me_pushes (s : State) (f : Core → Core) : (s.me f).pushes = s.pushes := rfl
@[simp] theorem State.me_commits (s : State) (f : Core → Core) : (s.me f).commits = s.commits := rfl
@[simp] theorem State.me_msgs (s : State) (f : Core → Core) : (s.me f).msgs = s.msgs := rfl
@[simp] theorem State.me_linkMsgs (s : State) (f : Core → Core) : (s.me f).linkMsgs = s.linkMsgs := rfl
@[simp] theorem State.me_skxMsgs (s : State) (f : Core → Core) : (s.me f).skxMsgs = s.skxMsgs := rfl
@[simp] theorem State.me_deliveries (s : State) (f : Core → Core) : (s.me f).deliveries = s.deliveries := rfl
@[simp] theorem State.me_arrivals (s : State) (f : Core → Core) : (s.me f).arrivals = s.arrivals := rfl
@[simp] theorem State.me_signals (s : State) (f : Core → Core) : (s.me f).signals = s.signals := rfl
@[simp] theorem State.me_atomics (s : State) (f : Core → Core) : (s.me f).atomics = s.atomics := rfl
@[simp] theorem State.me_notices (s : State) (f : Core → Core) : (s.me f).notices = s.notices := rfl
@[simp] theorem State.me_feWaiters (s : State) (f : Core → Core) : (s.me f).feWaiters = s.feWaiters := rfl
@[simp] theorem State.me_colls (s : State) (f : Core → Core) : (s.me f).colls = s.colls := rfl
@[simp] theorem State.me_serial (s : State) (f : Core → Core) : (s.me f).serial = s.serial := rfl
@[simp] theorem State.me_fresh (s : State) (f : Core → Core) : (s.me f).fresh = s.fresh := rfl
@[simp] theorem State.me_ir (s : State) (f : Core → Core) : (s.me f).ir = s.ir := rfl
@[simp] theorem State.me_leave (s : State) (f : Core → Core) : (s.me f).leave = s.leave := rfl
@[simp] theorem State.me_reissuing (s : State) (f : Core → Core) : (s.me f).reissuing = s.reissuing := rfl
@[simp] theorem State.me_cur (s : State) (f : Core → Core) : (s.me f).cur = s.cur := rfl
@[simp] theorem State.me_schedule (s : State) (f : Core → Core) : (s.me f).schedule = s.schedule := rfl

/-! ### State.mapForge -/

@[simp] theorem State.mapForge_cores (s : State) (g : Nat) (f : Forge → Forge) : (s.mapForge g f).cores = s.cores := rfl
@[simp] theorem State.mapForge_dies (s : State) (g : Nat) (f : Forge → Forge) : (s.mapForge g f).dies = s.dies := rfl
@[simp] theorem State.mapForge_homes (s : State) (g : Nat) (f : Forge → Forge) : (s.mapForge g f).homes = s.homes := rfl
@[simp] theorem State.mapForge_pkg (s : State) (g : Nat) (f : Forge → Forge) : (s.mapForge g f).pkg = s.pkg := rfl
@[simp] theorem State.mapForge_mem (s : State) (g : Nat) (f : Forge → Forge) : (s.mapForge g f).mem = s.mem := rfl
@[simp] theorem State.mapForge_full (s : State) (g : Nat) (f : Forge → Forge) : (s.mapForge g f).full = s.full := rfl
@[simp] theorem State.mapForge_poison (s : State) (g : Nat) (f : Forge → Forge) : (s.mapForge g f).poison = s.poison := rfl
@[simp] theorem State.mapForge_hearth (s : State) (g : Nat) (f : Forge → Forge) : (s.mapForge g f).hearth = s.hearth := rfl
@[simp] theorem State.mapForge_pushes (s : State) (g : Nat) (f : Forge → Forge) : (s.mapForge g f).pushes = s.pushes := rfl
@[simp] theorem State.mapForge_commits (s : State) (g : Nat) (f : Forge → Forge) : (s.mapForge g f).commits = s.commits := rfl
@[simp] theorem State.mapForge_msgs (s : State) (g : Nat) (f : Forge → Forge) : (s.mapForge g f).msgs = s.msgs := rfl
@[simp] theorem State.mapForge_linkMsgs (s : State) (g : Nat) (f : Forge → Forge) : (s.mapForge g f).linkMsgs = s.linkMsgs := rfl
@[simp] theorem State.mapForge_skxMsgs (s : State) (g : Nat) (f : Forge → Forge) : (s.mapForge g f).skxMsgs = s.skxMsgs := rfl
@[simp] theorem State.mapForge_deliveries (s : State) (g : Nat) (f : Forge → Forge) : (s.mapForge g f).deliveries = s.deliveries := rfl
@[simp] theorem State.mapForge_arrivals (s : State) (g : Nat) (f : Forge → Forge) : (s.mapForge g f).arrivals = s.arrivals := rfl
@[simp] theorem State.mapForge_signals (s : State) (g : Nat) (f : Forge → Forge) : (s.mapForge g f).signals = s.signals := rfl
@[simp] theorem State.mapForge_atomics (s : State) (g : Nat) (f : Forge → Forge) : (s.mapForge g f).atomics = s.atomics := rfl
@[simp] theorem State.mapForge_notices (s : State) (g : Nat) (f : Forge → Forge) : (s.mapForge g f).notices = s.notices := rfl
@[simp] theorem State.mapForge_feWaiters (s : State) (g : Nat) (f : Forge → Forge) : (s.mapForge g f).feWaiters = s.feWaiters := rfl
@[simp] theorem State.mapForge_colls (s : State) (g : Nat) (f : Forge → Forge) : (s.mapForge g f).colls = s.colls := rfl
@[simp] theorem State.mapForge_serial (s : State) (g : Nat) (f : Forge → Forge) : (s.mapForge g f).serial = s.serial := rfl
@[simp] theorem State.mapForge_fresh (s : State) (g : Nat) (f : Forge → Forge) : (s.mapForge g f).fresh = s.fresh := rfl
@[simp] theorem State.mapForge_ir (s : State) (g : Nat) (f : Forge → Forge) : (s.mapForge g f).ir = s.ir := rfl
@[simp] theorem State.mapForge_leave (s : State) (g : Nat) (f : Forge → Forge) : (s.mapForge g f).leave = s.leave := rfl
@[simp] theorem State.mapForge_reissuing (s : State) (g : Nat) (f : Forge → Forge) : (s.mapForge g f).reissuing = s.reissuing := rfl
@[simp] theorem State.mapForge_cur (s : State) (g : Nat) (f : Forge → Forge) : (s.mapForge g f).cur = s.cur := rfl
@[simp] theorem State.mapForge_schedule (s : State) (g : Nat) (f : Forge → Forge) : (s.mapForge g f).schedule = s.schedule := rfl

/-! ### State.mapDie -/

@[simp] theorem State.mapDie_cores (s : State) (d : Nat) (f : Die → Die) : (s.mapDie d f).cores = s.cores := rfl
@[simp] theorem State.mapDie_forges (s : State) (d : Nat) (f : Die → Die) : (s.mapDie d f).forges = s.forges := rfl
@[simp] theorem State.mapDie_homes (s : State) (d : Nat) (f : Die → Die) : (s.mapDie d f).homes = s.homes := rfl
@[simp] theorem State.mapDie_pkg (s : State) (d : Nat) (f : Die → Die) : (s.mapDie d f).pkg = s.pkg := rfl
@[simp] theorem State.mapDie_mem (s : State) (d : Nat) (f : Die → Die) : (s.mapDie d f).mem = s.mem := rfl
@[simp] theorem State.mapDie_full (s : State) (d : Nat) (f : Die → Die) : (s.mapDie d f).full = s.full := rfl
@[simp] theorem State.mapDie_poison (s : State) (d : Nat) (f : Die → Die) : (s.mapDie d f).poison = s.poison := rfl
@[simp] theorem State.mapDie_hearth (s : State) (d : Nat) (f : Die → Die) : (s.mapDie d f).hearth = s.hearth := rfl
@[simp] theorem State.mapDie_pushes (s : State) (d : Nat) (f : Die → Die) : (s.mapDie d f).pushes = s.pushes := rfl
@[simp] theorem State.mapDie_commits (s : State) (d : Nat) (f : Die → Die) : (s.mapDie d f).commits = s.commits := rfl
@[simp] theorem State.mapDie_msgs (s : State) (d : Nat) (f : Die → Die) : (s.mapDie d f).msgs = s.msgs := rfl
@[simp] theorem State.mapDie_linkMsgs (s : State) (d : Nat) (f : Die → Die) : (s.mapDie d f).linkMsgs = s.linkMsgs := rfl
@[simp] theorem State.mapDie_skxMsgs (s : State) (d : Nat) (f : Die → Die) : (s.mapDie d f).skxMsgs = s.skxMsgs := rfl
@[simp] theorem State.mapDie_deliveries (s : State) (d : Nat) (f : Die → Die) : (s.mapDie d f).deliveries = s.deliveries := rfl
@[simp] theorem State.mapDie_arrivals (s : State) (d : Nat) (f : Die → Die) : (s.mapDie d f).arrivals = s.arrivals := rfl
@[simp] theorem State.mapDie_signals (s : State) (d : Nat) (f : Die → Die) : (s.mapDie d f).signals = s.signals := rfl
@[simp] theorem State.mapDie_atomics (s : State) (d : Nat) (f : Die → Die) : (s.mapDie d f).atomics = s.atomics := rfl
@[simp] theorem State.mapDie_notices (s : State) (d : Nat) (f : Die → Die) : (s.mapDie d f).notices = s.notices := rfl
@[simp] theorem State.mapDie_feWaiters (s : State) (d : Nat) (f : Die → Die) : (s.mapDie d f).feWaiters = s.feWaiters := rfl
@[simp] theorem State.mapDie_colls (s : State) (d : Nat) (f : Die → Die) : (s.mapDie d f).colls = s.colls := rfl
@[simp] theorem State.mapDie_serial (s : State) (d : Nat) (f : Die → Die) : (s.mapDie d f).serial = s.serial := rfl
@[simp] theorem State.mapDie_fresh (s : State) (d : Nat) (f : Die → Die) : (s.mapDie d f).fresh = s.fresh := rfl
@[simp] theorem State.mapDie_ir (s : State) (d : Nat) (f : Die → Die) : (s.mapDie d f).ir = s.ir := rfl
@[simp] theorem State.mapDie_leave (s : State) (d : Nat) (f : Die → Die) : (s.mapDie d f).leave = s.leave := rfl
@[simp] theorem State.mapDie_reissuing (s : State) (d : Nat) (f : Die → Die) : (s.mapDie d f).reissuing = s.reissuing := rfl
@[simp] theorem State.mapDie_cur (s : State) (d : Nat) (f : Die → Die) : (s.mapDie d f).cur = s.cur := rfl
@[simp] theorem State.mapDie_schedule (s : State) (d : Nat) (f : Die → Die) : (s.mapDie d f).schedule = s.schedule := rfl

/-! ### State.mapHome -/

@[simp] theorem State.mapHome_cores (s : State) (h : Nat) (f : Home → Home) : (s.mapHome h f).cores = s.cores := rfl
@[simp] theorem State.mapHome_forges (s : State) (h : Nat) (f : Home → Home) : (s.mapHome h f).forges = s.forges := rfl
@[simp] theorem State.mapHome_dies (s : State) (h : Nat) (f : Home → Home) : (s.mapHome h f).dies = s.dies := rfl
@[simp] theorem State.mapHome_pkg (s : State) (h : Nat) (f : Home → Home) : (s.mapHome h f).pkg = s.pkg := rfl
@[simp] theorem State.mapHome_mem (s : State) (h : Nat) (f : Home → Home) : (s.mapHome h f).mem = s.mem := rfl
@[simp] theorem State.mapHome_full (s : State) (h : Nat) (f : Home → Home) : (s.mapHome h f).full = s.full := rfl
@[simp] theorem State.mapHome_poison (s : State) (h : Nat) (f : Home → Home) : (s.mapHome h f).poison = s.poison := rfl
@[simp] theorem State.mapHome_hearth (s : State) (h : Nat) (f : Home → Home) : (s.mapHome h f).hearth = s.hearth := rfl
@[simp] theorem State.mapHome_pushes (s : State) (h : Nat) (f : Home → Home) : (s.mapHome h f).pushes = s.pushes := rfl
@[simp] theorem State.mapHome_commits (s : State) (h : Nat) (f : Home → Home) : (s.mapHome h f).commits = s.commits := rfl
@[simp] theorem State.mapHome_msgs (s : State) (h : Nat) (f : Home → Home) : (s.mapHome h f).msgs = s.msgs := rfl
@[simp] theorem State.mapHome_linkMsgs (s : State) (h : Nat) (f : Home → Home) : (s.mapHome h f).linkMsgs = s.linkMsgs := rfl
@[simp] theorem State.mapHome_skxMsgs (s : State) (h : Nat) (f : Home → Home) : (s.mapHome h f).skxMsgs = s.skxMsgs := rfl
@[simp] theorem State.mapHome_deliveries (s : State) (h : Nat) (f : Home → Home) : (s.mapHome h f).deliveries = s.deliveries := rfl
@[simp] theorem State.mapHome_arrivals (s : State) (h : Nat) (f : Home → Home) : (s.mapHome h f).arrivals = s.arrivals := rfl
@[simp] theorem State.mapHome_signals (s : State) (h : Nat) (f : Home → Home) : (s.mapHome h f).signals = s.signals := rfl
@[simp] theorem State.mapHome_atomics (s : State) (h : Nat) (f : Home → Home) : (s.mapHome h f).atomics = s.atomics := rfl
@[simp] theorem State.mapHome_notices (s : State) (h : Nat) (f : Home → Home) : (s.mapHome h f).notices = s.notices := rfl
@[simp] theorem State.mapHome_feWaiters (s : State) (h : Nat) (f : Home → Home) : (s.mapHome h f).feWaiters = s.feWaiters := rfl
@[simp] theorem State.mapHome_colls (s : State) (h : Nat) (f : Home → Home) : (s.mapHome h f).colls = s.colls := rfl
@[simp] theorem State.mapHome_serial (s : State) (h : Nat) (f : Home → Home) : (s.mapHome h f).serial = s.serial := rfl
@[simp] theorem State.mapHome_fresh (s : State) (h : Nat) (f : Home → Home) : (s.mapHome h f).fresh = s.fresh := rfl
@[simp] theorem State.mapHome_ir (s : State) (h : Nat) (f : Home → Home) : (s.mapHome h f).ir = s.ir := rfl
@[simp] theorem State.mapHome_leave (s : State) (h : Nat) (f : Home → Home) : (s.mapHome h f).leave = s.leave := rfl
@[simp] theorem State.mapHome_reissuing (s : State) (h : Nat) (f : Home → Home) : (s.mapHome h f).reissuing = s.reissuing := rfl
@[simp] theorem State.mapHome_cur (s : State) (h : Nat) (f : Home → Home) : (s.mapHome h f).cur = s.cur := rfl
@[simp] theorem State.mapHome_schedule (s : State) (h : Nat) (f : Home → Home) : (s.mapHome h f).schedule = s.schedule := rfl

/-! ### State.mapPkg -/

@[simp] theorem State.mapPkg_cores (s : State) (f : Package → Package) : (s.mapPkg f).cores = s.cores := rfl
@[simp] theorem State.mapPkg_forges (s : State) (f : Package → Package) : (s.mapPkg f).forges = s.forges := rfl
@[simp] theorem State.mapPkg_dies (s : State) (f : Package → Package) : (s.mapPkg f).dies = s.dies := rfl
@[simp] theorem State.mapPkg_homes (s : State) (f : Package → Package) : (s.mapPkg f).homes = s.homes := rfl
@[simp] theorem State.mapPkg_mem (s : State) (f : Package → Package) : (s.mapPkg f).mem = s.mem := rfl
@[simp] theorem State.mapPkg_full (s : State) (f : Package → Package) : (s.mapPkg f).full = s.full := rfl
@[simp] theorem State.mapPkg_poison (s : State) (f : Package → Package) : (s.mapPkg f).poison = s.poison := rfl
@[simp] theorem State.mapPkg_hearth (s : State) (f : Package → Package) : (s.mapPkg f).hearth = s.hearth := rfl
@[simp] theorem State.mapPkg_pushes (s : State) (f : Package → Package) : (s.mapPkg f).pushes = s.pushes := rfl
@[simp] theorem State.mapPkg_commits (s : State) (f : Package → Package) : (s.mapPkg f).commits = s.commits := rfl
@[simp] theorem State.mapPkg_msgs (s : State) (f : Package → Package) : (s.mapPkg f).msgs = s.msgs := rfl
@[simp] theorem State.mapPkg_linkMsgs (s : State) (f : Package → Package) : (s.mapPkg f).linkMsgs = s.linkMsgs := rfl
@[simp] theorem State.mapPkg_skxMsgs (s : State) (f : Package → Package) : (s.mapPkg f).skxMsgs = s.skxMsgs := rfl
@[simp] theorem State.mapPkg_deliveries (s : State) (f : Package → Package) : (s.mapPkg f).deliveries = s.deliveries := rfl
@[simp] theorem State.mapPkg_arrivals (s : State) (f : Package → Package) : (s.mapPkg f).arrivals = s.arrivals := rfl
@[simp] theorem State.mapPkg_signals (s : State) (f : Package → Package) : (s.mapPkg f).signals = s.signals := rfl
@[simp] theorem State.mapPkg_atomics (s : State) (f : Package → Package) : (s.mapPkg f).atomics = s.atomics := rfl
@[simp] theorem State.mapPkg_notices (s : State) (f : Package → Package) : (s.mapPkg f).notices = s.notices := rfl
@[simp] theorem State.mapPkg_feWaiters (s : State) (f : Package → Package) : (s.mapPkg f).feWaiters = s.feWaiters := rfl
@[simp] theorem State.mapPkg_colls (s : State) (f : Package → Package) : (s.mapPkg f).colls = s.colls := rfl
@[simp] theorem State.mapPkg_serial (s : State) (f : Package → Package) : (s.mapPkg f).serial = s.serial := rfl
@[simp] theorem State.mapPkg_fresh (s : State) (f : Package → Package) : (s.mapPkg f).fresh = s.fresh := rfl
@[simp] theorem State.mapPkg_ir (s : State) (f : Package → Package) : (s.mapPkg f).ir = s.ir := rfl
@[simp] theorem State.mapPkg_leave (s : State) (f : Package → Package) : (s.mapPkg f).leave = s.leave := rfl
@[simp] theorem State.mapPkg_reissuing (s : State) (f : Package → Package) : (s.mapPkg f).reissuing = s.reissuing := rfl
@[simp] theorem State.mapPkg_cur (s : State) (f : Package → Package) : (s.mapPkg f).cur = s.cur := rfl
@[simp] theorem State.mapPkg_schedule (s : State) (f : Package → Package) : (s.mapPkg f).schedule = s.schedule := rfl

/-! ### State.setPoison -/

@[simp] theorem State.setPoison_cores (s : State) (u : Nat) (b : Bool) : (s.setPoison u b).cores = s.cores := rfl
@[simp] theorem State.setPoison_forges (s : State) (u : Nat) (b : Bool) : (s.setPoison u b).forges = s.forges := rfl
@[simp] theorem State.setPoison_dies (s : State) (u : Nat) (b : Bool) : (s.setPoison u b).dies = s.dies := rfl
@[simp] theorem State.setPoison_homes (s : State) (u : Nat) (b : Bool) : (s.setPoison u b).homes = s.homes := rfl
@[simp] theorem State.setPoison_pkg (s : State) (u : Nat) (b : Bool) : (s.setPoison u b).pkg = s.pkg := rfl
@[simp] theorem State.setPoison_mem (s : State) (u : Nat) (b : Bool) : (s.setPoison u b).mem = s.mem := rfl
@[simp] theorem State.setPoison_full (s : State) (u : Nat) (b : Bool) : (s.setPoison u b).full = s.full := rfl
@[simp] theorem State.setPoison_hearth (s : State) (u : Nat) (b : Bool) : (s.setPoison u b).hearth = s.hearth := rfl
@[simp] theorem State.setPoison_pushes (s : State) (u : Nat) (b : Bool) : (s.setPoison u b).pushes = s.pushes := rfl
@[simp] theorem State.setPoison_commits (s : State) (u : Nat) (b : Bool) : (s.setPoison u b).commits = s.commits := rfl
@[simp] theorem State.setPoison_msgs (s : State) (u : Nat) (b : Bool) : (s.setPoison u b).msgs = s.msgs := rfl
@[simp] theorem State.setPoison_linkMsgs (s : State) (u : Nat) (b : Bool) : (s.setPoison u b).linkMsgs = s.linkMsgs := rfl
@[simp] theorem State.setPoison_skxMsgs (s : State) (u : Nat) (b : Bool) : (s.setPoison u b).skxMsgs = s.skxMsgs := rfl
@[simp] theorem State.setPoison_deliveries (s : State) (u : Nat) (b : Bool) : (s.setPoison u b).deliveries = s.deliveries := rfl
@[simp] theorem State.setPoison_arrivals (s : State) (u : Nat) (b : Bool) : (s.setPoison u b).arrivals = s.arrivals := rfl
@[simp] theorem State.setPoison_signals (s : State) (u : Nat) (b : Bool) : (s.setPoison u b).signals = s.signals := rfl
@[simp] theorem State.setPoison_atomics (s : State) (u : Nat) (b : Bool) : (s.setPoison u b).atomics = s.atomics := rfl
@[simp] theorem State.setPoison_notices (s : State) (u : Nat) (b : Bool) : (s.setPoison u b).notices = s.notices := rfl
@[simp] theorem State.setPoison_feWaiters (s : State) (u : Nat) (b : Bool) : (s.setPoison u b).feWaiters = s.feWaiters := rfl
@[simp] theorem State.setPoison_colls (s : State) (u : Nat) (b : Bool) : (s.setPoison u b).colls = s.colls := rfl
@[simp] theorem State.setPoison_serial (s : State) (u : Nat) (b : Bool) : (s.setPoison u b).serial = s.serial := rfl
@[simp] theorem State.setPoison_fresh (s : State) (u : Nat) (b : Bool) : (s.setPoison u b).fresh = s.fresh := rfl
@[simp] theorem State.setPoison_ir (s : State) (u : Nat) (b : Bool) : (s.setPoison u b).ir = s.ir := rfl
@[simp] theorem State.setPoison_leave (s : State) (u : Nat) (b : Bool) : (s.setPoison u b).leave = s.leave := rfl
@[simp] theorem State.setPoison_reissuing (s : State) (u : Nat) (b : Bool) : (s.setPoison u b).reissuing = s.reissuing := rfl
@[simp] theorem State.setPoison_cur (s : State) (u : Nat) (b : Bool) : (s.setPoison u b).cur = s.cur := rfl
@[simp] theorem State.setPoison_schedule (s : State) (u : Nat) (b : Bool) : (s.setPoison u b).schedule = s.schedule := rfl

/-! ### State.setFull -/

@[simp] theorem State.setFull_cores (s : State) (w : Nat) (b : Bool) : (s.setFull w b).cores = s.cores := rfl
@[simp] theorem State.setFull_forges (s : State) (w : Nat) (b : Bool) : (s.setFull w b).forges = s.forges := rfl
@[simp] theorem State.setFull_dies (s : State) (w : Nat) (b : Bool) : (s.setFull w b).dies = s.dies := rfl
@[simp] theorem State.setFull_homes (s : State) (w : Nat) (b : Bool) : (s.setFull w b).homes = s.homes := rfl
@[simp] theorem State.setFull_pkg (s : State) (w : Nat) (b : Bool) : (s.setFull w b).pkg = s.pkg := rfl
@[simp] theorem State.setFull_mem (s : State) (w : Nat) (b : Bool) : (s.setFull w b).mem = s.mem := rfl
@[simp] theorem State.setFull_poison (s : State) (w : Nat) (b : Bool) : (s.setFull w b).poison = s.poison := rfl
@[simp] theorem State.setFull_hearth (s : State) (w : Nat) (b : Bool) : (s.setFull w b).hearth = s.hearth := rfl
@[simp] theorem State.setFull_pushes (s : State) (w : Nat) (b : Bool) : (s.setFull w b).pushes = s.pushes := rfl
@[simp] theorem State.setFull_commits (s : State) (w : Nat) (b : Bool) : (s.setFull w b).commits = s.commits := rfl
@[simp] theorem State.setFull_msgs (s : State) (w : Nat) (b : Bool) : (s.setFull w b).msgs = s.msgs := rfl
@[simp] theorem State.setFull_linkMsgs (s : State) (w : Nat) (b : Bool) : (s.setFull w b).linkMsgs = s.linkMsgs := rfl
@[simp] theorem State.setFull_skxMsgs (s : State) (w : Nat) (b : Bool) : (s.setFull w b).skxMsgs = s.skxMsgs := rfl
@[simp] theorem State.setFull_deliveries (s : State) (w : Nat) (b : Bool) : (s.setFull w b).deliveries = s.deliveries := rfl
@[simp] theorem State.setFull_arrivals (s : State) (w : Nat) (b : Bool) : (s.setFull w b).arrivals = s.arrivals := rfl
@[simp] theorem State.setFull_signals (s : State) (w : Nat) (b : Bool) : (s.setFull w b).signals = s.signals := rfl
@[simp] theorem State.setFull_atomics (s : State) (w : Nat) (b : Bool) : (s.setFull w b).atomics = s.atomics := rfl
@[simp] theorem State.setFull_notices (s : State) (w : Nat) (b : Bool) : (s.setFull w b).notices = s.notices := rfl
@[simp] theorem State.setFull_feWaiters (s : State) (w : Nat) (b : Bool) : (s.setFull w b).feWaiters = s.feWaiters := rfl
@[simp] theorem State.setFull_colls (s : State) (w : Nat) (b : Bool) : (s.setFull w b).colls = s.colls := rfl
@[simp] theorem State.setFull_serial (s : State) (w : Nat) (b : Bool) : (s.setFull w b).serial = s.serial := rfl
@[simp] theorem State.setFull_fresh (s : State) (w : Nat) (b : Bool) : (s.setFull w b).fresh = s.fresh := rfl
@[simp] theorem State.setFull_ir (s : State) (w : Nat) (b : Bool) : (s.setFull w b).ir = s.ir := rfl
@[simp] theorem State.setFull_leave (s : State) (w : Nat) (b : Bool) : (s.setFull w b).leave = s.leave := rfl
@[simp] theorem State.setFull_reissuing (s : State) (w : Nat) (b : Bool) : (s.setFull w b).reissuing = s.reissuing := rfl
@[simp] theorem State.setFull_cur (s : State) (w : Nat) (b : Bool) : (s.setFull w b).cur = s.cur := rfl
@[simp] theorem State.setFull_schedule (s : State) (w : Nat) (b : Bool) : (s.setFull w b).schedule = s.schedule := rfl

/-! ### State.tick -/

@[simp] theorem State.tick_cores (s : State) : (s.tick).cores = s.cores := rfl
@[simp] theorem State.tick_forges (s : State) : (s.tick).forges = s.forges := rfl
@[simp] theorem State.tick_dies (s : State) : (s.tick).dies = s.dies := rfl
@[simp] theorem State.tick_homes (s : State) : (s.tick).homes = s.homes := rfl
@[simp] theorem State.tick_pkg (s : State) : (s.tick).pkg = s.pkg := rfl
@[simp] theorem State.tick_mem (s : State) : (s.tick).mem = s.mem := rfl
@[simp] theorem State.tick_full (s : State) : (s.tick).full = s.full := rfl
@[simp] theorem State.tick_poison (s : State) : (s.tick).poison = s.poison := rfl
@[simp] theorem State.tick_hearth (s : State) : (s.tick).hearth = s.hearth := rfl
@[simp] theorem State.tick_pushes (s : State) : (s.tick).pushes = s.pushes := rfl
@[simp] theorem State.tick_commits (s : State) : (s.tick).commits = s.commits := rfl
@[simp] theorem State.tick_msgs (s : State) : (s.tick).msgs = s.msgs := rfl
@[simp] theorem State.tick_linkMsgs (s : State) : (s.tick).linkMsgs = s.linkMsgs := rfl
@[simp] theorem State.tick_skxMsgs (s : State) : (s.tick).skxMsgs = s.skxMsgs := rfl
@[simp] theorem State.tick_deliveries (s : State) : (s.tick).deliveries = s.deliveries := rfl
@[simp] theorem State.tick_arrivals (s : State) : (s.tick).arrivals = s.arrivals := rfl
@[simp] theorem State.tick_signals (s : State) : (s.tick).signals = s.signals := rfl
@[simp] theorem State.tick_atomics (s : State) : (s.tick).atomics = s.atomics := rfl
@[simp] theorem State.tick_notices (s : State) : (s.tick).notices = s.notices := rfl
@[simp] theorem State.tick_feWaiters (s : State) : (s.tick).feWaiters = s.feWaiters := rfl
@[simp] theorem State.tick_colls (s : State) : (s.tick).colls = s.colls := rfl
@[simp] theorem State.tick_fresh (s : State) : (s.tick).fresh = s.fresh := rfl
@[simp] theorem State.tick_ir (s : State) : (s.tick).ir = s.ir := rfl
@[simp] theorem State.tick_leave (s : State) : (s.tick).leave = s.leave := rfl
@[simp] theorem State.tick_reissuing (s : State) : (s.tick).reissuing = s.reissuing := rfl
@[simp] theorem State.tick_cur (s : State) : (s.tick).cur = s.cur := rfl
@[simp] theorem State.tick_schedule (s : State) : (s.tick).schedule = s.schedule := rfl

/-! ### State.used -/

@[simp] theorem State.used_cores (s : State) (n : Nat) : (s.used n).cores = s.cores := rfl
@[simp] theorem State.used_forges (s : State) (n : Nat) : (s.used n).forges = s.forges := rfl
@[simp] theorem State.used_dies (s : State) (n : Nat) : (s.used n).dies = s.dies := rfl
@[simp] theorem State.used_homes (s : State) (n : Nat) : (s.used n).homes = s.homes := rfl
@[simp] theorem State.used_pkg (s : State) (n : Nat) : (s.used n).pkg = s.pkg := rfl
@[simp] theorem State.used_mem (s : State) (n : Nat) : (s.used n).mem = s.mem := rfl
@[simp] theorem State.used_full (s : State) (n : Nat) : (s.used n).full = s.full := rfl
@[simp] theorem State.used_poison (s : State) (n : Nat) : (s.used n).poison = s.poison := rfl
@[simp] theorem State.used_hearth (s : State) (n : Nat) : (s.used n).hearth = s.hearth := rfl
@[simp] theorem State.used_pushes (s : State) (n : Nat) : (s.used n).pushes = s.pushes := rfl
@[simp] theorem State.used_commits (s : State) (n : Nat) : (s.used n).commits = s.commits := rfl
@[simp] theorem State.used_msgs (s : State) (n : Nat) : (s.used n).msgs = s.msgs := rfl
@[simp] theorem State.used_linkMsgs (s : State) (n : Nat) : (s.used n).linkMsgs = s.linkMsgs := rfl
@[simp] theorem State.used_skxMsgs (s : State) (n : Nat) : (s.used n).skxMsgs = s.skxMsgs := rfl
@[simp] theorem State.used_deliveries (s : State) (n : Nat) : (s.used n).deliveries = s.deliveries := rfl
@[simp] theorem State.used_arrivals (s : State) (n : Nat) : (s.used n).arrivals = s.arrivals := rfl
@[simp] theorem State.used_signals (s : State) (n : Nat) : (s.used n).signals = s.signals := rfl
@[simp] theorem State.used_atomics (s : State) (n : Nat) : (s.used n).atomics = s.atomics := rfl
@[simp] theorem State.used_notices (s : State) (n : Nat) : (s.used n).notices = s.notices := rfl
@[simp] theorem State.used_feWaiters (s : State) (n : Nat) : (s.used n).feWaiters = s.feWaiters := rfl
@[simp] theorem State.used_colls (s : State) (n : Nat) : (s.used n).colls = s.colls := rfl
@[simp] theorem State.used_serial (s : State) (n : Nat) : (s.used n).serial = s.serial := rfl
@[simp] theorem State.used_ir (s : State) (n : Nat) : (s.used n).ir = s.ir := rfl
@[simp] theorem State.used_leave (s : State) (n : Nat) : (s.used n).leave = s.leave := rfl
@[simp] theorem State.used_reissuing (s : State) (n : Nat) : (s.used n).reissuing = s.reissuing := rfl
@[simp] theorem State.used_cur (s : State) (n : Nat) : (s.used n).cur = s.cur := rfl
@[simp] theorem State.used_schedule (s : State) (n : Nat) : (s.used n).schedule = s.schedule := rfl

/-! ### Reading back -/

@[simp] theorem State.coreAt_setCore_self (s : State) (a : Nat) (c : Core) : (s.setCore a c).coreAt a = c := tget_tset_self _ _ _ _
theorem State.coreAt_setCore_other (s : State) {a b : Nat} (c : Core) (h : b ≠ a) : (s.setCore a c).coreAt b = s.coreAt b :=
  tget_tset_other _ _ _ h
@[simp] theorem State.coreAt_mapCore_self (s : State) (a : Nat) (f : Core → Core) : (s.mapCore a f).coreAt a = f (s.coreAt a) :=
  tget_tset_self _ _ _ _
theorem State.coreAt_mapCore_other (s : State) {a b : Nat} (f : Core → Core) (h : b ≠ a) : (s.mapCore a f).coreAt b = s.coreAt b :=
  tget_tset_other _ _ _ h
@[simp] theorem State.core_me (s : State) (f : Core → Core) : (s.me f).core = f s.core := tget_tset_self _ _ _ _
theorem State.coreAt_me_other (s : State) {b : Nat} (f : Core → Core) (h : b ≠ s.cur) : (s.me f).coreAt b = s.coreAt b :=
  tget_tset_other _ _ _ h
@[simp] theorem State.forgeAt_mapForge_self (s : State) (g : Nat) (f : Forge → Forge) : (s.mapForge g f).forgeAt g = f (s.forgeAt g) :=
  tget_tset_self _ _ _ _
theorem State.forgeAt_mapForge_other (s : State) {g h : Nat} (f : Forge → Forge) (e : h ≠ g) :
    (s.mapForge g f).forgeAt h = s.forgeAt h := tget_tset_other _ _ _ e
@[simp] theorem State.dieAt_mapDie_self (s : State) (d : Nat) (f : Die → Die) : (s.mapDie d f).dieAt d = f (s.dieAt d) :=
  tget_tset_self _ _ _ _
theorem State.dieAt_mapDie_other (s : State) {d e : Nat} (f : Die → Die) (h : e ≠ d) : (s.mapDie d f).dieAt e = s.dieAt e :=
  tget_tset_other _ _ _ h
@[simp] theorem State.homeAt_mapHome_self (s : State) (h : Nat) (f : Home → Home) : (s.mapHome h f).homeAt h = f (s.homeAt h) :=
  tget_tset_self _ _ _ _
theorem State.homeAt_mapHome_other (s : State) {h k : Nat} (f : Home → Home) (e : k ≠ h) : (s.mapHome h f).homeAt k = s.homeAt k :=
  tget_tset_other _ _ _ e
@[simp] theorem State.mapPkg_pkg (s : State) (f : Package → Package) : (s.mapPkg f).pkg = f s.pkg := rfl
@[simp] theorem State.tick_serial (s : State) : s.tick.serial = s.serial + 1 := rfl
@[simp] theorem State.used_fresh (s : State) (n : Nat) : (s.used n).fresh = s.fresh + n := rfl

/-- The parts that an update does not touch. -/
@[simp] theorem State.forgeAt_mapCore (s : State) (a : Nat) (f : Core → Core) (g : Nat) : (s.mapCore a f).forgeAt g = s.forgeAt g := rfl
@[simp] theorem State.dieAt_mapCore (s : State) (a : Nat) (f : Core → Core) (d : Nat) : (s.mapCore a f).dieAt d = s.dieAt d := rfl
@[simp] theorem State.homeAt_mapCore (s : State) (a : Nat) (f : Core → Core) (h : Nat) : (s.mapCore a f).homeAt h = s.homeAt h := rfl
@[simp] theorem State.forgeAt_me (s : State) (f : Core → Core) (g : Nat) : (s.me f).forgeAt g = s.forgeAt g := rfl
@[simp] theorem State.dieAt_me (s : State) (f : Core → Core) (d : Nat) : (s.me f).dieAt d = s.dieAt d := rfl
@[simp] theorem State.coreAt_mapForge (s : State) (g : Nat) (f : Forge → Forge) (a : Nat) : (s.mapForge g f).coreAt a = s.coreAt a := rfl
@[simp] theorem State.dieAt_mapForge (s : State) (g : Nat) (f : Forge → Forge) (d : Nat) : (s.mapForge g f).dieAt d = s.dieAt d := rfl
@[simp] theorem State.coreAt_mapDie (s : State) (d : Nat) (f : Die → Die) (a : Nat) : (s.mapDie d f).coreAt a = s.coreAt a := rfl
@[simp] theorem State.forgeAt_mapDie (s : State) (d : Nat) (f : Die → Die) (g : Nat) : (s.mapDie d f).forgeAt g = s.forgeAt g := rfl
@[simp] theorem State.homeAt_mapDie (s : State) (d : Nat) (f : Die → Die) (h : Nat) : (s.mapDie d f).homeAt h = s.homeAt h := rfl
@[simp] theorem State.coreAt_mapHome (s : State) (h : Nat) (f : Home → Home) (a : Nat) : (s.mapHome h f).coreAt a = s.coreAt a := rfl
@[simp] theorem State.dieAt_mapHome (s : State) (h : Nat) (f : Home → Home) (d : Nat) : (s.mapHome h f).dieAt d = s.dieAt d := rfl
@[simp] theorem State.coreAt_mapPkg (s : State) (f : Package → Package) (a : Nat) : (s.mapPkg f).coreAt a = s.coreAt a := rfl
@[simp] theorem State.forgeAt_mapPkg (s : State) (f : Package → Package) (g : Nat) : (s.mapPkg f).forgeAt g = s.forgeAt g := rfl
@[simp] theorem State.dieAt_mapPkg (s : State) (f : Package → Package) (d : Nat) : (s.mapPkg f).dieAt d = s.dieAt d := rfl
@[simp] theorem State.homeAt_mapPkg (s : State) (f : Package → Package) (h : Nat) : (s.mapPkg f).homeAt h = s.homeAt h := rfl
@[simp] theorem State.coreAt_used (s : State) (n a : Nat) : (s.used n).coreAt a = s.coreAt a := rfl
@[simp] theorem State.dieAt_used (s : State) (n d : Nat) : (s.used n).dieAt d = s.dieAt d := rfl
@[simp] theorem State.coreAt_tick (s : State) (a : Nat) : s.tick.coreAt a = s.coreAt a := rfl

end Sys2Proof.Machine
end

