-- ==== Sys2Proof/Laws/Issue.lean ====
section
/-! SUPPORT. What issuing an instruction comes to when nothing holds it back: one law for every shape of plan. -/

namespace Sys2Proof.Machine

/-! ### Bytes that an access sees -/

theorem thas_tset {α : Type} (t : Table α) (k j : Nat) (x : α) : thas (tset t k x) j = (k == j || thas t j) := by
  induction t with
  | nil => rfl
  | cons p t ih =>
    obtain ⟨i, y⟩ := p
    simp only [tset]
    split
    · rfl
    · split
      · rename_i h
        subst h
        simp only [thas, ← Bool.or_assoc, Bool.or_self]
      · simp only [thas, ih, ← Bool.or_assoc]
        rw [Bool.or_comm (i == j)]

theorem tget_of_not_thas {α : Type} (d : α) (t : Table α) (k : Nat) (h : thas t k = false) : tget d t k = d := by
  induction t with
  | nil => rfl
  | cons p t ih =>
    obtain ⟨i, y⟩ := p
    simp only [thas, Bool.or_eq_false_iff, beq_eq_false_iff_ne] at h
    simp only [tget, if_neg h.1]
    exact ih h.2

theorem foldl_filter_more {β : Type} (g : β → Nat → β) (p q : Nat → Bool) (l : List Nat) (y : β)
    (h : ∀ n, q n = p n ∨ (q n = true ∧ p n = false ∧ ∀ x, g x n = x)) : (l.filter q).foldl g y = (l.filter p).foldl g y := by
  induction l generalizing y with
  | nil => rfl
  | cons n t ih =>
    rcases h n with e | ⟨e1, e2, e3⟩
    · by_cases hp : p n
      · simp only [List.filter_cons, e, hp, if_true, List.foldl_cons, ih]
      · simp only [List.filter_cons, e, hp, if_false, ih, Bool.false_eq_true]
    · simp only [List.filter_cons, e1, e2, if_true, List.foldl_cons, e3, ih, Bool.false_eq_true, if_false]

/-- A change of the acting core that keeps its caches does not change what the die's caches lay over a byte. -/
theorem overDie_mapCore (s : State) (a d n : Nat) (f : Core → Core) (x : Byte) (h1 : (f (s.coreAt a)).l1 = (s.coreAt a).l1)
    (h2 : (f (s.coreAt a)).l2 = (s.coreAt a).l2) : (s.mapCore a f).overDie d n x = s.overDie d n x := by
  have hb : ∀ b, ((s.mapCore a f).coreAt b).l1 = (s.coreAt b).l1 ∧ ((s.mapCore a f).coreAt b).l2 = (s.coreAt b).l2 := by
    intro b
    by_cases e : b = a
    · subst e
      rw [State.coreAt_mapCore_self]
      exact ⟨h1, h2⟩
    · rw [State.coreAt_mapCore_other _ _ e]
      exact ⟨rfl, rfl⟩
  unfold State.overDie State.liveAgents
  have e0 : (fun (x : Byte) (b : Nat) => ((dirtyByte ((s.mapCore a f).coreAt b).l1 n).orElse
      (fun _ => dirtyByte ((s.mapCore a f).coreAt b).l2 n)).getD x) =
      fun (x : Byte) (b : Nat) => ((dirtyByte (s.coreAt b).l1 n).orElse (fun _ => dirtyByte (s.coreAt b).l2 n)).getD x := by
    funext x b
    rw [(hb b).1, (hb b).2]
  rw [e0]
  apply foldl_filter_more
  intro b
  show thas (tset s.cores a _) b = thas s.cores b ∨ (thas (tset s.cores a _) b = true ∧ _)
  rw [thas_tset]
  by_cases e : a = b
  · subst e
    cases e2 : thas s.cores a
    · right
      refine ⟨by simp, rfl, fun y => ?_⟩
      have e3 : s.coreAt a = Core.reset := tget_of_not_thas _ _ _ e2
      rw [e3]
      rfl
    · left
      simp
  · left
    rw [beq_eq_false_iff_ne.mpr e, Bool.false_or]

/-- A change of a core that keeps its caches and its uncommitted bytes changes no byte that it sees. -/
theorem ownByte_mapCore (s : State) (a : Nat) (f : Core → Core) (h1 : (f (s.coreAt a)).l1 = (s.coreAt a).l1)
    (h2 : (f (s.coreAt a)).l2 = (s.coreAt a).l2) (h3 : ∀ x n, (f (s.coreAt a)).pendingByte x n = (s.coreAt a).pendingByte x n)
    (x : Nat) (k : Cacheability) : (s.mapCore a f).ownByte a x k = s.ownByte a x k := by
  have e : ∀ y, (s.mapCore a f).overDie (dieOf a) (canonAddr x) y = s.overDie (dieOf a) (canonAddr x) y :=
    fun y => overDie_mapCore s a _ _ f y h1 h2
  have e4 : (s.mapCore a f).place = s.place := rfl
  have e6 : (s.mapCore a f).dieByte (dieOf a) x = s.dieByte (dieOf a) x := e _
  have e5 : (s.mapCore a f).cacheByte a x = s.cacheByte a x := by
    unfold State.cacheByte
    rw [State.coreAt_mapCore_self, e6]
    dsimp only
    rw [h1, h2]
  unfold State.ownByte
  rw [State.coreAt_mapCore_self, e4, h3, e5]
  rfl

/-! ### Chunk bookkeeping -/

/-- What a bookkeeping change of a core keeps: everything but the chunk fields and the event counters, and of the chunks the
bytes and the poison units they write. -/
def Core.kept (c d : Core) : Prop :=
  d = { c with chunk := d.chunk, closed := d.closed, sam := d.sam, samCount := d.samCount, samLines := d.samLines,
               samBlocks := d.samBlocks, nextRelease := d.nextRelease, pmc := d.pmc } ∧
  (∀ a n, d.pendingByte a n = c.pendingByte a n) ∧ ∀ u n, d.pendingWhole u n = c.pendingWhole u n

theorem Core.kept_refl (c : Core) : c.kept c := ⟨rfl, fun _ _ => rfl, fun _ _ => rfl⟩

theorem Core.kept_trans {c d e : Core} (h : c.kept d) (g : d.kept e) : c.kept e := by
  refine ⟨?_, fun a n => (g.2.1 a n).trans (h.2.1 a n), fun u n => (g.2.2 u n).trans (h.2.2 u n)⟩
  rw [g.1, h.1]

theorem Core.openChunk_kept (c : Core) : c.kept c.openChunk := by
  unfold Core.openChunk
  split
  · exact c.kept_refl
  · rename_i h
    exact ⟨rfl, fun a n => by simp [Core.pendingByte, Core.bufferedBefore, h, Core.newChunk, tfind],
      fun u n => by simp [Core.pendingWhole, Core.bufferedBefore, h, Core.newChunk]⟩

theorem Core.mapChunk_kept (c : Core) (f : Chunk → Chunk) (h : ∀ k, (f k).bytes = k.bytes)
    (h2 : ∀ k, (f k).whole = k.whole) : c.kept (c.mapChunk f) := by
  unfold Core.mapChunk
  split
  · rename_i k e
    exact ⟨rfl, fun a n => by simp [Core.pendingByte, Core.bufferedBefore, e, h],
      fun u n => by simp [Core.pendingWhole, Core.bufferedBefore, e, h2]⟩
  · exact c.kept_refl

theorem Core.closeChunk_kept (c : Core) : c.kept c.closeChunk := by
  unfold Core.closeChunk
  dsimp only
  split
  · rename_i k e
    refine ⟨rfl, fun a n => ?_, fun u n => by
      simp [Core.pendingWhole, Core.bufferedBefore, e, List.any_append, Bool.or_assoc, Bool.or_comm, Bool.or_left_comm]⟩
    simp only [Core.pendingByte, Core.bufferedBefore, e, List.reverse_append, List.reverse_cons, List.reverse_nil, List.nil_append, List.cons_append,
      List.findSome?_cons, Option.bind_none, Option.bind_some]
    generalize List.findSome? _ (List.reverse _) = u
    cases u <;> simp only [Option.orElse_some, Option.orElse_none]
    cases tfind k.bytes a <;> rfl
  · exact ⟨rfl, fun _ _ => rfl, fun _ _ => rfl⟩

theorem Core.enterChunk_kept (c : Core) : c.kept c.enterChunk := by
  unfold Core.enterChunk
  have h := Core.kept_trans c.openChunk_kept (c.openChunk.mapChunk_kept (fun k => { k with instrs := k.instrs + 1, pages := c.fetched.foldl ninsert k.pages }) (fun _ => rfl) (fun _ => rfl))
  revert h
  generalize c.openChunk.mapChunk (fun k => { k with instrs := k.instrs + 1, pages := c.fetched.foldl ninsert k.pages }) = d
  intro h
  dsimp only
  split
  · exact Core.kept_trans h ⟨rfl, fun _ _ => rfl, fun _ _ => rfl⟩
  · exact h

theorem Core.pmc_kept (c : Core) (x) : c.kept { c with pmc := x } := ⟨rfl, fun _ _ => rfl, fun _ _ => rfl⟩

theorem Core.count_kept (c : Core) (x n : Nat) : c.kept (c.count x n) := by
  unfold Core.count
  split
  · exact c.pmc_kept _
  · exact c.kept_refl

/-! ### The whole of an issue -/

/-- A function of a core that reads nothing of the chunk bookkeeping. -/
def Core.Steady {α : Type} (f : Core → α) : Prop := ∀ c d : Core, c.kept d → f d = f c

theorem Core.steady_of {α : Type} {f : Core → α}
    (h : ∀ c k cl sm sc sl bl nr pm,
      f { c with chunk := k, closed := cl, sam := sm, samCount := sc, samLines := sl, samBlocks := bl, nextRelease := nr, pmc := pm } = f c) :
    Core.Steady f := by
  intro c d e
  rw [e.1]
  exact h c _ _ _ _ _ _ _ _

/-- A change of a core that reaches its registers only. -/
def Core.RegsOnly (f : Core → Core) : Prop := ∀ c, f c = { c with regs := (f c).regs }

theorem Core.plainly_of_kept {c d : Core} (h : c.kept d) : c.plainly d := by
  refine ⟨?_, h.2.1⟩
  rw [h.1]

theorem Core.plainly_trans {c d e : Core} (h : c.plainly d) (g : d.plainly e) : c.plainly e := by
  refine ⟨?_, fun a n => (g.2 a n).trans (h.2 a n)⟩
  rw [g.1, h.1]

theorem Core.plainly_regs (c : Core) (r : Regs) : c.plainly { c with regs := r } := ⟨rfl, fun _ _ => rfl⟩

theorem Core.plainly_ended (c : Core) (p : Plan) (pc : Word) : c.plainly { (c.sbPass p).setPc pc with wait := none } :=
  ⟨rfl, fun _ _ => rfl⟩

/-- A core that changes plainly leaves everything else, and every byte it sees, as they were. -/
theorem State.quiet_setCore (s : State) (c : Core) (h : s.core.plainly c) : s.quiet (s.setCore s.cur c) := by
  have e1 : c.l1 = s.core.l1 := by rw [h.1]
  have e2 : c.l2 = s.core.l2 := by rw [h.1]
  refine ⟨rfl, fun b hb => State.coreAt_mapCore_other s (fun _ => c) hb, ?_, fun a k => ?_⟩
  · have e : (s.setCore s.cur c).core = c := State.coreAt_mapCore_self s s.cur (fun _ => c)
    rw [e]
    exact h
  · exact ownByte_mapCore s s.cur (fun _ => c) e1 e2 h.2 a k

/-- Where an instruction's own part begins, only the acting core's bookkeeping has changed. -/
theorem State.begin_eq (s : State) (p : Plan) (h : s.core.sam = false) (hr : s.reissuing = none) :
    ∃ c, s.begin p = s.setCore s.cur c ∧ s.core.kept c ∧ c.sam = false := by
  have hn : ∀ c : Core, c.sam = false → c.enterChunk.sam = false := by
    intro c hc
    have e : (c.openChunk.mapChunk (fun k => { k with instrs := k.instrs + 1, pages := c.fetched.foldl ninsert k.pages })).sam = false := by
      have e1 : c.openChunk.sam = false := by
        unfold Core.openChunk
        split <;> exact hc
      unfold Core.mapChunk
      split <;> exact e1
    unfold Core.enterChunk
    dsimp only
    rw [if_neg (by rw [e]; exact Bool.false_ne_true)]
    exact e
  have hc : ∀ c : Core, c.closeChunk.sam = false := by
    intro c
    unfold Core.closeChunk
    dsimp only
    split <;> rfl
  unfold State.begin
  rw [hr]
  dsimp only
  split
  · exact ⟨_, rfl, Core.enterChunk_kept _, hn _ h⟩
  · exact ⟨_, rfl, Core.kept_trans (Core.closeChunk_kept _) (Core.enterChunk_kept _), hn _ (hc _)⟩
  · exact ⟨_, rfl, Core.closeChunk_kept _, hc _⟩

/-- An instruction that is ready finds no chunk of its core that squashes a younger one, where it waits for their commits, and those
commits complete. -/
theorem State.ready_held {s : State} {p : Plan} (h : s.ready p = true) :
    (if p.cls = .member then none else s.selfHit) = none ∧ s.reissuing = none ∧
      (p.cls != .member && (s.closeSettle s.cur).incomplete s.cur) = false := by
  simp only [State.ready, Bool.and_eq_true, Bool.or_eq_true, beq_iff_eq, Option.isNone_iff_eq_none, Bool.not_eq_true'] at h
  obtain ⟨⟨-, h1⟩, h2⟩ := h
  refine ⟨?_, h1, ?_⟩
  · split
    · rfl
    · rename_i e
      exact (h2.resolve_left e).1
  · rcases h2 with e | e
    · rw [e]
      rfl
    · rw [e.2, Bool.and_false]

/-- With nothing in its way an instruction performs its own part at once. -/
theorem issue_ready {s : State} {p : Plan} (body : State → Res) (h : s.ready p = true) :
    issue p body s = .next (s.concludeIssue p (body (s.begin p))) := by
  obtain ⟨hx, hg0, hi⟩ := State.ready_held h
  simp only [State.ready, Bool.and_eq_true, Bool.not_eq_true', Option.isNone_iff_eq_none] at h
  obtain ⟨⟨⟨⟨⟨⟨⟨⟨⟨⟨h1, h2⟩, h3⟩, h4⟩, h5⟩, h6⟩, h7⟩, h8⟩, h9⟩, h10⟩, -⟩ := h
  unfold issue State.issueState
  have hg : s.gangHolds s.cur = false := by
    have h2' : (s.coreAt s.cur).gang = none := h2
    unfold State.gangHolds
    simp only [h2']
  simp only [h1, h3, h4, h6, h7, h8, h9, h10, hg, hx, hi, Option.isSome_none, Bool.false_and, Bool.and_false,
    Bool.false_eq_true, if_false]
  unfold State.perform State.conclude
  rw [h10]

theorem tset_tset {α : Type} (t : Table α) (k : Nat) (x y : α) : tset (tset t k x) k y = tset t k y := by
  induction t with
  | nil => simp [tset]
  | cons p t ih =>
    obtain ⟨i, z⟩ := p
    simp only [tset]
    split
    · simp [tset]
    · split
      · simp [tset]
      · rename_i h1 h2
        simp only [tset, if_neg h1, if_neg h2, ih]

theorem State.setCore_setCore (s : State) (a : Nat) (c d : Core) : (s.setCore a c).setCore a d = s.setCore a d := by
  unfold State.setCore
  rw [tset_tset]

theorem Core.count_eq (c : Core) (x n : Nat) : c.count x n = { c with pmc := (c.count x n).pmc } := by
  unfold Core.count
  split <;> rfl

/-- A core at the end of an instruction, but for its place in the chunks. -/
def Core.ended (c : Core) (p : Plan) (pc : Word) : Core := { (c.sbPass p).setPc pc with wait := none }.count 2 1

theorem Core.ended_plainly (c : Core) (p : Plan) (pc : Word) : c.plainly (c.ended p pc) :=
  Core.plainly_trans (Core.plainly_ended c p pc) (Core.plainly_of_kept (Core.count_kept _ _ _))

theorem Core.ended_eq (c : Core) (p : Plan) (pc : Word) : c.ended p pc =
    { c with regs := { c.regs with pc := pc }, wait := none, scoreboard := (c.sbPass p).scoreboard, pmc := (c.ended p pc).pmc } := by
  have h := Core.count_eq ({ (c.sbPass p).setPc pc with wait := none }) 2 1
  exact h

/-- A core in no single-access mode has no chunk granted with an access. -/
theorem samGrant_idle (s : State) (a : Nat) (h : (s.coreAt a).sam = false) : s.samGrant a = s := by
  unfold State.samGrant
  dsimp only
  rw [h]
  simp only [Bool.false_and, Bool.false_eq_true, if_false]
  split <;> rfl

/-- The end of an instruction whose core is in no gang and not in single-access mode. -/
theorem State.finish_eq (s t : State) (p : Plan) (pc : Word) (ht : t.cur = s.cur) (hs : t.core.sam = false)
    (hg : t.core.gang = none) :
    ∃ d, s.finish t p pc = t.setCore s.cur d ∧ d.regs = { t.core.regs with pc := pc } ∧ d.wait = none ∧ t.core.plainly d := by
  have e1 : t.me (fun c => ({ (c.sbPass p).setPc pc with wait := none }).count 2 1) = t.setCore s.cur (t.core.ended p pc) := by
    unfold State.me State.mapCore State.core
    rw [ht]
    rfl
  have k2 := Core.ended_plainly t.core p pc
  have k3 : (t.core.ended p pc).regs = { t.core.regs with pc := pc } := by rw [Core.ended_eq]
  have k4 : (t.core.ended p pc).wait = none := by rw [Core.ended_eq]
  have k5 : (t.core.ended p pc).sam = false := by rw [Core.ended_eq]; exact hs
  have k6 : (t.core.ended p pc).gang = none := by rw [Core.ended_eq]; exact hg
  revert e1 k2 k3 k4 k5 k6
  generalize t.core.ended p pc = e
  intro e1 k2 k3 k4 k5 k6
  have hs2 : (t.setCore s.cur e).samGrant s.cur = t.setCore s.cur e :=
    samGrant_idle _ _ (by rw [State.coreAt_setCore_self]; exact k5)
  have hb : ∃ d, (t.setCore s.cur e).boundary s.cur = t.setCore s.cur d ∧ e.kept d := by
    have key : ∀ b : Bool, ∃ d, (if b then (t.setCore s.cur e).mapCore s.cur Core.closeChunk else t.setCore s.cur e) =
        t.setCore s.cur d ∧ e.kept d := by
      intro b
      split
      · refine ⟨e.closeChunk, ?_, Core.closeChunk_kept e⟩
        unfold State.mapCore
        rw [State.setCore_setCore, State.coreAt_setCore_self]
      · exact ⟨e, rfl, Core.kept_refl e⟩
    unfold State.boundary
    rw [hs2, State.coreAt_setCore_self]
    exact key _
  obtain ⟨d, h1, h2⟩ := hb
  refine ⟨d, ?_, ?_, ?_, Core.plainly_trans k2 (Core.plainly_of_kept h2)⟩
  · unfold State.finish
    dsimp only
    rw [e1, h1]
    unfold State.gangIssued
    have : ((t.setCore s.cur d).coreAt s.cur).gang = none := by
      rw [State.coreAt_setCore_self, h2.1]
      exact k6
    rw [this]
  · rw [h2.1]
    exact k3
  · rw [h2.1]
    exact k4

theorem State.ready_gang {s : State} {p : Plan} (h : s.ready p = true) :
    s.core.gang = none ∧ s.core.sam = false ∧ s.leave = false ∧ s.reissuing = none := by
  simp only [State.ready, Bool.and_eq_true, Bool.not_eq_true', Option.isNone_iff_eq_none] at h
  obtain ⟨⟨⟨⟨⟨⟨⟨⟨⟨⟨h1, h2⟩, h3⟩, h4⟩, h5⟩, h6⟩, h7⟩, h8⟩, h9⟩, h10⟩, -⟩ := h
  exact ⟨h2, h5, h9, h10⟩

theorem State.ready_ahead {s : State} {p : Plan} (h : s.ready p = true) : s.core.ahead = none := by
  simp only [State.ready, Bool.and_eq_true, Option.isNone_iff_eq_none] at h
  obtain ⟨⟨⟨⟨⟨⟨⟨⟨⟨⟨-, -⟩, h3⟩, -⟩, -⟩, -⟩, -⟩, -⟩, -⟩, -⟩, -⟩ := h
  exact h3

/-- The end of an instruction that changed its core plainly. -/
theorem State.finish_quiet {s : State} {p : Plan} (h : s.ready p = true) (c : Core) (hc : s.core.plainly c) (hs : c.sam = false) (pc : Word) :
    ∃ t, s.finish (s.setCore s.cur c) p pc = t ∧ t.core.regs = { c.regs with pc := pc } ∧ t.core.wait = none ∧ s.quiet t := by
  obtain ⟨hg, -, -, -⟩ := State.ready_gang h
  have ec : (s.setCore s.cur c).core = c := State.coreAt_setCore_self s s.cur c
  have hg2 : c.gang = none := by rw [hc.1]; exact hg
  obtain ⟨d, e1, e2, e3, e4⟩ := State.finish_eq s (s.setCore s.cur c) p pc rfl (by rw [ec]; exact hs) (by rw [ec]; exact hg2)
  rw [ec] at e2 e4
  have e5 : (s.setCore s.cur c).setCore s.cur d = s.setCore s.cur d := State.setCore_setCore s s.cur c d
  have e6 : (s.setCore s.cur d).core = d := State.coreAt_setCore_self s s.cur d
  refine ⟨s.setCore s.cur d, e1.trans e5, ?_, ?_, State.quiet_setCore s d (Core.plainly_trans hc e4)⟩
  · rw [e6]; exact e2
  · rw [e6]; exact e3

theorem State.core_setCore (s : State) (c : Core) : (s.setCore s.cur c).core = c := State.coreAt_setCore_self s s.cur c

theorem State.me_setCore (s : State) (c : Core) (f : Core → Core) : (s.setCore s.cur c).me f = s.setCore s.cur (f c) := by
  show (s.setCore s.cur c).mapCore s.cur f = _
  unfold State.mapCore
  rw [State.coreAt_setCore_self, State.setCore_setCore]

theorem Core.regsOnly_plainly {f : Core → Core} (hf : Core.RegsOnly f) (c : Core) : c.plainly (f c) ∧ (f c).sam = c.sam := by
  rw [hf c]
  exact ⟨Core.plainly_regs c _, rfl⟩

/-- An instruction whose own part is a change `f` of its core's registers completes with that change. -/
theorem completesAt_of {s : State} {p : Plan} {body : State → Res} {i : Instr} {f : Core → Core} {pc : Word}
    (he : exec i s = issue p body s) (h : s.ready p = true) (hf : Core.RegsOnly f) (hs : Core.Steady (fun c => (f c).regs))
    (hb : ∀ c, s.core.kept c → s.concludeIssue p (body (s.setCore s.cur c)) = s.finish (s.setCore s.cur (f c)) p pc) :
    CompletesAt s i (f s.core) pc := by
  obtain ⟨c, e1, e2, e3⟩ := State.begin_eq s p (State.ready_gang h).2.1 (State.ready_held h).2.1
  have hp := Core.regsOnly_plainly hf c
  obtain ⟨t, t1, t2, t3, t4⟩ :=
    State.finish_quiet h (f c) (Core.plainly_trans (Core.plainly_of_kept e2) hp.1) (hp.2.trans e3) pc
  refine ⟨t, ?_, ?_, t3, t4⟩
  · rw [he, issue_ready body h, e1, hb c e2, t1]
  · rw [t2]
    have : (f c).regs = (f s.core).regs := hs _ _ e2
    rw [this]

/-- The same for an own part that ends as the shapes of operands write it. -/
theorem completes_of {s : State} {p : Plan} {i : Instr} {f : Core → Core}
    (he : exec i s = issue p (fun s => .done (s.me f)) s) (h : s.ready p = true) (hf : Core.RegsOnly f)
    (hs : Core.Steady (fun c => (f c).regs)) : Completes s i (f s.core) :=
  completesAt_of he h hf hs (fun c _ => by
    show s.finish ((s.setCore s.cur c).me f) p _ = _
    rw [State.me_setCore])

/-! ### Writes of registers -/

theorem Core.regsOnly_writeS (f : Core → Word) (d : BitVec 5) : Core.RegsOnly (fun c => c.writeS d (f c)) := by
  intro c
  dsimp only
  unfold Core.writeS
  split <;> rfl

theorem Core.regsOnly_putF (f : Core → FRes) (d : BitVec 5) : Core.RegsOnly (fun c => c.putF d (f c)) := by
  intro c
  dsimp only
  unfold Core.putF Core.writeS Core.raiseFl
  split <;> rfl

theorem Core.regsOnly_putV (d : BitVec 5) (p : BitVec 3) (w : Nat) (f : Core → Nat → FRes) : Core.RegsOnly (fun c => c.putV d p w (f c)) := by
  intro c
  dsimp only
  unfold Core.putV
  dsimp only
  split <;> rfl

theorem Core.regsOnly_putCmp (d p : BitVec 3) (w : Nat) (f : Core → Nat → Bool × FFl) : Core.RegsOnly (fun c => c.putCmp d p w (f c)) := by
  intro c
  dsimp only
  unfold Core.putCmp Core.writeP
  dsimp only
  split <;> rfl

theorem Core.kept_regs {c d : Core} (h : c.kept d) : d.regs = c.regs := by rw [h.1]

theorem Core.writeS_regs {c e : Core} (h : e.regs = c.regs) (d : BitVec 5) (x : Word) : (e.writeS d x).regs = (c.writeS d x).regs := by
  unfold Core.writeS
  split
  · exact h
  · simp only [h]

theorem Core.raiseFl_regs {c e : Core} (h : e.regs = c.regs) (x : BitVec 5) : (e.raiseFl x).regs = (c.raiseFl x).regs := by
  unfold Core.raiseFl
  simp only [h]

theorem Core.writeV_regs {c e : Core} (h : e.regs = c.regs) (d : BitVec 5) (x : VWord) : (e.writeV d x).regs = (c.writeV d x).regs := by
  unfold Core.writeV
  simp only [h]

theorem Core.mergeV_regs {c e : Core} (h : e.regs = c.regs) (d : BitVec 5) (x : VWord) : (e.mergeV d x).regs = (c.mergeV d x).regs := by
  unfold Core.mergeV
  simp only [h]

theorem Core.writeP_regs {c e : Core} (h : e.regs = c.regs) (d : BitVec 3) (x : PWord) : (e.writeP d x).regs = (c.writeP d x).regs := by
  unfold Core.writeP
  split
  · exact h
  · simp only [h]

theorem Core.putV_regs {c e : Core} (h : e.regs = c.regs) (d : BitVec 5) (p : BitVec 3) (w : Nat) (g : Nat → FRes) :
    (e.putV d p w g).regs = (c.putV d p w g).regs := by
  have h1 : e.readP p = c.readP p := by unfold Core.readP; rw [h]
  have h2 : e.readV d = c.readV d := by unfold Core.readV; rw [h]
  unfold Core.putV
  rw [h1, h2]
  dsimp only
  apply Core.raiseFl_regs
  split
  · exact Core.writeV_regs h _ _
  · exact Core.mergeV_regs h _ _

theorem Core.putCmp_regs {c e : Core} (h : e.regs = c.regs) (d p : BitVec 3) (w : Nat) (g : Nat → Bool × FFl) :
    (e.putCmp d p w g).regs = (c.putCmp d p w g).regs := by
  have h1 : e.readP p = c.readP p := by unfold Core.readP; rw [h]
  unfold Core.putCmp
  rw [h1]
  dsimp only
  exact Core.raiseFl_regs (Core.writeP_regs h _ _) _

/-! ### The shapes of operands -/

/-- A single-cycle instruction that writes s[d] completes with its result `v` there. -/
theorem opS_completes {s : State} {i : Instr} {srcs : List RegName} {d : BitVec 5} {f : Core → Word} {v : Word}
    (h : s.ready (Plan.simple srcs [sR d]) = true) (he : exec i s = opS srcs d f s) (hs : Core.Steady f) (hv : f s.core = v) :
    Completes s i (s.core.writeS d v) := by
  subst hv
  exact completes_of (f := fun c => c.writeS d (f c)) he h (Core.regsOnly_writeS f d) (fun c e g => by
    dsimp only
    rw [hs c e g]
    exact Core.writeS_regs (Core.kept_regs g) d _)

/-- A multi-cycle one. -/
theorem opM_completes {s : State} {i : Instr} {srcs : List RegName} {d : BitVec 5} {la : BitVec 4} {f : Core → Word} {v : Word}
    (h : s.ready (Plan.multi srcs [sR d] la) = true) (he : exec i s = opM srcs d la f s) (hs : Core.Steady f) (hv : f s.core = v) :
    Completes s i (s.core.writeS d v) := by
  subst hv
  exact completes_of (f := fun c => c.writeS d (f c)) he h (Core.regsOnly_writeS f d) (fun c e g => by
    dsimp only
    rw [hs c e g]
    exact Core.writeS_regs (Core.kept_regs g) d _)

/-- One with flags. -/
theorem opF_completes {s : State} {i : Instr} {srcs : List RegName} {d : BitVec 5} {la : BitVec 4} {f : Core → FRes} {v : FRes}
    (h : s.ready (Plan.multi srcs [sR d] la) = true) (he : exec i s = opF srcs d la f s) (hs : Core.Steady f) (hv : f s.core = v) :
    Completes s i (s.core.putF d v) := by
  subst hv
  exact completes_of (f := fun c => c.putF d (f c)) he h (Core.regsOnly_putF f d) (fun c e g => by
    dsimp only
    rw [hs c e g]
    exact Core.raiseFl_regs (Core.writeS_regs (Core.kept_regs g) d _) _)

/-- A predicated vector instruction. -/
theorem opV_completes {s : State} {i : Instr} {srcs : List RegName} {d : BitVec 5} {p : BitVec 3} {la : BitVec 4} {w : Nat}
    {f : Core → Nat → FRes} {g : Nat → FRes} (h : s.ready (Plan.multi (srcs ++ [pR p]) [vR d] la) = true)
    (he : exec i s = opV srcs d p la w f s) (hs : Core.Steady f) (hv : f s.core = g) : Completes s i (s.core.putV d p w g) := by
  subst hv
  exact completes_of (f := fun c => c.putV d p w (f c)) he h (Core.regsOnly_putV d p w f) (fun c e g => by
    dsimp only
    rw [hs c e g]
    exact Core.putV_regs (Core.kept_regs g) d p w _)

/-- A vector comparison. -/
theorem opVC_completes {s : State} {i : Instr} {d : BitVec 3} {a b : BitVec 5} {p : BitVec 3} {la : BitVec 4} {w : Nat}
    {f : Nat → Nat → Bool × FFl} (h : s.ready (Plan.multi [vR a, vR b, pR p] [pR d] la) = true)
    (he : exec i s = opVC d a b p la w f s) :
    Completes s i (s.core.putCmp d p w (fun k => f (elem w (s.core.readV a) k) (elem w (s.core.readV b) k))) :=
  completes_of (f := fun c => c.putCmp d p w (fun k => f (elem w (c.readV a) k) (elem w (c.readV b) k))) he h
    (Core.regsOnly_putCmp d p w _) (fun c e g => by
      have h1 : e.readV a = c.readV a := by unfold Core.readV; rw [Core.kept_regs g]
      have h2 : e.readV b = c.readV b := by unfold Core.readV; rw [Core.kept_regs g]
      dsimp only
      rw [h1, h2]
      exact Core.putCmp_regs (Core.kept_regs g) d p w _)

/-- An operation on a whole vector register. -/
theorem opW_completes {s : State} {i : Instr} {srcs : List RegName} {d : BitVec 5} {la : BitVec 4} {whole : Core → Bool}
    {f : Core → VWord × FFl} {v : VWord × FFl} {b : Bool} (h : s.ready (Plan.multi srcs [vR d] la) = true)
    (he : exec i s = opW srcs d la whole f s) (hw : Core.Steady whole) (hs : Core.Steady f) (hb : whole s.core = b)
    (hv : f s.core = v) : Completes s i ((if b then s.core.writeV d v.1 else s.core.mergeV d v.1).raiseFl v.2) := by
  subst hv hb
  exact completes_of (f := fun c => (if whole c then c.writeV d (f c).1 else c.mergeV d (f c).1).raiseFl (f c).2) he h
    (fun c => by dsimp only; split <;> rfl) (fun c e g => by
      dsimp only
      rw [hs c e g, hw c e g]
      apply Core.raiseFl_regs
      split
      · exact Core.writeV_regs (Core.kept_regs g) d _
      · exact Core.mergeV_regs (Core.kept_regs g) d _)

end Sys2Proof.Machine
end

