-- ==== Sys2Proof/Laws/Optics.lean ====
section
/-! SUPPORT. What a bounded choice gives, and what a billet does to the zero vector. -/

namespace Sys2Proof.Machine

theorem firstBelow_some (p : Nat → Bool) (n k : Nat) (h : firstBelow p n = some k) : k < n ∧ p k = true := by
  induction n with
  | zero => cases h
  | succ n ih =>
    rw [firstBelow] at h
    cases hn : firstBelow p n with
    | some j =>
      rw [hn] at h
      cases h
      exact ⟨Nat.lt_succ_of_lt (ih hn).1, (ih hn).2⟩
    | none =>
      simp only [hn, Option.orElse_none] at h
      split at h
      · cases h; exact ⟨Nat.lt_succ_self _, ‹_›⟩
      · cases h
theorem firstBelow_none (p : Nat → Bool) (n : Nat) (h : firstBelow p n = none) : ∀ k < n, p k = false := by
  induction n with
  | zero => intro k hk; omega
  | succ n ih =>
    rw [firstBelow] at h
    cases hn : firstBelow p n with
    | some j => simp only [hn, Option.orElse_some, reduceCtorEq] at h
    | none =>
      simp only [hn, Option.orElse_none, ite_eq_right_iff, reduceCtorEq, imp_false, Bool.not_eq_true] at h
      intro k hk
      rcases Nat.lt_succ_iff_lt_or_eq.mp hk with hk | rfl
      · exact ih hn k hk
      · exact h
/-- A choice keeps its bound wherever any number below its limit does. -/
theorem chosen_keeps (p : Nat → Bool) (n free : Nat) (h : ∃ k < n, p k = true) : p (chosen p n free) = true := by
  unfold chosen
  split
  · assumption
  · cases hf : firstBelow p n with
    | some k => exact (firstBelow_some p n k hf).2
    | none =>
      obtain ⟨k, hk, hp⟩ := h
      rw [firstBelow_none p n hf k hk] at hp
      cases hp

/-- What a pass digitises keeps R42 and R43 wherever any codes do. -/
theorem digitise_keeps (gain : Nat) (adc : List (BitVec 32)) (deb : Nat) (ideals : List (List Int)) (free : Nat)
    (h : ∃ n < 2 ^ (640 * ideals.length), codesOk gain adc deb ideals n = true) :
    codesOk gain adc deb ideals (digitise gain adc deb ideals free) = true := chosen_keeps _ _ _ h

theorem nth_zeros (n i : Nat) : nth (0 : Int) (List.replicate n 0) i = 0 := by
  induction n generalizing i with
  | zero => rfl
  | succ n ih => cases i <;> simp [List.replicate_succ, nth, ih]
theorem setNth_zeros (n i : Nat) : setNth (List.replicate n (0 : Int)) i 0 = List.replicate n 0 := by
  induction n generalizing i with
  | zero => rfl
  | succ n ih => cases i <;> simp [List.replicate_succ, setNth, ih]
theorem mzi_zeros (m theta phi : Nat) : mzi (List.replicate 64 0) m theta phi = List.replicate 64 0 := by
  simp only [mzi, nth_zeros, Int.mul_zero, Int.sub_zero, Int.add_zero, Int.zero_ediv, Int.neg_zero, ite_self, setNth_zeros]
theorem stageApply_zeros (theta phi : Nat → Nat) : stageApply theta phi (List.replicate 64 0) = List.replicate 64 0 := by
  unfold stageApply
  generalize stageModes.zip (tab id 0 2016) = l
  induction l with
  | nil => rfl
  | cons x l ih => rw [List.foldl_cons, mzi_zeros, ih]
/-- A billet gives no light for no light. -/
theorem billetApply_zeros (image : Nat) : billetApply image (List.replicate 64 0) = List.replicate 64 0 := by
  have h : ∀ att : Nat → Nat, tab (fun k => nth (0 : Int) (List.replicate 64 0) k * (att k : Nat) / 65535) 0 64 = List.replicate 64 0 := by
    intro att
    simp only [nth_zeros, Int.zero_mul, Int.zero_ediv]
    rfl
  unfold billetApply meshApply
  rw [List.map_replicate, Int.zero_mul]
  simp only [stageApply_zeros, h]

end Sys2Proof.Machine
end

