-- ==== Sys2Proof/Laws/PerInstr.lean ====
section
/-! SUPPORT. The family of statements made for every instruction as syntax: the major opcode of its word is the one that
03_encoding R58 gives its group, and a step of the device has no word. -/

namespace Sys2Proof.Laws.Major

/-- The major opcode of an instruction that has a word. -/
def major : Instr → Option (BitVec 6)
  | .illegalInstruction _ => none
  | .emul _ => none
  | .mapply _ => none
  | .mcolsum _ => none
  | .mloadb _ => none
  | .mswapb _ => none
  | .mrotb _ => none
  | .mprobe _ => none
  | .sfact _ _ => none
  | .sfactq _ _ => none
  | .tcopy _ _ => none
  | .tcopy2 _ _ => none
  | .tgath _ _ => none
  | .tscat _ _ => none
  | .tfill _ _ => none
  | .tpref _ _ => none
  | .creds _ => none
  | .cgath _ => none
  | .cbcast _ => none
  | .callred _ => none
  | .migr _ => none
  | .migra _ => none
  | .mevac _ => none
  | .svctxRequest _ => none
  | .svctxForced _ => none
  | .svctxFrozen _ => none
  | .rsctx _ => none
  | .engineStart _ _ => none
  | .collectiveStart _ => none
  | .commandEnd _ _ _ => none
  | .anvilArbiterRound _ => none
  | .anvilPass _ => none
  | .passDrain _ => none
  | .holdingBufferDrain _ => none
  | .shadowTransferEnd _ => none
  | .batchBoundary _ => none
  | .probeSet _ => none
  | .probeReferenceEnd _ => none
  | .probeUpdate _ => none
  | .probeStaleTimeout _ => none
  | .chunkCommit _ => none
  | .writeNotice => none
  | .scoreboardComplete _ _ => none
  | .lateFault _ _ => none
  | .runAhead _ => none
  | .atomicPerform => none
  | .reductionDelivery => none
  | .feWaitRelease _ => none
  | .linkSlotArrival _ _ => none
  | .barrierArrival => none
  | .eventRelease _ => none
  | .taskAgingTick _ _ => none
  | .dispatch _ => none
  | .restore _ _ => none
  | .gangReservation _ => none
  | .gangDispatch _ => none
  | .launchUnitPost _ => none
  | .costartDispatch _ => none
  | .prebudgetExpiry _ => none
  | .save _ => none
  | .packetRingWrite _ => none
  | .migrationLineCopy _ _ => none
  | .migrationSwitch _ _ => none
  | .migrationAbort _ _ => none
  | .hotnessSample _ => none
  | .hotnessHalving _ => none
  | .notificationRepost _ => none
  | .scrubStep _ _ _ _ => none
  | .scrubRateReview _ => none
  | .refreshDue _ _ _ => none
  | .activationAlert _ _ => none
  | .vbusCrcError _ _ _ => none
  | .vbusLaneSteer _ _ => none
  | .inFieldTest _ => none
  | .iftInterval _ => none
  | .iftStart _ => none
  | .islandRelock _ _ => none
  | .islctlWrite _ _ _ => none
  | .droopStretch _ _ => none
  | .droopRecover _ _ => none
  | .brownoutHold => none
  | .brownoutResume => none
  | .powerCapStep _ => none
  | .powerCapRestore _ => none
  | .converterRowHot _ _ => none
  | .quenchExit _ _ => none
  | .junctionHot _ _ _ => none
  | .throttleStep _ _ _ => none
  | .photonicHot _ => none
  | .thermalTrip => none
  | .coldBoot _ => none
  | .pcieReset _ _ => none
  | .hostLinkDown => none
  | .hostLinkUp => none
  | .hostMemRead _ _ _ => none
  | .hostMemWrite _ _ _ _ => none
  | .cxlSurpriseRemoval _ _ => none
  | .atfinLockLost _ => none
  | .atfinReplayRequest _ => none
  | .atfinFlitAck _ => none
  | .atfinReplayLimit _ => none
  | .atfinRetrainEnd _ _ _ => none
  | .hostcmdWarmReset _ => none
  | .hostcmdPostTransport _ => none
  | .hostcmdQuote => none
  | .hostcmdFwCommit _ => none
  | .readStatus => none
  | .warmReset _ => none
  | .postTransport _ => none
  | .setCap _ => none
  | .readFeat => none
  | .flashWindow _ => none
  | .wttPost _ _ => none
  | .wttCancel _ _ => none
  | .wttKill _ _ => none
  | .teamLaunch _ => none
  | .migPortSubmit _ _ _ => none
  | .migPortPop _ => none
  | .savePortSubmit _ _ _ => none
  | .savePortPop _ => none
  | .nqPop _ => none
  | .hdoor _ => none
  | .hrelease _ => none
  | .smsgDoorbell _ => none
  | .histClear _ _ => none
  | .evWindowLoad _ _ _ => none
  | .evWindowStore _ _ => none
  | .lsplitWrite _ _ => none
  | .l2scrWrite _ _ => none
  | .hsampleWrite _ _ => none
  | .registerWrite _ _ => none
  | .voltageLoopAdjust _ _ => none
  | .refreshComplete _ _ => none
  | .powerRemoval => none
  | .inFieldTestEnd _ _ => none
  | .dieToDiePathFailure _ => none
  | .atfinFlitArrival _ _ => none
  | .homeAcknowledge => none
  | .msgDelivery => none
  | .skxDelivery => none
  | .ill => some 0x00
  | .nop => some 0x00
  | .csrr _ _ => some 0x00
  | .csrw _ _ _ => some 0x00
  | .csrs _ _ _ => some 0x00
  | .csrc _ _ _ => some 0x00
  | .fence _ => some 0x00
  | .rel _ => some 0x00
  | .acq _ => some 0x00
  | .chunke => some 0x00
  | .svc _ => some 0x00
  | .halt => some 0x00
  | .resume _ _ => some 0x00
  | .tlbi _ _ => some 0x00
  | .frply _ => some 0x00
  | .l2flw _ => some 0x00
  | .hflush _ _ _ => some 0x00
  | .add _ _ _ => some 0x01
  | .sub _ _ _ => some 0x01
  | .and _ _ _ => some 0x01
  | .or _ _ _ => some 0x01
  | .xor _ _ _ => some 0x01
  | .andn _ _ _ => some 0x01
  | .orn _ _ _ => some 0x01
  | .xnor _ _ _ => some 0x01
  | .sll _ _ _ => some 0x01
  | .srl _ _ _ => some 0x01
  | .sra _ _ _ => some 0x01
  | .rol _ _ _ => some 0x01
  | .ror _ _ _ => some 0x01
  | .slt _ _ _ => some 0x01
  | .sltu _ _ _ => some 0x01
  | .seq _ _ _ => some 0x01
  | .min _ _ _ => some 0x01
  | .max _ _ _ => some 0x01
  | .minu _ _ _ => some 0x01
  | .maxu _ _ _ => some 0x01
  | .mul _ _ _ _ => some 0x01
  | .mulh _ _ _ _ => some 0x01
  | .mulhu _ _ _ _ => some 0x01
  | .div _ _ _ _ => some 0x01
  | .divu _ _ _ _ => some 0x01
  | .rem _ _ _ _ => some 0x01
  | .remu _ _ _ _ => some 0x01
  | .clz _ _ => some 0x01
  | .ctz _ _ => some 0x01
  | .popc _ _ => some 0x01
  | .brev _ _ => some 0x01
  | .bswap _ _ => some 0x01
  | .sextb _ _ => some 0x01
  | .sexth _ _ => some 0x01
  | .sextw _ _ => some 0x01
  | .zextw _ _ => some 0x01
  | .addw _ _ _ => some 0x01
  | .subw _ _ _ => some 0x01
  | .adds _ _ _ => some 0x01
  | .hadd _ _ _ => some 0x01
  | .addi _ _ _ => some 0x02
  | .andi _ _ _ => some 0x03
  | .ori _ _ _ => some 0x04
  | .xori _ _ _ => some 0x05
  | .slti _ _ _ => some 0x06
  | .sltiu _ _ _ => some 0x07
  | .lui _ _ => some 0x08
  | .slli _ _ _ => some 0x09
  | .srli _ _ _ => some 0x09
  | .srai _ _ _ => some 0x09
  | .rori _ _ _ => some 0x09
  | .beq _ _ _ => some 0x0a
  | .bne _ _ _ => some 0x0b
  | .blt _ _ _ => some 0x0c
  | .bge _ _ _ => some 0x0d
  | .bltu _ _ _ => some 0x0e
  | .bgeu _ _ _ => some 0x0f
  | .jal _ => some 0x10
  | .jalr _ _ _ => some 0x11
  | .lb _ _ _ _ => some 0x12
  | .lh _ _ _ _ => some 0x13
  | .lw _ _ _ _ => some 0x14
  | .ld _ _ _ _ => some 0x15
  | .lbu _ _ _ _ => some 0x16
  | .lhu _ _ _ _ => some 0x17
  | .lwu _ _ _ _ => some 0x18
  | .sb _ _ _ _ => some 0x19
  | .sh _ _ _ _ => some 0x1a
  | .sw _ _ _ _ => some 0x1b
  | .sd _ _ _ _ => some 0x1c
  | .lds _ _ _ _ => some 0x1d
  | .ldse _ _ _ => some 0x1e
  | .stf _ _ _ => some 0x1e
  | .feclr _ _ => some 0x1e
  | .feset _ _ => some 0x1e
  | .feq _ _ _ => some 0x1e
  | .fadd _ _ _ _ => some 0x1f
  | .fsub _ _ _ _ => some 0x1f
  | .fmul _ _ _ _ => some 0x1f
  | .fdiv _ _ _ _ => some 0x1f
  | .fsqrt _ _ _ => some 0x1f
  | .fmin _ _ _ _ => some 0x1f
  | .fmax _ _ _ _ => some 0x1f
  | .fceq _ _ _ _ => some 0x1f
  | .fclt _ _ _ _ => some 0x1f
  | .fcle _ _ _ _ => some 0x1f
  | .fmac _ _ _ _ => some 0x1f
  | .fcvtdl _ _ _ => some 0x1f
  | .fcvtld _ _ _ => some 0x1f
  | .fcvtsd _ _ _ => some 0x1f
  | .fcvtds _ _ _ => some 0x1f
  | .fclass _ _ _ => some 0x1f
  | .bext _ _ _ _ => some 0x20
  | .bexts _ _ _ _ => some 0x20
  | .bins _ _ _ _ => some 0x20
  | .amoswap _ _ _ _ => some 0x21
  | .amoadd _ _ _ _ => some 0x21
  | .amoand _ _ _ _ => some 0x21
  | .amoor _ _ _ _ => some 0x21
  | .amoxor _ _ _ _ => some 0x21
  | .amomin _ _ _ _ => some 0x21
  | .amomax _ _ _ _ => some 0x21
  | .amominu _ _ _ _ => some 0x21
  | .amomaxu _ _ _ _ => some 0x21
  | .amoswapI32 _ _ _ _ => some 0x21
  | .amoaddI32 _ _ _ _ => some 0x21
  | .amoandI32 _ _ _ _ => some 0x21
  | .amoorI32 _ _ _ _ => some 0x21
  | .amoxorI32 _ _ _ _ => some 0x21
  | .amominI32 _ _ _ _ => some 0x21
  | .amomaxI32 _ _ _ _ => some 0x21
  | .amominuI32 _ _ _ _ => some 0x21
  | .amomaxuI32 _ _ _ _ => some 0x21
  | .cas _ _ _ _ => some 0x21
  | .casgt _ _ _ _ => some 0x21
  | .casver _ _ _ _ => some 0x21
  | .castag _ _ _ _ => some 0x21
  | .amofadd _ _ _ _ => some 0x21
  | .redadd _ _ _ _ => some 0x21
  | .redmin _ _ _ _ => some 0x21
  | .redmax _ _ _ _ => some 0x21
  | .redfadd _ _ _ _ => some 0x21
  | .redor _ _ _ _ => some 0x21
  | .barArr _ => some 0x22
  | .barWait _ => some 0x22
  | .barArrw _ => some 0x22
  | .barInit _ _ _ => some 0x22
  | .evwait _ _ => some 0x22
  | .evsig _ _ => some 0x22
  | .msg _ _ => some 0x22
  | .cntadd _ _ => some 0x22
  | .cntwait _ _ => some 0x22
  | .tkpost _ _ _ => some 0x23
  | .tkcancel _ _ => some 0x23
  | .tkexit => some 0x23
  | .tkyield _ _ => some 0x23
  | .prehint _ _ => some 0x23
  | .gang _ => some 0x23
  | .split => some 0x23
  | .cropen _ => some 0x23
  | .crclose => some 0x23
  | .tkstat _ _ => some 0x23
  | .qsend _ _ _ => some 0x24
  | .qsendv _ _ _ => some 0x24
  | .qpush _ _ => some 0x24
  | .qpop _ _ _ => some 0x24
  | .qpopv _ _ _ => some 0x24
  | .qstat _ _ => some 0x24
  | .qflush _ => some 0x24
  | .lkrd _ _ _ => some 0x24
  | .lkrdf _ _ _ => some 0x24
  | .lkwr _ _ => some 0x24
  | .lkstat _ => some 0x24
  | .tloc _ _ _ => some 0x25
  | .tfix _ _ => some 0x25
  | .tretry _ _ => some 0x25
  | .trrd _ _ _ _ => some 0x25
  | .wspsw _ => some 0x25
  | .mbatch _ => some 0x25
  | .mdrain _ => some 0x25
  | .skcomb _ _ _ => some 0x25
  | .ckacc _ _ _ => some 0x26
  | .ckaccx _ _ _ => some 0x26
  | .ckaccf _ _ _ => some 0x26
  | .ckaccv _ _ _ _ => some 0x26
  | .ckchk _ _ _ _ => some 0x26
  | .ckchkf _ _ _ _ => some 0x26
  | .ckclr _ => some 0x26
  | .ckrd _ _ => some 0x26
  | .fshl _ _ _ _ => some 0x27
  | .fshr _ _ _ _ => some 0x27
  | .bextv _ _ _ _ => some 0x27
  | .binsv _ _ _ _ => some 0x27
  | .vaddI32 _ _ _ _ _ => some 0x28
  | .vsubI32 _ _ _ _ _ => some 0x28
  | .vmulI32 _ _ _ _ _ => some 0x28
  | .vmacI32 _ _ _ _ _ => some 0x28
  | .vminI32 _ _ _ _ _ => some 0x28
  | .vmaxI32 _ _ _ _ _ => some 0x28
  | .vminuI32 _ _ _ _ _ => some 0x28
  | .vmaxuI32 _ _ _ _ _ => some 0x28
  | .vabsI32 _ _ _ _ => some 0x28
  | .vnegI32 _ _ _ _ => some 0x28
  | .vshlI32 _ _ _ _ _ => some 0x28
  | .vshrI32 _ _ _ _ _ => some 0x28
  | .vsraI32 _ _ _ _ _ => some 0x28
  | .vceqI32 _ _ _ _ _ => some 0x28
  | .vcltI32 _ _ _ _ _ => some 0x28
  | .vcltuI32 _ _ _ _ _ => some 0x28
  | .vaddI16 _ _ _ _ _ => some 0x29
  | .vsubI16 _ _ _ _ _ => some 0x29
  | .vmulI16 _ _ _ _ _ => some 0x29
  | .vmacI16 _ _ _ _ _ => some 0x29
  | .vminI16 _ _ _ _ _ => some 0x29
  | .vmaxI16 _ _ _ _ _ => some 0x29
  | .vminuI16 _ _ _ _ _ => some 0x29
  | .vmaxuI16 _ _ _ _ _ => some 0x29
  | .vabsI16 _ _ _ _ => some 0x29
  | .vnegI16 _ _ _ _ => some 0x29
  | .vshlI16 _ _ _ _ _ => some 0x29
  | .vshrI16 _ _ _ _ _ => some 0x29
  | .vsraI16 _ _ _ _ _ => some 0x29
  | .vceqI16 _ _ _ _ _ => some 0x29
  | .vcltI16 _ _ _ _ _ => some 0x29
  | .vcltuI16 _ _ _ _ _ => some 0x29
  | .vaddI8 _ _ _ _ _ => some 0x2a
  | .vsubI8 _ _ _ _ _ => some 0x2a
  | .vmulI8 _ _ _ _ _ => some 0x2a
  | .vmacI8 _ _ _ _ _ => some 0x2a
  | .vminI8 _ _ _ _ _ => some 0x2a
  | .vmaxI8 _ _ _ _ _ => some 0x2a
  | .vminuI8 _ _ _ _ _ => some 0x2a
  | .vmaxuI8 _ _ _ _ _ => some 0x2a
  | .vabsI8 _ _ _ _ => some 0x2a
  | .vnegI8 _ _ _ _ => some 0x2a
  | .vshlI8 _ _ _ _ _ => some 0x2a
  | .vshrI8 _ _ _ _ _ => some 0x2a
  | .vsraI8 _ _ _ _ _ => some 0x2a
  | .vceqI8 _ _ _ _ _ => some 0x2a
  | .vcltI8 _ _ _ _ _ => some 0x2a
  | .vcltuI8 _ _ _ _ _ => some 0x2a
  | .vaddF32 _ _ _ _ _ => some 0x2b
  | .vsubF32 _ _ _ _ _ => some 0x2b
  | .vmulF32 _ _ _ _ _ => some 0x2b
  | .vfmaF32 _ _ _ _ _ => some 0x2b
  | .vminF32 _ _ _ _ _ => some 0x2b
  | .vmaxF32 _ _ _ _ _ => some 0x2b
  | .vfmsF32 _ _ _ _ _ => some 0x2b
  | .vdivF32 _ _ _ _ _ => some 0x2b
  | .vabsF32 _ _ _ _ => some 0x2b
  | .vnegF32 _ _ _ _ => some 0x2b
  | .vsqrtF32 _ _ _ _ => some 0x2b
  | .vrcpeF32 _ _ _ _ => some 0x2b
  | .vrsqeF32 _ _ _ _ => some 0x2b
  | .vceqF32 _ _ _ _ _ => some 0x2b
  | .vcltF32 _ _ _ _ _ => some 0x2b
  | .vcleF32 _ _ _ _ _ => some 0x2b
  | .vaddBf16 _ _ _ _ _ => some 0x2c
  | .vsubBf16 _ _ _ _ _ => some 0x2c
  | .vmulBf16 _ _ _ _ _ => some 0x2c
  | .vfmaBf16 _ _ _ _ _ => some 0x2c
  | .vminBf16 _ _ _ _ _ => some 0x2c
  | .vmaxBf16 _ _ _ _ _ => some 0x2c
  | .vfmsBf16 _ _ _ _ _ => some 0x2c
  | .vabsBf16 _ _ _ _ => some 0x2c
  | .vnegBf16 _ _ _ _ => some 0x2c
  | .vrcpeBf16 _ _ _ _ => some 0x2c
  | .vrsqeBf16 _ _ _ _ => some 0x2c
  | .vceqBf16 _ _ _ _ _ => some 0x2c
  | .vcltBf16 _ _ _ _ _ => some 0x2c
  | .vcleBf16 _ _ _ _ _ => some 0x2c
  | .vaddF16 _ _ _ _ _ => some 0x2d
  | .vsubF16 _ _ _ _ _ => some 0x2d
  | .vmulF16 _ _ _ _ _ => some 0x2d
  | .vfmaF16 _ _ _ _ _ => some 0x2d
  | .vminF16 _ _ _ _ _ => some 0x2d
  | .vmaxF16 _ _ _ _ _ => some 0x2d
  | .vfmsF16 _ _ _ _ _ => some 0x2d
  | .vabsF16 _ _ _ _ => some 0x2d
  | .vnegF16 _ _ _ _ => some 0x2d
  | .vrcpeF16 _ _ _ _ => some 0x2d
  | .vrsqeF16 _ _ _ _ => some 0x2d
  | .vceqF16 _ _ _ _ _ => some 0x2d
  | .vcltF16 _ _ _ _ _ => some 0x2d
  | .vcleF16 _ _ _ _ _ => some 0x2d
  | .vand _ _ _ _ => some 0x2e
  | .vor _ _ _ _ => some 0x2e
  | .vxor _ _ _ _ => some 0x2e
  | .vandn _ _ _ _ => some 0x2e
  | .vsel _ _ _ _ => some 0x2e
  | .vpand _ _ _ => some 0x2e
  | .vpor _ _ _ => some 0x2e
  | .vpxor _ _ _ => some 0x2e
  | .vpnot _ _ => some 0x2e
  | .vpcnt _ _ _ _ _ => some 0x2e
  | .vpfirst _ _ _ _ _ => some 0x2e
  | .vperm _ _ _ _ _ => some 0x2f
  | .vbcast _ _ _ _ _ => some 0x2f
  | .vext _ _ _ _ _ => some 0x2f
  | .vins _ _ _ _ _ => some 0x2f
  | .vslup _ _ _ _ _ => some 0x2f
  | .vsldn _ _ _ _ _ => some 0x2f
  | .viota _ _ _ _ => some 0x2f
  | .vcompr _ _ _ _ _ => some 0x2f
  | .vredi _ _ _ _ _ => some 0x2f
  | .vredf _ _ _ _ _ => some 0x2f
  | .vredmx _ _ _ _ _ => some 0x2f
  | .vredmn _ _ _ _ _ => some 0x2f
  | .vcvt _ _ _ _ _ _ => some 0x30
  | .vqgrp _ _ _ _ _ => some 0x31
  | .vdqgrp _ _ _ _ _ => some 0x31
  | .vqmx _ _ _ _ _ => some 0x31
  | .vdqmx _ _ _ _ _ => some 0x31
  | .vscacc _ _ _ _ _ => some 0x31
  | .vbfpn _ _ _ _ _ => some 0x31
  | .vbfpx _ _ _ _ => some 0x31
  | .vzpc _ _ _ _ _ => some 0x31
  | .vld _ _ _ _ => some 0x32
  | .vst _ _ _ _ => some 0x33
  | .vlds _ _ _ _ _ => some 0x34
  | .vsts _ _ _ _ _ => some 0x34
  | .vgth _ _ _ _ _ => some 0x34
  | .vsct _ _ _ _ _ => some 0x34
  | .vldb _ _ _ _ => some 0x34
  | .vmvsv _ _ _ _ => some 0x35
  | .vmvvs _ _ _ _ _ => some 0x35
  | .vpld _ _ _ _ => some 0x35
  | .vpst _ _ _ _ => some 0x35

/-- The word of an instruction carries its major opcode in its top six bits. -/
def Statement (i : Instr) : Prop := (encode i).map (fun w => w.extractLsb' 26 6) = major i

theorem illegalInstruction x0 : Statement (.illegalInstruction x0) := rfl
theorem emul x0 : Statement (.emul x0) := rfl
theorem mapply x0 : Statement (.mapply x0) := rfl
theorem mcolsum x0 : Statement (.mcolsum x0) := rfl
theorem mloadb x0 : Statement (.mloadb x0) := rfl
theorem mswapb x0 : Statement (.mswapb x0) := rfl
theorem mrotb x0 : Statement (.mrotb x0) := rfl
theorem mprobe x0 : Statement (.mprobe x0) := rfl
theorem sfact x0 x1 : Statement (.sfact x0 x1) := rfl
theorem sfactq x0 x1 : Statement (.sfactq x0 x1) := rfl
theorem tcopy x0 x1 : Statement (.tcopy x0 x1) := rfl
theorem tcopy2 x0 x1 : Statement (.tcopy2 x0 x1) := rfl
theorem tgath x0 x1 : Statement (.tgath x0 x1) := rfl
theorem tscat x0 x1 : Statement (.tscat x0 x1) := rfl
theorem tfill x0 x1 : Statement (.tfill x0 x1) := rfl
theorem tpref x0 x1 : Statement (.tpref x0 x1) := rfl
theorem creds x0 : Statement (.creds x0) := rfl
theorem cgath x0 : Statement (.cgath x0) := rfl
theorem cbcast x0 : Statement (.cbcast x0) := rfl
theorem callred x0 : Statement (.callred x0) := rfl
theorem migr x0 : Statement (.migr x0) := rfl
theorem migra x0 : Statement (.migra x0) := rfl
theorem mevac x0 : Statement (.mevac x0) := rfl
theorem svctxRequest x0 : Statement (.svctxRequest x0) := rfl
theorem svctxForced x0 : Statement (.svctxForced x0) := rfl
theorem svctxFrozen x0 : Statement (.svctxFrozen x0) := rfl
theorem rsctx x0 : Statement (.rsctx x0) := rfl
theorem engineStart x0 x1 : Statement (.engineStart x0 x1) := rfl
theorem collectiveStart x0 : Statement (.collectiveStart x0) := rfl
theorem commandEnd x0 x1 x2 : Statement (.commandEnd x0 x1 x2) := rfl
theorem anvilArbiterRound x0 : Statement (.anvilArbiterRound x0) := rfl
theorem anvilPass x0 : Statement (.anvilPass x0) := rfl
theorem passDrain x0 : Statement (.passDrain x0) := rfl
theorem holdingBufferDrain x0 : Statement (.holdingBufferDrain x0) := rfl
theorem shadowTransferEnd x0 : Statement (.shadowTransferEnd x0) := rfl
theorem batchBoundary x0 : Statement (.batchBoundary x0) := rfl
theorem probeSet x0 : Statement (.probeSet x0) := rfl
theorem probeReferenceEnd x0 : Statement (.probeReferenceEnd x0) := rfl
theorem probeUpdate x0 : Statement (.probeUpdate x0) := rfl
theorem probeStaleTimeout x0 : Statement (.probeStaleTimeout x0) := rfl
theorem chunkCommit x0 : Statement (.chunkCommit x0) := rfl
theorem writeNotice : Statement (.writeNotice) := rfl
theorem scoreboardComplete x0 x1 : Statement (.scoreboardComplete x0 x1) := rfl
theorem lateFault x0 x1 : Statement (.lateFault x0 x1) := rfl
theorem runAhead x0 : Statement (.runAhead x0) := rfl
theorem atomicPerform : Statement (.atomicPerform) := rfl
theorem reductionDelivery : Statement (.reductionDelivery) := rfl
theorem feWaitRelease x0 : Statement (.feWaitRelease x0) := rfl
theorem linkSlotArrival x0 x1 : Statement (.linkSlotArrival x0 x1) := rfl
theorem barrierArrival : Statement (.barrierArrival) := rfl
theorem eventRelease x0 : Statement (.eventRelease x0) := rfl
theorem taskAgingTick x0 x1 : Statement (.taskAgingTick x0 x1) := rfl
theorem dispatch x0 : Statement (.dispatch x0) := rfl
theorem restore x0 x1 : Statement (.restore x0 x1) := rfl
theorem gangReservation x0 : Statement (.gangReservation x0) := rfl
theorem gangDispatch x0 : Statement (.gangDispatch x0) := rfl
theorem launchUnitPost x0 : Statement (.launchUnitPost x0) := rfl
theorem costartDispatch x0 : Statement (.costartDispatch x0) := rfl
theorem prebudgetExpiry x0 : Statement (.prebudgetExpiry x0) := rfl
theorem save x0 : Statement (.save x0) := rfl
theorem packetRingWrite x0 : Statement (.packetRingWrite x0) := rfl
theorem migrationLineCopy x0 x1 : Statement (.migrationLineCopy x0 x1) := rfl
theorem migrationSwitch x0 x1 : Statement (.migrationSwitch x0 x1) := rfl
theorem migrationAbort x0 x1 : Statement (.migrationAbort x0 x1) := rfl
theorem hotnessSample x0 : Statement (.hotnessSample x0) := rfl
theorem hotnessHalving x0 : Statement (.hotnessHalving x0) := rfl
theorem notificationRepost x0 : Statement (.notificationRepost x0) := rfl
theorem scrubStep x0 x1 x2 x3 : Statement (.scrubStep x0 x1 x2 x3) := rfl
theorem scrubRateReview x0 : Statement (.scrubRateReview x0) := rfl
theorem refreshDue x0 x1 x2 : Statement (.refreshDue x0 x1 x2) := rfl
theorem activationAlert x0 x1 : Statement (.activationAlert x0 x1) := rfl
theorem vbusCrcError x0 x1 x2 : Statement (.vbusCrcError x0 x1 x2) := rfl
theorem vbusLaneSteer x0 x1 : Statement (.vbusLaneSteer x0 x1) := rfl
theorem inFieldTest x0 : Statement (.inFieldTest x0) := rfl
theorem iftInterval x0 : Statement (.iftInterval x0) := rfl
theorem iftStart x0 : Statement (.iftStart x0) := rfl
theorem islandRelock x0 x1 : Statement (.islandRelock x0 x1) := rfl
theorem islctlWrite x0 x1 x2 : Statement (.islctlWrite x0 x1 x2) := rfl
theorem droopStretch x0 x1 : Statement (.droopStretch x0 x1) := rfl
theorem droopRecover x0 x1 : Statement (.droopRecover x0 x1) := rfl
theorem brownoutHold : Statement (.brownoutHold) := rfl
theorem brownoutResume : Statement (.brownoutResume) := rfl
theorem powerCapStep x0 : Statement (.powerCapStep x0) := rfl
theorem powerCapRestore x0 : Statement (.powerCapRestore x0) := rfl
theorem converterRowHot x0 x1 : Statement (.converterRowHot x0 x1) := rfl
theorem quenchExit x0 x1 : Statement (.quenchExit x0 x1) := rfl
theorem junctionHot x0 x1 x2 : Statement (.junctionHot x0 x1 x2) := rfl
theorem throttleStep x0 x1 x2 : Statement (.throttleStep x0 x1 x2) := rfl
theorem photonicHot x0 : Statement (.photonicHot x0) := rfl
theorem thermalTrip : Statement (.thermalTrip) := rfl
theorem coldBoot x0 : Statement (.coldBoot x0) := rfl
theorem pcieReset x0 x1 : Statement (.pcieReset x0 x1) := rfl
theorem hostLinkDown : Statement (.hostLinkDown) := rfl
theorem hostLinkUp : Statement (.hostLinkUp) := rfl
theorem hostMemRead x0 x1 x2 : Statement (.hostMemRead x0 x1 x2) := rfl
theorem hostMemWrite x0 x1 x2 x3 : Statement (.hostMemWrite x0 x1 x2 x3) := rfl
theorem cxlSurpriseRemoval x0 x1 : Statement (.cxlSurpriseRemoval x0 x1) := rfl
theorem atfinLockLost x0 : Statement (.atfinLockLost x0) := rfl
theorem atfinReplayRequest x0 : Statement (.atfinReplayRequest x0) := rfl
theorem atfinFlitAck x0 : Statement (.atfinFlitAck x0) := rfl
theorem atfinReplayLimit x0 : Statement (.atfinReplayLimit x0) := rfl
theorem atfinRetrainEnd x0 x1 x2 : Statement (.atfinRetrainEnd x0 x1 x2) := rfl
theorem hostcmdWarmReset x0 : Statement (.hostcmdWarmReset x0) := rfl
theorem hostcmdPostTransport x0 : Statement (.hostcmdPostTransport x0) := rfl
theorem hostcmdQuote : Statement (.hostcmdQuote) := rfl
theorem hostcmdFwCommit x0 : Statement (.hostcmdFwCommit x0) := rfl
theorem readStatus : Statement (.readStatus) := rfl
theorem warmReset x0 : Statement (.warmReset x0) := rfl
theorem postTransport x0 : Statement (.postTransport x0) := rfl
theorem setCap x0 : Statement (.setCap x0) := rfl
theorem readFeat : Statement (.readFeat) := rfl
theorem flashWindow x0 : Statement (.flashWindow x0) := rfl
theorem wttPost x0 x1 : Statement (.wttPost x0 x1) := rfl
theorem wttCancel x0 x1 : Statement (.wttCancel x0 x1) := rfl
theorem wttKill x0 x1 : Statement (.wttKill x0 x1) := rfl
theorem teamLaunch x0 : Statement (.teamLaunch x0) := rfl
theorem migPortSubmit x0 x1 x2 : Statement (.migPortSubmit x0 x1 x2) := rfl
theorem migPortPop x0 : Statement (.migPortPop x0) := rfl
theorem savePortSubmit x0 x1 x2 : Statement (.savePortSubmit x0 x1 x2) := rfl
theorem savePortPop x0 : Statement (.savePortPop x0) := rfl
theorem nqPop x0 : Statement (.nqPop x0) := rfl
theorem hdoor x0 : Statement (.hdoor x0) := rfl
theorem hrelease x0 : Statement (.hrelease x0) := rfl
theorem smsgDoorbell x0 : Statement (.smsgDoorbell x0) := rfl
theorem histClear x0 x1 : Statement (.histClear x0 x1) := rfl
theorem evWindowLoad x0 x1 x2 : Statement (.evWindowLoad x0 x1 x2) := rfl
theorem evWindowStore x0 x1 : Statement (.evWindowStore x0 x1) := rfl
theorem lsplitWrite x0 x1 : Statement (.lsplitWrite x0 x1) := rfl
theorem l2scrWrite x0 x1 : Statement (.l2scrWrite x0 x1) := rfl
theorem hsampleWrite x0 x1 : Statement (.hsampleWrite x0 x1) := rfl
theorem registerWrite x0 x1 : Statement (.registerWrite x0 x1) := rfl
theorem voltageLoopAdjust x0 x1 : Statement (.voltageLoopAdjust x0 x1) := rfl
theorem refreshComplete x0 x1 : Statement (.refreshComplete x0 x1) := rfl
theorem powerRemoval : Statement (.powerRemoval) := rfl
theorem inFieldTestEnd x0 x1 : Statement (.inFieldTestEnd x0 x1) := rfl
theorem dieToDiePathFailure x0 : Statement (.dieToDiePathFailure x0) := rfl
theorem atfinFlitArrival x0 x1 : Statement (.atfinFlitArrival x0 x1) := rfl
theorem homeAcknowledge : Statement (.homeAcknowledge) := rfl
theorem msgDelivery : Statement (.msgDelivery) := rfl
theorem skxDelivery : Statement (.skxDelivery) := rfl
theorem ill : Statement (.ill) := congrArg some (packS_m _ _ _ _ _)
theorem nop : Statement (.nop) := congrArg some (packS_m _ _ _ _ _)
theorem csrr x0 x1 : Statement (.csrr x0 x1) := congrArg some (packS_m _ _ _ _ _)
theorem csrw x0 x1 x2 : Statement (.csrw x0 x1 x2) := congrArg some (packS_m _ _ _ _ _)
theorem csrs x0 x1 x2 : Statement (.csrs x0 x1 x2) := congrArg some (packS_m _ _ _ _ _)
theorem csrc x0 x1 x2 : Statement (.csrc x0 x1 x2) := congrArg some (packS_m _ _ _ _ _)
theorem fence x0 : Statement (.fence x0) := congrArg some (packS_m _ _ _ _ _)
theorem rel x0 : Statement (.rel x0) := congrArg some (packS_m _ _ _ _ _)
theorem acq x0 : Statement (.acq x0) := congrArg some (packS_m _ _ _ _ _)
theorem chunke : Statement (.chunke) := congrArg some (packS_m _ _ _ _ _)
theorem svc x0 : Statement (.svc x0) := congrArg some (packS_m _ _ _ _ _)
theorem halt : Statement (.halt) := congrArg some (packS_m _ _ _ _ _)
theorem resume x0 x1 : Statement (.resume x0 x1) := congrArg some (packS_m _ _ _ _ _)
theorem tlbi x0 x1 : Statement (.tlbi x0 x1) := congrArg some (packS_m _ _ _ _ _)
theorem frply x0 : Statement (.frply x0) := congrArg some (packS_m _ _ _ _ _)
theorem l2flw x0 : Statement (.l2flw x0) := congrArg some (packS_m _ _ _ _ _)
theorem hflush x0 x1 x2 : Statement (.hflush x0 x1 x2) := congrArg some (packS_m _ _ _ _ _)
theorem add x0 x1 x2 : Statement (.add x0 x1 x2) := congrArg some (packR_m _ _ _ _ _ _)
theorem sub x0 x1 x2 : Statement (.sub x0 x1 x2) := congrArg some (packR_m _ _ _ _ _ _)
theorem and x0 x1 x2 : Statement (.and x0 x1 x2) := congrArg some (packR_m _ _ _ _ _ _)
theorem or x0 x1 x2 : Statement (.or x0 x1 x2) := congrArg some (packR_m _ _ _ _ _ _)
theorem xor x0 x1 x2 : Statement (.xor x0 x1 x2) := congrArg some (packR_m _ _ _ _ _ _)
theorem andn x0 x1 x2 : Statement (.andn x0 x1 x2) := congrArg some (packR_m _ _ _ _ _ _)
theorem orn x0 x1 x2 : Statement (.orn x0 x1 x2) := congrArg some (packR_m _ _ _ _ _ _)
theorem xnor x0 x1 x2 : Statement (.xnor x0 x1 x2) := congrArg some (packR_m _ _ _ _ _ _)
theorem sll x0 x1 x2 : Statement (.sll x0 x1 x2) := congrArg some (packR_m _ _ _ _ _ _)
theorem srl x0 x1 x2 : Statement (.srl x0 x1 x2) := congrArg some (packR_m _ _ _ _ _ _)
theorem sra x0 x1 x2 : Statement (.sra x0 x1 x2) := congrArg some (packR_m _ _ _ _ _ _)
theorem rol x0 x1 x2 : Statement (.rol x0 x1 x2) := congrArg some (packR_m _ _ _ _ _ _)
theorem ror x0 x1 x2 : Statement (.ror x0 x1 x2) := congrArg some (packR_m _ _ _ _ _ _)
theorem slt x0 x1 x2 : Statement (.slt x0 x1 x2) := congrArg some (packR_m _ _ _ _ _ _)
theorem sltu x0 x1 x2 : Statement (.sltu x0 x1 x2) := congrArg some (packR_m _ _ _ _ _ _)
theorem seq x0 x1 x2 : Statement (.seq x0 x1 x2) := congrArg some (packR_m _ _ _ _ _ _)
theorem min x0 x1 x2 : Statement (.min x0 x1 x2) := congrArg some (packR_m _ _ _ _ _ _)
theorem max x0 x1 x2 : Statement (.max x0 x1 x2) := congrArg some (packR_m _ _ _ _ _ _)
theorem minu x0 x1 x2 : Statement (.minu x0 x1 x2) := congrArg some (packR_m _ _ _ _ _ _)
theorem maxu x0 x1 x2 : Statement (.maxu x0 x1 x2) := congrArg some (packR_m _ _ _ _ _ _)
theorem mul x0 x1 x2 x3 : Statement (.mul x0 x1 x2 x3) := congrArg some (packR_m _ _ _ _ _ _)
theorem mulh x0 x1 x2 x3 : Statement (.mulh x0 x1 x2 x3) := congrArg some (packR_m _ _ _ _ _ _)
theorem mulhu x0 x1 x2 x3 : Statement (.mulhu x0 x1 x2 x3) := congrArg some (packR_m _ _ _ _ _ _)
theorem div x0 x1 x2 x3 : Statement (.div x0 x1 x2 x3) := congrArg some (packR_m _ _ _ _ _ _)
theorem divu x0 x1 x2 x3 : Statement (.divu x0 x1 x2 x3) := congrArg some (packR_m _ _ _ _ _ _)
theorem rem x0 x1 x2 x3 : Statement (.rem x0 x1 x2 x3) := congrArg some (packR_m _ _ _ _ _ _)
theorem remu x0 x1 x2 x3 : Statement (.remu x0 x1 x2 x3) := congrArg some (packR_m _ _ _ _ _ _)
theorem clz x0 x1 : Statement (.clz x0 x1) := congrArg some (packR_m _ _ _ _ _ _)
theorem ctz x0 x1 : Statement (.ctz x0 x1) := congrArg some (packR_m _ _ _ _ _ _)
theorem popc x0 x1 : Statement (.popc x0 x1) := congrArg some (packR_m _ _ _ _ _ _)
theorem brev x0 x1 : Statement (.brev x0 x1) := congrArg some (packR_m _ _ _ _ _ _)
theorem bswap x0 x1 : Statement (.bswap x0 x1) := congrArg some (packR_m _ _ _ _ _ _)
theorem sextb x0 x1 : Statement (.sextb x0 x1) := congrArg some (packR_m _ _ _ _ _ _)
theorem sexth x0 x1 : Statement (.sexth x0 x1) := congrArg some (packR_m _ _ _ _ _ _)
theorem sextw x0 x1 : Statement (.sextw x0 x1) := congrArg some (packR_m _ _ _ _ _ _)
theorem zextw x0 x1 : Statement (.zextw x0 x1) := congrArg some (packR_m _ _ _ _ _ _)
theorem addw x0 x1 x2 : Statement (.addw x0 x1 x2) := congrArg some (packR_m _ _ _ _ _ _)
theorem subw x0 x1 x2 : Statement (.subw x0 x1 x2) := congrArg some (packR_m _ _ _ _ _ _)
theorem adds x0 x1 x2 : Statement (.adds x0 x1 x2) := congrArg some (packR_m _ _ _ _ _ _)
theorem hadd x0 x1 x2 : Statement (.hadd x0 x1 x2) := congrArg some (packR_m _ _ _ _ _ _)
theorem addi x0 x1 x2 : Statement (.addi x0 x1 x2) := congrArg some (packI_m _ _ _ _)
theorem andi x0 x1 x2 : Statement (.andi x0 x1 x2) := congrArg some (packI_m _ _ _ _)
theorem ori x0 x1 x2 : Statement (.ori x0 x1 x2) := congrArg some (packI_m _ _ _ _)
theorem xori x0 x1 x2 : Statement (.xori x0 x1 x2) := congrArg some (packI_m _ _ _ _)
theorem slti x0 x1 x2 : Statement (.slti x0 x1 x2) := congrArg some (packI_m _ _ _ _)
theorem sltiu x0 x1 x2 : Statement (.sltiu x0 x1 x2) := congrArg some (packI_m _ _ _ _)
theorem lui x0 x1 : Statement (.lui x0 x1) := congrArg some (packI_m _ _ _ _)
theorem slli x0 x1 x2 : Statement (.slli x0 x1 x2) := congrArg some (packI_m _ _ _ _)
theorem srli x0 x1 x2 : Statement (.srli x0 x1 x2) := congrArg some (packI_m _ _ _ _)
theorem srai x0 x1 x2 : Statement (.srai x0 x1 x2) := congrArg some (packI_m _ _ _ _)
theorem rori x0 x1 x2 : Statement (.rori x0 x1 x2) := congrArg some (packI_m _ _ _ _)
theorem beq x0 x1 x2 : Statement (.beq x0 x1 x2) := congrArg some (packB_m _ _ _ _)
theorem bne x0 x1 x2 : Statement (.bne x0 x1 x2) := congrArg some (packB_m _ _ _ _)
theorem blt x0 x1 x2 : Statement (.blt x0 x1 x2) := congrArg some (packB_m _ _ _ _)
theorem bge x0 x1 x2 : Statement (.bge x0 x1 x2) := congrArg some (packB_m _ _ _ _)
theorem bltu x0 x1 x2 : Statement (.bltu x0 x1 x2) := congrArg some (packB_m _ _ _ _)
theorem bgeu x0 x1 x2 : Statement (.bgeu x0 x1 x2) := congrArg some (packB_m _ _ _ _)
theorem jal x0 : Statement (.jal x0) := congrArg some (packJ_m _ _)
theorem jalr x0 x1 x2 : Statement (.jalr x0 x1 x2) := congrArg some (packI_m _ _ _ _)
theorem lb x0 x1 x2 x3 : Statement (.lb x0 x1 x2 x3) := congrArg some (packM_m _ _ _ _ _)
theorem lh x0 x1 x2 x3 : Statement (.lh x0 x1 x2 x3) := congrArg some (packM_m _ _ _ _ _)
theorem lw x0 x1 x2 x3 : Statement (.lw x0 x1 x2 x3) := congrArg some (packM_m _ _ _ _ _)
theorem ld x0 x1 x2 x3 : Statement (.ld x0 x1 x2 x3) := congrArg some (packM_m _ _ _ _ _)
theorem lbu x0 x1 x2 x3 : Statement (.lbu x0 x1 x2 x3) := congrArg some (packM_m _ _ _ _ _)
theorem lhu x0 x1 x2 x3 : Statement (.lhu x0 x1 x2 x3) := congrArg some (packM_m _ _ _ _ _)
theorem lwu x0 x1 x2 x3 : Statement (.lwu x0 x1 x2 x3) := congrArg some (packM_m _ _ _ _ _)
theorem sb x0 x1 x2 x3 : Statement (.sb x0 x1 x2 x3) := congrArg some (packM_m _ _ _ _ _)
theorem sh x0 x1 x2 x3 : Statement (.sh x0 x1 x2 x3) := congrArg some (packM_m _ _ _ _ _)
theorem sw x0 x1 x2 x3 : Statement (.sw x0 x1 x2 x3) := congrArg some (packM_m _ _ _ _ _)
theorem sd x0 x1 x2 x3 : Statement (.sd x0 x1 x2 x3) := congrArg some (packM_m _ _ _ _ _)
theorem lds x0 x1 x2 x3 : Statement (.lds x0 x1 x2 x3) := congrArg some (packM_m _ _ _ _ _)
theorem ldse x0 x1 x2 : Statement (.ldse x0 x1 x2) := congrArg some (packR_m _ _ _ _ _ _)
theorem stf x0 x1 x2 : Statement (.stf x0 x1 x2) := congrArg some (packR_m _ _ _ _ _ _)
theorem feclr x0 x1 : Statement (.feclr x0 x1) := congrArg some (packR_m _ _ _ _ _ _)
theorem feset x0 x1 : Statement (.feset x0 x1) := congrArg some (packR_m _ _ _ _ _ _)
theorem feq x0 x1 x2 : Statement (.feq x0 x1 x2) := congrArg some (packR_m _ _ _ _ _ _)
theorem fadd x0 x1 x2 x3 : Statement (.fadd x0 x1 x2 x3) := congrArg some (packR_m _ _ _ _ _ _)
theorem fsub x0 x1 x2 x3 : Statement (.fsub x0 x1 x2 x3) := congrArg some (packR_m _ _ _ _ _ _)
theorem fmul x0 x1 x2 x3 : Statement (.fmul x0 x1 x2 x3) := congrArg some (packR_m _ _ _ _ _ _)
theorem fdiv x0 x1 x2 x3 : Statement (.fdiv x0 x1 x2 x3) := congrArg some (packR_m _ _ _ _ _ _)
theorem fsqrt x0 x1 x2 : Statement (.fsqrt x0 x1 x2) := congrArg some (packR_m _ _ _ _ _ _)
theorem fmin x0 x1 x2 x3 : Statement (.fmin x0 x1 x2 x3) := congrArg some (packR_m _ _ _ _ _ _)
theorem fmax x0 x1 x2 x3 : Statement (.fmax x0 x1 x2 x3) := congrArg some (packR_m _ _ _ _ _ _)
theorem fceq x0 x1 x2 x3 : Statement (.fceq x0 x1 x2 x3) := congrArg some (packR_m _ _ _ _ _ _)
theorem fclt x0 x1 x2 x3 : Statement (.fclt x0 x1 x2 x3) := congrArg some (packR_m _ _ _ _ _ _)
theorem fcle x0 x1 x2 x3 : Statement (.fcle x0 x1 x2 x3) := congrArg some (packR_m _ _ _ _ _ _)
theorem fmac x0 x1 x2 x3 : Statement (.fmac x0 x1 x2 x3) := congrArg some (packR_m _ _ _ _ _ _)
theorem fcvtdl x0 x1 x2 : Statement (.fcvtdl x0 x1 x2) := congrArg some (packR_m _ _ _ _ _ _)
theorem fcvtld x0 x1 x2 : Statement (.fcvtld x0 x1 x2) := congrArg some (packR_m _ _ _ _ _ _)
theorem fcvtsd x0 x1 x2 : Statement (.fcvtsd x0 x1 x2) := congrArg some (packR_m _ _ _ _ _ _)
theorem fcvtds x0 x1 x2 : Statement (.fcvtds x0 x1 x2) := congrArg some (packR_m _ _ _ _ _ _)
theorem fclass x0 x1 x2 : Statement (.fclass x0 x1 x2) := congrArg some (packR_m _ _ _ _ _ _)
theorem bext x0 x1 x2 x3 : Statement (.bext x0 x1 x2 x3) := congrArg some (packBF_m _ _ _ _ _ _ _)
theorem bexts x0 x1 x2 x3 : Statement (.bexts x0 x1 x2 x3) := congrArg some (packBF_m _ _ _ _ _ _ _)
theorem bins x0 x1 x2 x3 : Statement (.bins x0 x1 x2 x3) := congrArg some (packBF_m _ _ _ _ _ _ _)
theorem amoswap x0 x1 x2 x3 : Statement (.amoswap x0 x1 x2 x3) := congrArg some (packR_m _ _ _ _ _ _)
theorem amoadd x0 x1 x2 x3 : Statement (.amoadd x0 x1 x2 x3) := congrArg some (packR_m _ _ _ _ _ _)
theorem amoand x0 x1 x2 x3 : Statement (.amoand x0 x1 x2 x3) := congrArg some (packR_m _ _ _ _ _ _)
theorem amoor x0 x1 x2 x3 : Statement (.amoor x0 x1 x2 x3) := congrArg some (packR_m _ _ _ _ _ _)
theorem amoxor x0 x1 x2 x3 : Statement (.amoxor x0 x1 x2 x3) := congrArg some (packR_m _ _ _ _ _ _)
theorem amomin x0 x1 x2 x3 : Statement (.amomin x0 x1 x2 x3) := congrArg some (packR_m _ _ _ _ _ _)
theorem amomax x0 x1 x2 x3 : Statement (.amomax x0 x1 x2 x3) := congrArg some (packR_m _ _ _ _ _ _)
theorem amominu x0 x1 x2 x3 : Statement (.amominu x0 x1 x2 x3) := congrArg some (packR_m _ _ _ _ _ _)
theorem amomaxu x0 x1 x2 x3 : Statement (.amomaxu x0 x1 x2 x3) := congrArg some (packR_m _ _ _ _ _ _)
theorem amoswapI32 x0 x1 x2 x3 : Statement (.amoswapI32 x0 x1 x2 x3) := congrArg some (packR_m _ _ _ _ _ _)
theorem amoaddI32 x0 x1 x2 x3 : Statement (.amoaddI32 x0 x1 x2 x3) := congrArg some (packR_m _ _ _ _ _ _)
theorem amoandI32 x0 x1 x2 x3 : Statement (.amoandI32 x0 x1 x2 x3) := congrArg some (packR_m _ _ _ _ _ _)
theorem amoorI32 x0 x1 x2 x3 : Statement (.amoorI32 x0 x1 x2 x3) := congrArg some (packR_m _ _ _ _ _ _)
theorem amoxorI32 x0 x1 x2 x3 : Statement (.amoxorI32 x0 x1 x2 x3) := congrArg some (packR_m _ _ _ _ _ _)
theorem amominI32 x0 x1 x2 x3 : Statement (.amominI32 x0 x1 x2 x3) := congrArg some (packR_m _ _ _ _ _ _)
theorem amomaxI32 x0 x1 x2 x3 : Statement (.amomaxI32 x0 x1 x2 x3) := congrArg some (packR_m _ _ _ _ _ _)
theorem amominuI32 x0 x1 x2 x3 : Statement (.amominuI32 x0 x1 x2 x3) := congrArg some (packR_m _ _ _ _ _ _)
theorem amomaxuI32 x0 x1 x2 x3 : Statement (.amomaxuI32 x0 x1 x2 x3) := congrArg some (packR_m _ _ _ _ _ _)
theorem cas x0 x1 x2 x3 : Statement (.cas x0 x1 x2 x3) := congrArg some (packR_m _ _ _ _ _ _)
theorem casgt x0 x1 x2 x3 : Statement (.casgt x0 x1 x2 x3) := congrArg some (packR_m _ _ _ _ _ _)
theorem casver x0 x1 x2 x3 : Statement (.casver x0 x1 x2 x3) := congrArg some (packR_m _ _ _ _ _ _)
theorem castag x0 x1 x2 x3 : Statement (.castag x0 x1 x2 x3) := congrArg some (packR_m _ _ _ _ _ _)
theorem amofadd x0 x1 x2 x3 : Statement (.amofadd x0 x1 x2 x3) := congrArg some (packR_m _ _ _ _ _ _)
theorem redadd x0 x1 x2 x3 : Statement (.redadd x0 x1 x2 x3) := congrArg some (packR_m _ _ _ _ _ _)
theorem redmin x0 x1 x2 x3 : Statement (.redmin x0 x1 x2 x3) := congrArg some (packR_m _ _ _ _ _ _)
theorem redmax x0 x1 x2 x3 : Statement (.redmax x0 x1 x2 x3) := congrArg some (packR_m _ _ _ _ _ _)
theorem redfadd x0 x1 x2 x3 : Statement (.redfadd x0 x1 x2 x3) := congrArg some (packR_m _ _ _ _ _ _)
theorem redor x0 x1 x2 x3 : Statement (.redor x0 x1 x2 x3) := congrArg some (packR_m _ _ _ _ _ _)
theorem barArr x0 : Statement (.barArr x0) := congrArg some (packR_m _ _ _ _ _ _)
theorem barWait x0 : Statement (.barWait x0) := congrArg some (packR_m _ _ _ _ _ _)
theorem barArrw x0 : Statement (.barArrw x0) := congrArg some (packR_m _ _ _ _ _ _)
theorem barInit x0 x1 x2 : Statement (.barInit x0 x1 x2) := congrArg some (packR_m _ _ _ _ _ _)
theorem evwait x0 x1 : Statement (.evwait x0 x1) := congrArg some (packR_m _ _ _ _ _ _)
theorem evsig x0 x1 : Statement (.evsig x0 x1) := congrArg some (packR_m _ _ _ _ _ _)
theorem msg x0 x1 : Statement (.msg x0 x1) := congrArg some (packR_m _ _ _ _ _ _)
theorem cntadd x0 x1 : Statement (.cntadd x0 x1) := congrArg some (packR_m _ _ _ _ _ _)
theorem cntwait x0 x1 : Statement (.cntwait x0 x1) := congrArg some (packR_m _ _ _ _ _ _)
theorem tkpost x0 x1 x2 : Statement (.tkpost x0 x1 x2) := congrArg some (packR_m _ _ _ _ _ _)
theorem tkcancel x0 x1 : Statement (.tkcancel x0 x1) := congrArg some (packR_m _ _ _ _ _ _)
theorem tkexit : Statement (.tkexit) := congrArg some (packR_m _ _ _ _ _ _)
theorem tkyield x0 x1 : Statement (.tkyield x0 x1) := congrArg some (packR_m _ _ _ _ _ _)
theorem prehint x0 x1 : Statement (.prehint x0 x1) := congrArg some (packR_m _ _ _ _ _ _)
theorem gang x0 : Statement (.gang x0) := congrArg some (packR_m _ _ _ _ _ _)
theorem split : Statement (.split) := congrArg some (packR_m _ _ _ _ _ _)
theorem cropen x0 : Statement (.cropen x0) := congrArg some (packR_m _ _ _ _ _ _)
theorem crclose : Statement (.crclose) := congrArg some (packR_m _ _ _ _ _ _)
theorem tkstat x0 x1 : Statement (.tkstat x0 x1) := congrArg some (packR_m _ _ _ _ _ _)
theorem qsend x0 x1 x2 : Statement (.qsend x0 x1 x2) := congrArg some (packR_m _ _ _ _ _ _)
theorem qsendv x0 x1 x2 : Statement (.qsendv x0 x1 x2) := congrArg some (packR_m _ _ _ _ _ _)
theorem qpush x0 x1 : Statement (.qpush x0 x1) := congrArg some (packR_m _ _ _ _ _ _)
theorem qpop x0 x1 x2 : Statement (.qpop x0 x1 x2) := congrArg some (packR_m _ _ _ _ _ _)
theorem qpopv x0 x1 x2 : Statement (.qpopv x0 x1 x2) := congrArg some (packR_m _ _ _ _ _ _)
theorem qstat x0 x1 : Statement (.qstat x0 x1) := congrArg some (packR_m _ _ _ _ _ _)
theorem qflush x0 : Statement (.qflush x0) := congrArg some (packR_m _ _ _ _ _ _)
theorem lkrd x0 x1 x2 : Statement (.lkrd x0 x1 x2) := congrArg some (packR_m _ _ _ _ _ _)
theorem lkrdf x0 x1 x2 : Statement (.lkrdf x0 x1 x2) := congrArg some (packR_m _ _ _ _ _ _)
theorem lkwr x0 x1 : Statement (.lkwr x0 x1) := congrArg some (packR_m _ _ _ _ _ _)
theorem lkstat x0 : Statement (.lkstat x0) := congrArg some (packR_m _ _ _ _ _ _)
theorem tloc x0 x1 x2 : Statement (.tloc x0 x1 x2) := congrArg some (packR_m _ _ _ _ _ _)
theorem tfix x0 x1 : Statement (.tfix x0 x1) := congrArg some (packR_m _ _ _ _ _ _)
theorem tretry x0 x1 : Statement (.tretry x0 x1) := congrArg some (packR_m _ _ _ _ _ _)
theorem trrd x0 x1 x2 x3 : Statement (.trrd x0 x1 x2 x3) := congrArg some (packR_m _ _ _ _ _ _)
theorem wspsw x0 : Statement (.wspsw x0) := congrArg some (packR_m _ _ _ _ _ _)
theorem mbatch x0 : Statement (.mbatch x0) := congrArg some (packR_m _ _ _ _ _ _)
theorem mdrain x0 : Statement (.mdrain x0) := congrArg some (packR_m _ _ _ _ _ _)
theorem skcomb x0 x1 x2 : Statement (.skcomb x0 x1 x2) := congrArg some (packR_m _ _ _ _ _ _)
theorem ckacc x0 x1 x2 : Statement (.ckacc x0 x1 x2) := congrArg some (packR_m _ _ _ _ _ _)
theorem ckaccx x0 x1 x2 : Statement (.ckaccx x0 x1 x2) := congrArg some (packR_m _ _ _ _ _ _)
theorem ckaccf x0 x1 x2 : Statement (.ckaccf x0 x1 x2) := congrArg some (packR_m _ _ _ _ _ _)
theorem ckaccv x0 x1 x2 x3 : Statement (.ckaccv x0 x1 x2 x3) := congrArg some (packR_m _ _ _ _ _ _)
theorem ckchk x0 x1 x2 x3 : Statement (.ckchk x0 x1 x2 x3) := congrArg some (packR_m _ _ _ _ _ _)
theorem ckchkf x0 x1 x2 x3 : Statement (.ckchkf x0 x1 x2 x3) := congrArg some (packR_m _ _ _ _ _ _)
theorem ckclr x0 : Statement (.ckclr x0) := congrArg some (packR_m _ _ _ _ _ _)
theorem ckrd x0 x1 : Statement (.ckrd x0 x1) := congrArg some (packR_m _ _ _ _ _ _)
theorem fshl x0 x1 x2 x3 : Statement (.fshl x0 x1 x2 x3) := congrArg some (packFS_m _ _ _ _ _ _ _)
theorem fshr x0 x1 x2 x3 : Statement (.fshr x0 x1 x2 x3) := congrArg some (packFS_m _ _ _ _ _ _ _)
theorem bextv x0 x1 x2 x3 : Statement (.bextv x0 x1 x2 x3) := congrArg some (packFS_m _ _ _ _ _ _ _)
theorem binsv x0 x1 x2 x3 : Statement (.binsv x0 x1 x2 x3) := congrArg some (packFS_m _ _ _ _ _ _ _)
theorem vaddI32 x0 x1 x2 x3 x4 : Statement (.vaddI32 x0 x1 x2 x3 x4) := congrArg some (packV_m _ _ _ _ _ _ _)
theorem vsubI32 x0 x1 x2 x3 x4 : Statement (.vsubI32 x0 x1 x2 x3 x4) := congrArg some (packV_m _ _ _ _ _ _ _)
theorem vmulI32 x0 x1 x2 x3 x4 : Statement (.vmulI32 x0 x1 x2 x3 x4) := congrArg some (packV_m _ _ _ _ _ _ _)
theorem vmacI32 x0 x1 x2 x3 x4 : Statement (.vmacI32 x0 x1 x2 x3 x4) := congrArg some (packV_m _ _ _ _ _ _ _)
theorem vminI32 x0 x1 x2 x3 x4 : Statement (.vminI32 x0 x1 x2 x3 x4) := congrArg some (packV_m _ _ _ _ _ _ _)
theorem vmaxI32 x0 x1 x2 x3 x4 : Statement (.vmaxI32 x0 x1 x2 x3 x4) := congrArg some (packV_m _ _ _ _ _ _ _)
theorem vminuI32 x0 x1 x2 x3 x4 : Statement (.vminuI32 x0 x1 x2 x3 x4) := congrArg some (packV_m _ _ _ _ _ _ _)
theorem vmaxuI32 x0 x1 x2 x3 x4 : Statement (.vmaxuI32 x0 x1 x2 x3 x4) := congrArg some (packV_m _ _ _ _ _ _ _)
theorem vabsI32 x0 x1 x2 x3 : Statement (.vabsI32 x0 x1 x2 x3) := congrArg some (packV_m _ _ _ _ _ _ _)
theorem vnegI32 x0 x1 x2 x3 : Statement (.vnegI32 x0 x1 x2 x3) := congrArg some (packV_m _ _ _ _ _ _ _)
theorem vshlI32 x0 x1 x2 x3 x4 : Statement (.vshlI32 x0 x1 x2 x3 x4) := congrArg some (packV_m _ _ _ _ _ _ _)
theorem vshrI32 x0 x1 x2 x3 x4 : Statement (.vshrI32 x0 x1 x2 x3 x4) := congrArg some (packV_m _ _ _ _ _ _ _)
theorem vsraI32 x0 x1 x2 x3 x4 : Statement (.vsraI32 x0 x1 x2 x3 x4) := congrArg some (packV_m _ _ _ _ _ _ _)
theorem vceqI32 x0 x1 x2 x3 x4 : Statement (.vceqI32 x0 x1 x2 x3 x4) := congrArg some (packV_m _ _ _ _ _ _ _)
theorem vcltI32 x0 x1 x2 x3 x4 : Statement (.vcltI32 x0 x1 x2 x3 x4) := congrArg some (packV_m _ _ _ _ _ _ _)
theorem vcltuI32 x0 x1 x2 x3 x4 : Statement (.vcltuI32 x0 x1 x2 x3 x4) := congrArg some (packV_m _ _ _ _ _ _ _)
theorem vaddI16 x0 x1 x2 x3 x4 : Statement (.vaddI16 x0 x1 x2 x3 x4) := congrArg some (packV_m _ _ _ _ _ _ _)
theorem vsubI16 x0 x1 x2 x3 x4 : Statement (.vsubI16 x0 x1 x2 x3 x4) := congrArg some (packV_m _ _ _ _ _ _ _)
theorem vmulI16 x0 x1 x2 x3 x4 : Statement (.vmulI16 x0 x1 x2 x3 x4) := congrArg some (packV_m _ _ _ _ _ _ _)
theorem vmacI16 x0 x1 x2 x3 x4 : Statement (.vmacI16 x0 x1 x2 x3 x4) := congrArg some (packV_m _ _ _ _ _ _ _)
theorem vminI16 x0 x1 x2 x3 x4 : Statement (.vminI16 x0 x1 x2 x3 x4) := congrArg some (packV_m _ _ _ _ _ _ _)
theorem vmaxI16 x0 x1 x2 x3 x4 : Statement (.vmaxI16 x0 x1 x2 x3 x4) := congrArg some (packV_m _ _ _ _ _ _ _)
theorem vminuI16 x0 x1 x2 x3 x4 : Statement (.vminuI16 x0 x1 x2 x3 x4) := congrArg some (packV_m _ _ _ _ _ _ _)
theorem vmaxuI16 x0 x1 x2 x3 x4 : Statement (.vmaxuI16 x0 x1 x2 x3 x4) := congrArg some (packV_m _ _ _ _ _ _ _)
theorem vabsI16 x0 x1 x2 x3 : Statement (.vabsI16 x0 x1 x2 x3) := congrArg some (packV_m _ _ _ _ _ _ _)
theorem vnegI16 x0 x1 x2 x3 : Statement (.vnegI16 x0 x1 x2 x3) := congrArg some (packV_m _ _ _ _ _ _ _)
theorem vshlI16 x0 x1 x2 x3 x4 : Statement (.vshlI16 x0 x1 x2 x3 x4) := congrArg some (packV_m _ _ _ _ _ _ _)
theorem vshrI16 x0 x1 x2 x3 x4 : Statement (.vshrI16 x0 x1 x2 x3 x4) := congrArg some (packV_m _ _ _ _ _ _ _)
theorem vsraI16 x0 x1 x2 x3 x4 : Statement (.vsraI16 x0 x1 x2 x3 x4) := congrArg some (packV_m _ _ _ _ _ _ _)
theorem vceqI16 x0 x1 x2 x3 x4 : Statement (.vceqI16 x0 x1 x2 x3 x4) := congrArg some (packV_m _ _ _ _ _ _ _)
theorem vcltI16 x0 x1 x2 x3 x4 : Statement (.vcltI16 x0 x1 x2 x3 x4) := congrArg some (packV_m _ _ _ _ _ _ _)
theorem vcltuI16 x0 x1 x2 x3 x4 : Statement (.vcltuI16 x0 x1 x2 x3 x4) := congrArg some (packV_m _ _ _ _ _ _ _)
theorem vaddI8 x0 x1 x2 x3 x4 : Statement (.vaddI8 x0 x1 x2 x3 x4) := congrArg some (packV_m _ _ _ _ _ _ _)
theorem vsubI8 x0 x1 x2 x3 x4 : Statement (.vsubI8 x0 x1 x2 x3 x4) := congrArg some (packV_m _ _ _ _ _ _ _)
theorem vmulI8 x0 x1 x2 x3 x4 : Statement (.vmulI8 x0 x1 x2 x3 x4) := congrArg some (packV_m _ _ _ _ _ _ _)
theorem vmacI8 x0 x1 x2 x3 x4 : Statement (.vmacI8 x0 x1 x2 x3 x4) := congrArg some (packV_m _ _ _ _ _ _ _)
theorem vminI8 x0 x1 x2 x3 x4 : Statement (.vminI8 x0 x1 x2 x3 x4) := congrArg some (packV_m _ _ _ _ _ _ _)
theorem vmaxI8 x0 x1 x2 x3 x4 : Statement (.vmaxI8 x0 x1 x2 x3 x4) := congrArg some (packV_m _ _ _ _ _ _ _)
theorem vminuI8 x0 x1 x2 x3 x4 : Statement (.vminuI8 x0 x1 x2 x3 x4) := congrArg some (packV_m _ _ _ _ _ _ _)
theorem vmaxuI8 x0 x1 x2 x3 x4 : Statement (.vmaxuI8 x0 x1 x2 x3 x4) := congrArg some (packV_m _ _ _ _ _ _ _)
theorem vabsI8 x0 x1 x2 x3 : Statement (.vabsI8 x0 x1 x2 x3) := congrArg some (packV_m _ _ _ _ _ _ _)
theorem vnegI8 x0 x1 x2 x3 : Statement (.vnegI8 x0 x1 x2 x3) := congrArg some (packV_m _ _ _ _ _ _ _)
theorem vshlI8 x0 x1 x2 x3 x4 : Statement (.vshlI8 x0 x1 x2 x3 x4) := congrArg some (packV_m _ _ _ _ _ _ _)
theorem vshrI8 x0 x1 x2 x3 x4 : Statement (.vshrI8 x0 x1 x2 x3 x4) := congrArg some (packV_m _ _ _ _ _ _ _)
theorem vsraI8 x0 x1 x2 x3 x4 : Statement (.vsraI8 x0 x1 x2 x3 x4) := congrArg some (packV_m _ _ _ _ _ _ _)
theorem vceqI8 x0 x1 x2 x3 x4 : Statement (.vceqI8 x0 x1 x2 x3 x4) := congrArg some (packV_m _ _ _ _ _ _ _)
theorem vcltI8 x0 x1 x2 x3 x4 : Statement (.vcltI8 x0 x1 x2 x3 x4) := congrArg some (packV_m _ _ _ _ _ _ _)
theorem vcltuI8 x0 x1 x2 x3 x4 : Statement (.vcltuI8 x0 x1 x2 x3 x4) := congrArg some (packV_m _ _ _ _ _ _ _)
theorem vaddF32 x0 x1 x2 x3 x4 : Statement (.vaddF32 x0 x1 x2 x3 x4) := congrArg some (packV_m _ _ _ _ _ _ _)
theorem vsubF32 x0 x1 x2 x3 x4 : Statement (.vsubF32 x0 x1 x2 x3 x4) := congrArg some (packV_m _ _ _ _ _ _ _)
theorem vmulF32 x0 x1 x2 x3 x4 : Statement (.vmulF32 x0 x1 x2 x3 x4) := congrArg some (packV_m _ _ _ _ _ _ _)
theorem vfmaF32 x0 x1 x2 x3 x4 : Statement (.vfmaF32 x0 x1 x2 x3 x4) := congrArg some (packV_m _ _ _ _ _ _ _)
theorem vminF32 x0 x1 x2 x3 x4 : Statement (.vminF32 x0 x1 x2 x3 x4) := congrArg some (packV_m _ _ _ _ _ _ _)
theorem vmaxF32 x0 x1 x2 x3 x4 : Statement (.vmaxF32 x0 x1 x2 x3 x4) := congrArg some (packV_m _ _ _ _ _ _ _)
theorem vfmsF32 x0 x1 x2 x3 x4 : Statement (.vfmsF32 x0 x1 x2 x3 x4) := congrArg some (packV_m _ _ _ _ _ _ _)
theorem vdivF32 x0 x1 x2 x3 x4 : Statement (.vdivF32 x0 x1 x2 x3 x4) := congrArg some (packV_m _ _ _ _ _ _ _)
theorem vabsF32 x0 x1 x2 x3 : Statement (.vabsF32 x0 x1 x2 x3) := congrArg some (packV_m _ _ _ _ _ _ _)
theorem vnegF32 x0 x1 x2 x3 : Statement (.vnegF32 x0 x1 x2 x3) := congrArg some (packV_m _ _ _ _ _ _ _)
theorem vsqrtF32 x0 x1 x2 x3 : Statement (.vsqrtF32 x0 x1 x2 x3) := congrArg some (packV_m _ _ _ _ _ _ _)
theorem vrcpeF32 x0 x1 x2 x3 : Statement (.vrcpeF32 x0 x1 x2 x3) := congrArg some (packV_m _ _ _ _ _ _ _)
theorem vrsqeF32 x0 x1 x2 x3 : Statement (.vrsqeF32 x0 x1 x2 x3) := congrArg some (packV_m _ _ _ _ _ _ _)
theorem vceqF32 x0 x1 x2 x3 x4 : Statement (.vceqF32 x0 x1 x2 x3 x4) := congrArg some (packV_m _ _ _ _ _ _ _)
theorem vcltF32 x0 x1 x2 x3 x4 : Statement (.vcltF32 x0 x1 x2 x3 x4) := congrArg some (packV_m _ _ _ _ _ _ _)
theorem vcleF32 x0 x1 x2 x3 x4 : Statement (.vcleF32 x0 x1 x2 x3 x4) := congrArg some (packV_m _ _ _ _ _ _ _)
theorem vaddBf16 x0 x1 x2 x3 x4 : Statement (.vaddBf16 x0 x1 x2 x3 x4) := congrArg some (packV_m _ _ _ _ _ _ _)
theorem vsubBf16 x0 x1 x2 x3 x4 : Statement (.vsubBf16 x0 x1 x2 x3 x4) := congrArg some (packV_m _ _ _ _ _ _ _)
theorem vmulBf16 x0 x1 x2 x3 x4 : Statement (.vmulBf16 x0 x1 x2 x3 x4) := congrArg some (packV_m _ _ _ _ _ _ _)
theorem vfmaBf16 x0 x1 x2 x3 x4 : Statement (.vfmaBf16 x0 x1 x2 x3 x4) := congrArg some (packV_m _ _ _ _ _ _ _)
theorem vminBf16 x0 x1 x2 x3 x4 : Statement (.vminBf16 x0 x1 x2 x3 x4) := congrArg some (packV_m _ _ _ _ _ _ _)
theorem vmaxBf16 x0 x1 x2 x3 x4 : Statement (.vmaxBf16 x0 x1 x2 x3 x4) := congrArg some (packV_m _ _ _ _ _ _ _)
theorem vfmsBf16 x0 x1 x2 x3 x4 : Statement (.vfmsBf16 x0 x1 x2 x3 x4) := congrArg some (packV_m _ _ _ _ _ _ _)
theorem vabsBf16 x0 x1 x2 x3 : Statement (.vabsBf16 x0 x1 x2 x3) := congrArg some (packV_m _ _ _ _ _ _ _)
theorem vnegBf16 x0 x1 x2 x3 : Statement (.vnegBf16 x0 x1 x2 x3) := congrArg some (packV_m _ _ _ _ _ _ _)
theorem vrcpeBf16 x0 x1 x2 x3 : Statement (.vrcpeBf16 x0 x1 x2 x3) := congrArg some (packV_m _ _ _ _ _ _ _)
theorem vrsqeBf16 x0 x1 x2 x3 : Statement (.vrsqeBf16 x0 x1 x2 x3) := congrArg some (packV_m _ _ _ _ _ _ _)
theorem vceqBf16 x0 x1 x2 x3 x4 : Statement (.vceqBf16 x0 x1 x2 x3 x4) := congrArg some (packV_m _ _ _ _ _ _ _)
theorem vcltBf16 x0 x1 x2 x3 x4 : Statement (.vcltBf16 x0 x1 x2 x3 x4) := congrArg some (packV_m _ _ _ _ _ _ _)
theorem vcleBf16 x0 x1 x2 x3 x4 : Statement (.vcleBf16 x0 x1 x2 x3 x4) := congrArg some (packV_m _ _ _ _ _ _ _)
theorem vaddF16 x0 x1 x2 x3 x4 : Statement (.vaddF16 x0 x1 x2 x3 x4) := congrArg some (packV_m _ _ _ _ _ _ _)
theorem vsubF16 x0 x1 x2 x3 x4 : Statement (.vsubF16 x0 x1 x2 x3 x4) := congrArg some (packV_m _ _ _ _ _ _ _)
theorem vmulF16 x0 x1 x2 x3 x4 : Statement (.vmulF16 x0 x1 x2 x3 x4) := congrArg some (packV_m _ _ _ _ _ _ _)
theorem vfmaF16 x0 x1 x2 x3 x4 : Statement (.vfmaF16 x0 x1 x2 x3 x4) := congrArg some (packV_m _ _ _ _ _ _ _)
theorem vminF16 x0 x1 x2 x3 x4 : Statement (.vminF16 x0 x1 x2 x3 x4) := congrArg some (packV_m _ _ _ _ _ _ _)
theorem vmaxF16 x0 x1 x2 x3 x4 : Statement (.vmaxF16 x0 x1 x2 x3 x4) := congrArg some (packV_m _ _ _ _ _ _ _)
theorem vfmsF16 x0 x1 x2 x3 x4 : Statement (.vfmsF16 x0 x1 x2 x3 x4) := congrArg some (packV_m _ _ _ _ _ _ _)
theorem vabsF16 x0 x1 x2 x3 : Statement (.vabsF16 x0 x1 x2 x3) := congrArg some (packV_m _ _ _ _ _ _ _)
theorem vnegF16 x0 x1 x2 x3 : Statement (.vnegF16 x0 x1 x2 x3) := congrArg some (packV_m _ _ _ _ _ _ _)
theorem vrcpeF16 x0 x1 x2 x3 : Statement (.vrcpeF16 x0 x1 x2 x3) := congrArg some (packV_m _ _ _ _ _ _ _)
theorem vrsqeF16 x0 x1 x2 x3 : Statement (.vrsqeF16 x0 x1 x2 x3) := congrArg some (packV_m _ _ _ _ _ _ _)
theorem vceqF16 x0 x1 x2 x3 x4 : Statement (.vceqF16 x0 x1 x2 x3 x4) := congrArg some (packV_m _ _ _ _ _ _ _)
theorem vcltF16 x0 x1 x2 x3 x4 : Statement (.vcltF16 x0 x1 x2 x3 x4) := congrArg some (packV_m _ _ _ _ _ _ _)
theorem vcleF16 x0 x1 x2 x3 x4 : Statement (.vcleF16 x0 x1 x2 x3 x4) := congrArg some (packV_m _ _ _ _ _ _ _)
theorem vand x0 x1 x2 x3 : Statement (.vand x0 x1 x2 x3) := congrArg some (packV_m _ _ _ _ _ _ _)
theorem vor x0 x1 x2 x3 : Statement (.vor x0 x1 x2 x3) := congrArg some (packV_m _ _ _ _ _ _ _)
theorem vxor x0 x1 x2 x3 : Statement (.vxor x0 x1 x2 x3) := congrArg some (packV_m _ _ _ _ _ _ _)
theorem vandn x0 x1 x2 x3 : Statement (.vandn x0 x1 x2 x3) := congrArg some (packV_m _ _ _ _ _ _ _)
theorem vsel x0 x1 x2 x3 : Statement (.vsel x0 x1 x2 x3) := congrArg some (packV_m _ _ _ _ _ _ _)
theorem vpand x0 x1 x2 : Statement (.vpand x0 x1 x2) := congrArg some (packV_m _ _ _ _ _ _ _)
theorem vpor x0 x1 x2 : Statement (.vpor x0 x1 x2) := congrArg some (packV_m _ _ _ _ _ _ _)
theorem vpxor x0 x1 x2 : Statement (.vpxor x0 x1 x2) := congrArg some (packV_m _ _ _ _ _ _ _)
theorem vpnot x0 x1 : Statement (.vpnot x0 x1) := congrArg some (packV_m _ _ _ _ _ _ _)
theorem vpcnt x0 x1 x2 x3 x4 : Statement (.vpcnt x0 x1 x2 x3 x4) := congrArg some (packV_m _ _ _ _ _ _ _)
theorem vpfirst x0 x1 x2 x3 x4 : Statement (.vpfirst x0 x1 x2 x3 x4) := congrArg some (packV_m _ _ _ _ _ _ _)
theorem vperm x0 x1 x2 x3 x4 : Statement (.vperm x0 x1 x2 x3 x4) := congrArg some (packV_m _ _ _ _ _ _ _)
theorem vbcast x0 x1 x2 x3 x4 : Statement (.vbcast x0 x1 x2 x3 x4) := congrArg some (packV_m _ _ _ _ _ _ _)
theorem vext x0 x1 x2 x3 x4 : Statement (.vext x0 x1 x2 x3 x4) := congrArg some (packV_m _ _ _ _ _ _ _)
theorem vins x0 x1 x2 x3 x4 : Statement (.vins x0 x1 x2 x3 x4) := congrArg some (packV_m _ _ _ _ _ _ _)
theorem vslup x0 x1 x2 x3 x4 : Statement (.vslup x0 x1 x2 x3 x4) := congrArg some (packV_m _ _ _ _ _ _ _)
theorem vsldn x0 x1 x2 x3 x4 : Statement (.vsldn x0 x1 x2 x3 x4) := congrArg some (packV_m _ _ _ _ _ _ _)
theorem viota x0 x1 x2 x3 : Statement (.viota x0 x1 x2 x3) := congrArg some (packV_m _ _ _ _ _ _ _)
theorem vcompr x0 x1 x2 x3 x4 : Statement (.vcompr x0 x1 x2 x3 x4) := congrArg some (packV_m _ _ _ _ _ _ _)
theorem vredi x0 x1 x2 x3 x4 : Statement (.vredi x0 x1 x2 x3 x4) := congrArg some (packV_m _ _ _ _ _ _ _)
theorem vredf x0 x1 x2 x3 x4 : Statement (.vredf x0 x1 x2 x3 x4) := congrArg some (packV_m _ _ _ _ _ _ _)
theorem vredmx x0 x1 x2 x3 x4 : Statement (.vredmx x0 x1 x2 x3 x4) := congrArg some (packV_m _ _ _ _ _ _ _)
theorem vredmn x0 x1 x2 x3 x4 : Statement (.vredmn x0 x1 x2 x3 x4) := congrArg some (packV_m _ _ _ _ _ _ _)
theorem vcvt x0 x1 x2 x3 x4 x5 : Statement (.vcvt x0 x1 x2 x3 x4 x5) := congrArg some (packV_m _ _ _ _ _ _ _)
theorem vqgrp x0 x1 x2 x3 x4 : Statement (.vqgrp x0 x1 x2 x3 x4) := congrArg some (packV_m _ _ _ _ _ _ _)
theorem vdqgrp x0 x1 x2 x3 x4 : Statement (.vdqgrp x0 x1 x2 x3 x4) := congrArg some (packV_m _ _ _ _ _ _ _)
theorem vqmx x0 x1 x2 x3 x4 : Statement (.vqmx x0 x1 x2 x3 x4) := congrArg some (packV_m _ _ _ _ _ _ _)
theorem vdqmx x0 x1 x2 x3 x4 : Statement (.vdqmx x0 x1 x2 x3 x4) := congrArg some (packV_m _ _ _ _ _ _ _)
theorem vscacc x0 x1 x2 x3 x4 : Statement (.vscacc x0 x1 x2 x3 x4) := congrArg some (packV_m _ _ _ _ _ _ _)
theorem vbfpn x0 x1 x2 x3 x4 : Statement (.vbfpn x0 x1 x2 x3 x4) := congrArg some (packV_m _ _ _ _ _ _ _)
theorem vbfpx x0 x1 x2 x3 : Statement (.vbfpx x0 x1 x2 x3) := congrArg some (packV_m _ _ _ _ _ _ _)
theorem vzpc x0 x1 x2 x3 x4 : Statement (.vzpc x0 x1 x2 x3 x4) := congrArg some (packV_m _ _ _ _ _ _ _)
theorem vld x0 x1 x2 x3 : Statement (.vld x0 x1 x2 x3) := congrArg some (packM_m _ _ _ _ _)
theorem vst x0 x1 x2 x3 : Statement (.vst x0 x1 x2 x3) := congrArg some (packM_m _ _ _ _ _)
theorem vlds x0 x1 x2 x3 x4 : Statement (.vlds x0 x1 x2 x3 x4) := congrArg some (packV_m _ _ _ _ _ _ _)
theorem vsts x0 x1 x2 x3 x4 : Statement (.vsts x0 x1 x2 x3 x4) := congrArg some (packV_m _ _ _ _ _ _ _)
theorem vgth x0 x1 x2 x3 x4 : Statement (.vgth x0 x1 x2 x3 x4) := congrArg some (packV_m _ _ _ _ _ _ _)
theorem vsct x0 x1 x2 x3 x4 : Statement (.vsct x0 x1 x2 x3 x4) := congrArg some (packV_m _ _ _ _ _ _ _)
theorem vldb x0 x1 x2 x3 : Statement (.vldb x0 x1 x2 x3) := congrArg some (packV_m _ _ _ _ _ _ _)
theorem vmvsv x0 x1 x2 x3 : Statement (.vmvsv x0 x1 x2 x3) := congrArg some (packV_m _ _ _ _ _ _ _)
theorem vmvvs x0 x1 x2 x3 x4 : Statement (.vmvvs x0 x1 x2 x3 x4) := congrArg some (packV_m _ _ _ _ _ _ _)
theorem vpld x0 x1 x2 x3 : Statement (.vpld x0 x1 x2 x3) := congrArg some (packV_m _ _ _ _ _ _ _)
theorem vpst x0 x1 x2 x3 : Statement (.vpst x0 x1 x2 x3) := congrArg some (packV_m _ _ _ _ _ _ _)

end Sys2Proof.Laws.Major
end

