-- ==== Sys2Proof/Laws/Scratch.lean ====
section
/-! SUPPORT. Loads and stores of a core's own scratchpad: where they go, what they return, and what they leave. -/

namespace Sys2Proof.Machine

/-! ### Runs of numbers -/

theorem tab_append {α : Type} (f : Nat → α) (a m k : Nat) : tab f a m ++ tab f (a + m) k = tab f a (m + k) := by
  induction m generalizing a with
  | zero => simp [tab]
  | succ m ih =>
    rw [Nat.add_right_comm m 1 k]
    simp only [tab, List.cons_append]
    rw [← ih, Nat.add_right_comm a 1 m]
    rfl

theorem mem_tab {α : Type} (f : Nat → α) (a n : Nat) (x : α) (h : x ∈ tab f a n) : ∃ k < n, x = f (a + k) := by
  induction n generalizing a with
  | zero => cases h
  | succ n ih =>
    simp only [tab, List.mem_cons] at h
    rcases h with h | h
    · exact ⟨0, by omega, h⟩
    · obtain ⟨k, hk, e⟩ := ih _ h
      exact ⟨k + 1, by omega, by rw [e]; congr 1; omega⟩

theorem map_tab {α β : Type} (g : α → β) (f : Nat → α) (a n : Nat) : (tab f a n).map g = tab (fun x => g (f x)) a n := by
  induction n generalizing a with
  | zero => rfl
  | succ n ih => simp only [tab, List.map_cons, ih]

theorem tab_length {α : Type} (f : Nat → α) (a n : Nat) : (tab f a n).length = n := by
  induction n generalizing a with
  | zero => rfl
  | succ n ih => simp [tab, ih]

/-! ### Where an access goes -/

theorem spSize_le (c : Core) : spSize c ≤ 0xC0000 := Nat.sub_le _ _

theorem localAddr_scratch (s : State) (a va off : Nat) (ha : a < 512) (hv : va = lwb + off) (h : off < spSize (s.coreAt a)) :
    s.localAddr a va = some (sramBase a + off) := by
  have h2 := spSize_le (s.coreAt a)
  have h3 : off % 0x400000 = off := Nat.mod_eq_of_lt (by omega)
  have h4 : isSup a = false := by simp [isSup, ha]
  have h5 : sramAssigned (s.coreAt a) off = true := by
    unfold sramAssigned
    rw [decide_eq_true h, Bool.true_or]
  have e : va % 2 ^ 40 = off := by
    rw [hv]
    unfold lwb
    omega
  unfold State.localAddr
  rw [e]
  unfold State.localOff
  dsimp only
  rw [if_pos (show off < 0x400000 by omega), h4]
  simp only [Bool.false_eq_true, if_false, h3, h5, if_true]

/-- The target of an access to the own scratchpad. -/
def scratchTarget (a off n : Nat) : Target :=
  { cells := tab (fun x => (x, sramAttr)) (sramBase a + off) n, view := [], pages := [], kinds := if n = 0 then [] else [16], fills := [], blocks := [] }

theorem xlateRun_scratch (s : State) (die : Nat) (own : Option Nat) (a : Nat) (ctx : Ctx) (kind : Kind) (ha : a < 512) :
    ∀ fuel n va off, n ≤ fuel → va = lwb + off → off + n ≤ spSize (s.coreAt a) →
      s.xlateRun die own a ctx kind .local fuel va n = .ok (scratchTarget a off n) := by
  intro fuel
  induction fuel with
  | zero =>
    intro n va off h _ _
    have : n = 0 := by omega
    subst this
    rfl
  | succ fuel ih =>
    intro n va off h hv h2
    unfold State.xlateRun
    by_cases hn : n = 0
    · subst hn
      rfl
    · rw [if_neg hn]
      dsimp only
      have hm : 1 ≤ min n (4096 - va % 4096) := by
        have := Nat.mod_lt va (show 0 < 4096 by decide)
        omega
      have hm2 : min n (4096 - va % 4096) ≤ n := Nat.min_le_left _ _
      generalize min n (4096 - va % 4096) = m at hm hm2
      have e : s.xlateByte die own a ctx kind .local va =
          .ok { addr := sramBase a + off, attr := sramAttr, kind := 16, leaf := none, block := none, view := none } := by
        unfold State.xlateByte
        dsimp only
        rw [localAddr_scratch s a va off ha hv (by omega)]
      have e2 : va + m = lwb + (off + m) := by rw [hv, Nat.add_assoc]
      rw [e, ih (n - m) (va + m) (off + m) (by omega) e2 (by omega)]
      simp only [scratchTarget, Target.before]
      rw [← Nat.add_assoc, tab_append, show m + (n - m) = n by omega, if_neg hn]
      have hk : ninsert (if n - m = 0 then [] else [16]) 16 = [16] := by split <;> rfl
      rw [hk]

theorem uniform_scratch (a off n : Nat) : (scratchTarget a off n).uniform .local = true := by
  unfold Target.uniform scratchTarget
  dsimp only
  split <;> rfl

/-- An access to the own scratchpad goes there, and changes nothing by being located. -/
theorem locate_scratch (s : State) (kind : Kind) (va : Word) (n off : Nat) (h : s.ownScratch va n off) :
    s.locate s.cur kind va n = .ok (s, scratchTarget s.cur off n) := by
  obtain ⟨h1, h2, h3, h4⟩ := h
  have h5 := spSize_le s.core
  have h6 : lwb ≤ va.toNat := by rw [h3]; exact Nat.le_add_right _ _
  have h8 : ¬ 2 ^ 64 < va.toNat + n := by
    rw [h3]
    unfold lwb
    omega
  have hr : ∀ ctx views x, lwb ≤ x → rowOf ctx views x = .local := by
    intro ctx views x hx
    unfold rowOf
    rw [if_pos hx]
  unfold State.locate State.withViews
  dsimp only
  rw [decide_eq_true h6, Bool.true_or, if_pos rfl]
  dsimp only
  unfold State.xlate
  dsimp only
  rw [if_neg h8, hr _ _ _ h6, hr _ _ _ (Nat.le_trans h6 (Nat.le_add_right _ _)), if_neg (fun x => x rfl),
    xlateRun_scratch s _ _ s.cur _ _ h1 n n va.toNat off (Nat.le_refl n) h3 h4]
  dsimp only
  rw [if_pos (uniform_scratch _ _ _)]
  rfl

/-- The target of such an access. -/
def accTarget (a : Nat) (x : Word × Nat) : Target := scratchTarget a (x.1.toNat % 2 ^ 40) x.2

theorem ownScratch_off {s : State} {va : Word} {n off : Nat} (h : s.ownScratch va n off) : va.toNat % 2 ^ 40 = off := by
  obtain ⟨-, h2, h3, h4⟩ := h
  have h5 := spSize_le s.core
  rw [h3]
  unfold lwb
  omega

theorem locateAll_scratch (s : State) (kind : Kind) (accs : List (Word × Nat)) (h : ∀ x ∈ accs, ∃ off, s.ownScratch x.1 x.2 off) :
    s.locateAll s.cur kind accs = .ok (s, accs.map (accTarget s.cur)) := by
  induction accs with
  | nil => rfl
  | cons x t ih =>
    obtain ⟨va, n⟩ := x
    obtain ⟨off, ho⟩ := h (va, n) List.mem_cons_self
    have e : accTarget s.cur (va, n) = scratchTarget s.cur off n := by
      unfold accTarget
      rw [ownScratch_off ho]
    unfold State.locateAll
    rw [locate_scratch s kind va n off ho]
    dsimp only
    rw [ih (fun x hx => h x (List.mem_cons_of_mem _ hx)), List.map_cons, e]

theorem accTarget_cells {a : Nat} {x : Word × Nat} {y : Nat × LineAttr} (h : y ∈ (accTarget a x).cells) : y.2 = sramAttr ∧ 2 ^ 56 ≤ y.1 := by
  obtain ⟨k, -, e⟩ := mem_tab _ _ _ _ h
  subst e
  refine ⟨rfl, ?_⟩
  dsimp only
  unfold sramBase
  omega

/-! ### What such an access records -/

/-- What holds of the line and the attributes of every cell holds of every line. -/
theorem linesOf_all (P : Nat × LineAttr → Prop) (l : List (Nat × LineAttr)) (h : ∀ y ∈ l, P (lineOf y.1, y.2)) : ∀ y ∈ linesOf l, P y := by
  have key : ∀ (l : List (Nat × LineAttr)) (t : Table LineAttr), (∀ y ∈ t, P y) → (∀ y ∈ l, P (lineOf y.1, y.2)) →
      ∀ y ∈ l.foldl (fun t x => tset t (lineOf x.1) x.2) t, P y := by
    intro l
    induction l with
    | nil => exact fun t ht _ => ht
    | cons x l ih =>
      intro t ht hl
      apply ih _ _ (fun y hy => hl y (List.mem_cons_of_mem _ hy))
      intro y hy
      have : ∀ (t : Table LineAttr) (k : Nat) (v : LineAttr), ∀ y ∈ tset t k v, y ∈ t ∨ y = (k, v) := by
        intro t k v
        induction t with
        | nil =>
          intro y hy
          simp only [tset, List.mem_singleton] at hy
          exact Or.inr hy
        | cons z t ih =>
          obtain ⟨j, u⟩ := z
          intro y hy
          simp only [tset] at hy
          split at hy
          · rcases List.mem_cons.mp hy with h | h
            · right; exact h
            · left; exact h
          · split at hy
            · rcases List.mem_cons.mp hy with h | h
              · right; exact h
              · left; exact List.mem_cons_of_mem _ h
            · rcases List.mem_cons.mp hy with h | h
              · left; rw [h]; exact List.mem_cons_self
              · rcases ih y h with h | h
                · left; exact List.mem_cons_of_mem _ h
                · right; exact h
      rcases this _ _ _ y hy with h | h
      · exact ht y h
      · rw [h]
        exact hl x List.mem_cons_self
  exact key l [] (fun y hy => by cases hy) h

theorem linesOf_sram (l : List (Nat × LineAttr)) (h : ∀ y ∈ l, y.2 = sramAttr) : ∀ y ∈ linesOf l, y.2 = sramAttr :=
  linesOf_all (fun y => y.2 = sramAttr) l h

/-- Every line of an access of the own scratchpad is SRAM of the own core. -/
theorem scratch_lines (s : State) (x : Word × Nat) (h : ∃ off, s.ownScratch x.1 x.2 off) :
    ∀ y ∈ linesOf (accTarget s.cur x).cells, y.2 = sramAttr ∧ (isSram (y.1 * 128) && sramCore (y.1 * 128) / 128 != dieOf s.cur) = false := by
  refine linesOf_all _ _ (fun y hy => ⟨(accTarget_cells hy).1, ?_⟩)
  obtain ⟨off, ho⟩ := h
  obtain ⟨i, hi, e⟩ := mem_tab _ _ _ _ hy
  rw [ownScratch_off ho] at e
  have h2 := spSize_le s.core
  have h3 := ho.2.2.2
  have h4 := ho.1
  have e2 : sramCore (lineOf y.1 * 128) = s.cur := by
    rw [e]
    unfold sramCore lineOf sramBase
    dsimp only
    omega
  have e3 : dieOf s.cur = s.cur / 128 := by
    unfold dieOf
    rw [if_pos h4]
  dsimp only
  rw [e2, e3, bne_self_eq_false, Bool.and_false]

/-- A change of the acting core's open chunk that leaves its bytes. -/
theorem State.mapChunk_kept (s : State) (f : Chunk → Chunk) (h : ∀ k, (f k).bytes = k.bytes) (h2 : ∀ k, (f k).lines = k.lines)
    (h3 : ∀ k, (f k).whole = k.whole) (c : Core) (hs : c.sam = false) :
    ∃ d, (s.setCore s.cur c).mapCore s.cur (fun c => c.mapChunk f) = s.setCore s.cur d ∧ c.kept d ∧ d.sam = false ∧
      d.linesWith = c.linesWith := by
  refine ⟨c.mapChunk f, State.me_setCore s c _, Core.mapChunk_kept c f h h3, ?_, ?_⟩
  · unfold Core.mapChunk
    split <;> exact hs
  · funext l
    unfold Core.mapChunk
    split
    · rename_i k e
      unfold Core.linesWith
      simp only [e, h2, hs]
    · rfl

theorem foldl_idle {α β : Type} (g : β → α → β) (l : List α) (b : β) (h : ∀ y ∈ l, ∀ t, g t y = t) : l.foldl g b = b := by
  induction l generalizing b with
  | nil => rfl
  | cons x l ih => rw [List.foldl_cons, h x List.mem_cons_self, ih _ (fun y hy => h y (List.mem_cons_of_mem _ hy))]

/-- With no commit waiting for its acknowledgements nothing has to complete before an access. -/
theorem touched_none {s : State} (h : s.commits = []) (die : Nat) (own : Option Nat) (l : List Nat) : s.touched die own l = [] := by
  unfold State.touched
  rw [h]
  rfl

theorem touch_none {s : State} (h : s.commits = []) (die : Nat) (own : Option Nat) (l : List Nat) : s.touch die own l = s := by
  unfold State.touch
  rw [touched_none h]

theorem touchHeld_none {s : State} (h : s.commits = []) (die : Nat) (own : Option Nat) (l : List Nat) : s.touchHeld die own l = false := by
  unfold State.touchHeld
  rw [touch_none h, touched_none h]
  rfl

/-- A read of the own scratchpad enters the chunk's read signature and does nothing else, while no commit waits. -/
theorem recordRead_scratch (s : State) (c : Core) (x : Word × Nat) (ha : c.ahead = none) (hs : c.sam = false) (hm : s.commits = [])
    (ho : ∃ off, s.ownScratch x.1 x.2 off) :
    ∃ d, (s.setCore s.cur c).recordRead s.cur (accTarget s.cur x) = s.setCore s.cur d ∧ c.kept d ∧ d.sam = false ∧
      d.linesWith = c.linesWith := by
  unfold State.recordRead
  rw [State.coreAt_setCore_self, ha]
  simp only [Option.isSome_none, Bool.false_eq_true, if_false]
  have hv : (accTarget s.cur x).cached = linesOf (accTarget s.cur x).cells := rfl
  rw [hv, touch_none (s := s.setCore s.cur c) hm, foldl_idle _ _ _ (fun y hy t => by
    obtain ⟨h1, h2⟩ := scratch_lines s x ho y hy
    rw [h1, h2]
    rfl)]
  exact State.mapChunk_kept s (fun k => { k with
    reads := List.foldl (fun r x => ninsert r x.1) k.reads (linesOf (accTarget s.cur x).cells),
    pages := List.foldl ninsert k.pages (accTarget s.cur x).pages }) (fun _ => rfl) (fun _ => rfl) (fun _ => rfl) c hs

/-! ### What a load returns -/

/-- The cells of a clean access are read as the core sees them. -/
theorem loadCells_clean (s : State) (l : List (Nat × LineAttr)) (h : ∀ y ∈ l, s.ownPoison s.cur y.1 y.2.cache = false) :
    s.loadCells s.cur l = (l.map (fun y => s.ownByte s.cur y.1 y.2.cache), false) := by
  have key : ∀ (l : List (Nat × LineAttr)) (u : List (Nat × Nat × Cacheability)),
      (∀ y ∈ l, s.ownPoison s.cur y.1 y.2.cache = false) → (∀ z ∈ u, s.ownPoison s.cur z.2.1 z.2.2 = false) →
      ∀ z ∈ l.foldl (fun (u : List (Nat × Nat × Cacheability)) x =>
        if u.any (fun y => y.1 == poisonUnit x.1) then u else (poisonUnit x.1, x.1, x.2.cache) :: u) u, s.ownPoison s.cur z.2.1 z.2.2 = false := by
    intro l
    induction l with
    | nil => exact fun u _ hu => hu
    | cons x l ih =>
      intro u hl hu
      apply ih _ (fun y hy => hl y (List.mem_cons_of_mem _ hy))
      dsimp only
      split
      · exact hu
      · intro z hz
        rcases List.mem_cons.mp hz with e | e
        · rw [e]
          exact hl x List.mem_cons_self
        · exact hu z e
  have hk := key l [] h (fun z hz => by cases hz)
  unfold State.loadCells
  dsimp only
  rw [List.filter_eq_nil_iff.mpr (fun z hz => by rw [hk z hz]; exact Bool.false_ne_true)]
  rfl

/-- Loads of scratchpad cells agree in two states in which the core sees the same bytes and the same poison. -/
theorem loadCells_congr (s t : State) (l : List (Nat × LineAttr)) (hl : ∀ y ∈ l, y.2 = sramAttr)
    (hb : ∀ y, t.ownByte s.cur y .sram = s.ownByte s.cur y .sram) (hp : ∀ y, t.ownPoison s.cur y .sram = s.ownPoison s.cur y .sram) :
    t.loadCells s.cur l = s.loadCells s.cur l := by
  have key : ∀ (l : List (Nat × LineAttr)) (u : List (Nat × Nat × Cacheability)), (∀ y ∈ l, y.2 = sramAttr) → (∀ z ∈ u, z.2.2 = .sram) →
      ∀ z ∈ l.foldl (fun (u : List (Nat × Nat × Cacheability)) x =>
        if u.any (fun y => y.1 == poisonUnit x.1) then u else (poisonUnit x.1, x.1, x.2.cache) :: u) u, z.2.2 = .sram := by
    intro l
    induction l with
    | nil => exact fun u _ hu => hu
    | cons x l ih =>
      intro u hl hu
      apply ih _ (fun y hy => hl y (List.mem_cons_of_mem _ hy))
      dsimp only
      split
      · exact hu
      · intro z hz
        rcases List.mem_cons.mp hz with e | e
        · rw [e, hl x List.mem_cons_self]
          rfl
        · exact hu z e
  have hk := key l [] hl (fun z hz => by cases hz)
  unfold State.loadCells
  have hf := List.filter_congr (p := fun (u : Nat × Nat × Cacheability) => t.ownPoison s.cur u.2.1 u.2.2)
    (q := fun u => s.ownPoison s.cur u.2.1 u.2.2)
    (fun z hz => by rw [hk z hz]; exact hp z.2.1)
  dsimp only
  rw [hf]
  congr 1
  apply List.map_congr_left
  intro y hy
  rw [hl y hy]
  exact if_congr Iff.rfl rfl (hb y.1)

/-! ### Loads -/

theorem sram_offChip (t : State) (x : Nat) (h : 2 ^ 56 ≤ x) (h2 : x < 2 ^ 60) : t.gone x = false := by
  have h3 : cxlTop = 0x200000000000 := rfl
  have h4 : cxlBase = 0x100000000000 := rfl
  have h5 : within x cxlBase (cxlTop - cxlBase) = false := by
    unfold within
    rw [h3, h4]
    simp only [Bool.and_eq_false_iff, decide_eq_false_iff_not]
    omega
  unfold State.gone
  rw [h5, decide_eq_false (show ¬ 2 ^ 60 ≤ x by omega)]
  rfl

/-- A core in no single-access mode opens no chunk for an access. -/
theorem inChunk_idle (s : State) (a : Nat) (h : (s.coreAt a).sam = false) : s.inChunk a = s := by
  unfold State.inChunk
  rw [if_neg (by rw [h]; exact Bool.false_ne_true)]

/-- The same bytes and the same poison stand under a core that keeps what it has not committed. -/
theorem loadCells_kept (s : State) (d : Core) (h : s.core.kept d) (l : List (Nat × LineAttr)) (hl : ∀ y ∈ l, y.2 = sramAttr) :
    (s.setCore s.cur d).loadCells s.cur l = s.loadCells s.cur l := by
  refine loadCells_congr s (s.setCore s.cur d) l hl (fun y => ?_) (fun y => ?_)
  · exact ownByte_mapCore s s.cur (fun _ => d) (by rw [h.1]; rfl) (by rw [h.1]; rfl) h.2.1 y .sram
  · unfold State.ownPoison
    rw [State.coreAt_setCore_self]
    dsimp only
    rw [h.2.2]
    rfl

/-- The accesses of a load of the own scratchpad, one after another. -/
theorem readEach_scratch (s : State) (accs : List (Word × Nat)) (hm : s.commits = []) (ho : ∀ x ∈ accs, ∃ off, s.ownScratch x.1 x.2 off) :
    ∀ c : Core, s.core.kept c → c.ahead = none → c.sam = false →
      ∃ d, s.core.kept d ∧ d.sam = false ∧ (s.setCore s.cur c).readEach s.cur (accs.map (accTarget s.cur)) =
        (s.setCore s.cur d, accs.map (fun x => s.loadCells s.cur (accTarget s.cur x).cells)) := by
  induction accs with
  | nil => exact fun c hk _ hs => ⟨c, hk, hs, rfl⟩
  | cons x t ih =>
    intro c hk ha hs
    obtain ⟨d, e1, e2, e3, -⟩ := recordRead_scratch s c x ha hs hm (ho x List.mem_cons_self)
    have hk2 := Core.kept_trans hk e2
    obtain ⟨e, f1, f2, f3⟩ := ih (fun y hy => ho y (List.mem_cons_of_mem _ hy)) d hk2 (by rw [e2.1]; exact ha) e3
    have g1 : (s.setCore s.cur c).readOne s.cur (accTarget s.cur x) =
        (s.setCore s.cur d, s.loadCells s.cur (accTarget s.cur x).cells) := by
      unfold State.readOne
      rw [inChunk_idle _ _ (by rw [State.coreAt_setCore_self]; exact hs), e1]
      dsimp only
      rw [samGrant_idle _ _ (by rw [State.coreAt_setCore_self]; exact e3)]
      exact congrArg (Prod.mk _) (loadCells_kept s d hk2 _ (fun y hy => (accTarget_cells hy).1))
    refine ⟨e, f1, f2, ?_⟩
    rw [List.map_cons, State.readEach, g1, f3]
    rfl

/-- Loads of the own scratchpad return what the core sees there, and leave it as it was but for the chunk's read signature. -/
theorem loads_scratch_any (s : State) (c : Core) (accs : List (Word × Nat)) (k : State → List (List Byte × Bool) → Res)
    (hk : s.core.kept c) (hs : c.sam = false) (ha : s.core.ahead = none)
    (hcm : s.commits = []) (ho : ∀ x ∈ accs, ∃ off, s.ownScratch x.1 x.2 off) (hl : (c.linesWith []).length ≤ 64) :
    ∃ d, s.core.kept d ∧ d.sam = false ∧ (s.setCore s.cur c).loads accs k =
      k (s.setCore s.cur d) (accs.map (fun x => s.loadCells s.cur (accTarget s.cur x).cells)) := by
  have hc : ∀ x off n, s.ownScratch x n off → (s.setCore s.cur c).ownScratch x n off := by
    intro x off n h
    have e : spSize (s.setCore s.cur c).core = spSize s.core := by
      rw [State.core_setCore, hk.1]
      rfl
    exact ⟨h.1, h.2.1, h.2.2.1, by rw [e]; exact h.2.2.2⟩
  have hloc : (s.setCore s.cur c).locateAll s.cur .load accs = .ok (s.setCore s.cur c, accs.map (accTarget s.cur)) :=
    locateAll_scratch (s.setCore s.cur c) .load accs (fun x hx => by
    obtain ⟨off, h⟩ := ho x hx
    exact ⟨off, hc _ _ _ h⟩)
  have hcell : ∀ x ∈ accs, ∀ y ∈ (accTarget s.cur x).cells, y.2 = sramAttr ∧ 2 ^ 56 ≤ y.1 ∧ y.1 < 2 ^ 60 := by
    intro x hx y hy
    obtain ⟨off, h⟩ := ho x hx
    obtain ⟨i, hi, e⟩ := mem_tab _ _ _ _ hy
    rw [ownScratch_off h] at e
    have h2 := spSize_le s.core
    have h3 := h.2.2.2
    have h4 := h.1
    subst e
    refine ⟨rfl, ?_, ?_⟩
    · dsimp only
      unfold sramBase
      omega
    · dsimp only
      unfold sramBase
      omega
  have hm : ∀ x ∈ accs, (accTarget s.cur x).mmio = false := by
    intro x hx
    unfold Target.mmio
    rw [List.any_eq_false]
    intro y hy
    rw [(hcell x hx y hy).1]
    decide
  have hg : ∀ x ∈ accs, (s.setCore s.cur c).expanderGone (accTarget s.cur x).cells = false := by
    intro x hx
    unfold State.expanderGone
    rw [List.any_eq_false]
    intro y hy
    obtain ⟨-, h1, h2⟩ := hcell x hx y hy
    rw [sram_offChip (s.setCore s.cur c) y.1 h1 h2]
    decide
  have hz : ∀ (p : (Word × Nat) × Target → Bool), (∀ x ∈ accs, p (x, accTarget s.cur x) = false) →
      (accs.zip (accs.map (accTarget s.cur))).find? p = none := by
    intro p hp
    rw [List.find?_eq_none]
    intro y hy
    rw [List.zip_map_right] at hy
    obtain ⟨z, h1, h2⟩ := List.mem_map.mp hy
    have h3 : z.1 = z.2 := by
      have : ∀ (l : List (Word × Nat)), ∀ z ∈ l.zip l, z.1 = z.2 := by
        intro l
        induction l with
        | nil => intro z hz; cases hz
        | cons x l ih =>
          intro z hz
          rcases List.mem_cons.mp hz with e | e
          · rw [e]
          · exact ih z e
      exact this _ z h1
    have h4 : z.1 ∈ accs := (List.of_mem_zip h1).1
    subst h2
    rw [Prod.map_apply, id, ← h3, hp z.1 h4]
    exact Bool.false_ne_true
  have hca : c.ahead = none := by rw [hk.1]; exact ha
  have hf : (s.setCore s.cur c).forAccess s.cur (accs.map (accTarget s.cur)) [] = some (s.setCore s.cur c) := by
    unfold State.forAccess
    rw [State.coreAt_setCore_self]
    dsimp only
    rw [hca]
    have hv : c.viewConflict (accs.map (accTarget s.cur)) = false := by
      unfold Core.viewConflict
      rw [List.any_eq_false]
      intro y hy
      obtain ⟨x, -, e⟩ := List.mem_map.mp hy
      rw [← e]
      exact Bool.false_ne_true
    simp only [hv, hs, Bool.false_and, Option.isSome_none, Bool.false_eq_true, if_false, Bool.false_or, decide_eq_true_eq]
    rw [if_neg (by omega)]
  obtain ⟨d, e4, e3, e1⟩ := readEach_scratch s accs hcm ho c hk hca hs
  refine ⟨d, e4, e3, ?_⟩
  unfold State.loads State.loadsBy
  have hcur : (s.setCore s.cur c).cur = s.cur := rfl
  dsimp only
  rw [hcur, hloc]
  dsimp only
  rw [hz (fun x => x.2.mmio) hm]
  dsimp only
  rw [hz (fun x => (s.setCore s.cur c).expanderGone x.2.cells) hg]
  have hheld : ((accs.map (accTarget s.cur)).any ((s.setCore s.cur c).accessHeld (dieOf s.cur) (some s.cur))) = false := by
    rw [List.any_eq_false]
    intro y hy
    obtain ⟨x, hx, e⟩ := List.mem_map.mp hy
    subst e
    have hv : (accTarget s.cur x).cached = linesOf (accTarget s.cur x).cells := rfl
    unfold State.accessHeld
    rw [touchHeld_none (s := s.setCore s.cur c) hcm, hv, Bool.or_false, Bool.not_eq_true, List.any_eq_false]
    intro z hz
    rw [(scratch_lines s x (ho x hx) z hz).1]
    exact Bool.false_ne_true
  rw [hheld, hf]
  simp only [Bool.false_eq_true, if_false, e1]

/-- Clean loads of the own scratchpad return its bytes. -/
theorem loads_clean (s : State) (accs : List (Word × Nat)) (ho : ∀ x ∈ accs, ∃ off, s.ownScratch x.1 x.2 off ∧ s.cleanScratch off x.2) :
    accs.map (fun x => s.loadCells s.cur (accTarget s.cur x).cells) =
      accs.map (fun x => (tab (fun y => s.ownByte s.cur y .sram) (sramBase s.cur + x.1.toNat % 2 ^ 40) x.2, false)) := by
  apply List.map_congr_left
  intro x hx
  obtain ⟨off, h, hp⟩ := ho x hx
  rw [loadCells_clean s (accTarget s.cur x).cells (fun y hy => by
    obtain ⟨i, hi, e⟩ := mem_tab _ _ _ _ hy
    rw [ownScratch_off h] at e
    subst e
    exact hp i hi)]
  congr 1
  show (tab (fun x => (x, sramAttr)) (sramBase s.cur + x.1.toNat % 2 ^ 40) x.2).map _ = _
  rw [map_tab]
  rfl

/-- Where the own part of an instruction of the open chunk begins, the lines that the chunk has written are the same. -/
theorem State.begin_member (s : State) (p : Plan) (h : s.core.sam = false) (hr : s.reissuing = none) (hp : p.cls = .member) :
    ∃ c, s.begin p = s.setCore s.cur c ∧ s.core.kept c ∧ c.sam = false ∧ c.linesWith = s.core.linesWith ∧ c.chunk.isSome = true := by
  have e1 : s.core.openChunk.sam = false ∧ s.core.openChunk.linesWith = s.core.linesWith ∧ s.core.openChunk.chunk.isSome = true := by
    unfold Core.openChunk
    split
    · rename_i k e
      exact ⟨h, rfl, by rw [e]; rfl⟩
    · rename_i e
      refine ⟨h, ?_, rfl⟩
      funext l
      unfold Core.linesWith
      simp only [e, h]
      rfl
  have e2 : s.core.enterChunk = s.core.openChunk.mapChunk (fun k => { k with instrs := k.instrs + 1, pages := s.core.fetched.foldl ninsert k.pages }) := by
    unfold Core.enterChunk
    dsimp only
    rw [if_neg]
    unfold Core.mapChunk
    split <;> exact fun e => by rw [e1.1] at e; exact Bool.false_ne_true e
  have e3 : s.begin p = s.setCore s.cur s.core.enterChunk := by
    unfold State.begin
    rw [hr]
    dsimp only
    rw [hp]
    rfl
  refine ⟨_, e3, Core.enterChunk_kept _, ?_, ?_, ?_⟩
  · rw [e2]
    unfold Core.mapChunk
    split <;> exact e1.1
  · rw [e2, ← e1.2.1]
    funext l
    unfold Core.mapChunk
    split
    · rename_i k e
      unfold Core.linesWith
      simp only [e, e1.1]
    · rfl
  · rw [e2]
    unfold Core.mapChunk
    split
    · rfl
    · exact e1.2.2

/-- An instruction whose own part loads from the own scratchpad and then changes registers by what it got, completes with that. -/
theorem load_completes_any {s : State} {i : Instr} {p : Plan} {body : State → Res} {accs : List (Word × Nat)}
    {f : List (List Byte × Bool) → Core → Core} (h : s.ready p = true) (hc : p.cls = .member) (he : exec i s = issue p body s)
    (hz : s.atEase) (ho : ∀ x ∈ accs, ∃ off, s.ownScratch x.1 x.2 off)
    (hb : ∀ c, s.core.kept c → body (s.setCore s.cur c) = (s.setCore s.cur c).loads accs (fun t r => .done (t.me (f r))))
    (hf : ∀ r, Core.RegsOnly (f r)) (hs : ∀ r, Core.Steady (fun c => (f r c).regs)) :
    Completes s i (f (accs.map (fun x => s.loadCells s.cur (accTarget s.cur x).cells)) s.core) := by
  have ha := State.ready_ahead h
  obtain ⟨c, e1, e2, e3, e4, -⟩ := State.begin_member s p (State.ready_gang h).2.1 (State.ready_held h).2.1 hc
  obtain ⟨d, d1, d2, d3⟩ := loads_scratch_any s c accs (fun t r => .done (t.me (f r))) e2 e3 ha hz.1 ho (by rw [e4]; exact hz.2)
  have hp := Core.regsOnly_plainly (hf (accs.map (fun x => s.loadCells s.cur (accTarget s.cur x).cells))) d
  obtain ⟨t, t1, t2, t3, t4⟩ :=
    State.finish_quiet h _ (Core.plainly_trans (Core.plainly_of_kept d1) hp.1) (hp.2.trans d2) (nextPc s.core.regs.pc)
  refine ⟨t, ?_, ?_, t3, t4⟩
  · rw [he, issue_ready body h, e1, hb c e2, d3, ← t1]
    rw [State.me_setCore]
    rfl
  · rw [t2]
    exact congrArg (fun r : Regs => { r with pc := nextPc s.core.regs.pc }) (hs _ _ _ d1)

/-- The same of clean bytes. -/
theorem load_completes {s : State} {i : Instr} {p : Plan} {body : State → Res} {accs : List (Word × Nat)}
    {f : List (List Byte × Bool) → Core → Core} (h : s.ready p = true) (hc : p.cls = .member) (he : exec i s = issue p body s)
    (hz : s.atEase) (ho : ∀ x ∈ accs, ∃ off, s.ownScratch x.1 x.2 off ∧ s.cleanScratch off x.2)
    (hb : ∀ c, s.core.kept c → body (s.setCore s.cur c) = (s.setCore s.cur c).loads accs (fun t r => .done (t.me (f r))))
    (hf : ∀ r, Core.RegsOnly (f r)) (hs : ∀ r, Core.Steady (fun c => (f r c).regs)) :
    Completes s i (f (accs.map (fun x => (tab (fun y => s.ownByte s.cur y .sram) (sramBase s.cur + x.1.toNat % 2 ^ 40) x.2, false))) s.core) := by
  rw [← loads_clean s accs ho]
  exact load_completes_any h hc he hz (fun x hx => by
    obtain ⟨off, g, -⟩ := ho x hx
    exact ⟨off, g⟩) hb hf hs

/-! ### Stores -/

theorem tfind_tset {α : Type} (t : Table α) (k j : Nat) (x : α) : tfind (tset t k x) j = if k = j then some x else tfind t j := by
  induction t with
  | nil => simp [tset, tfind]
  | cons z t ih =>
    obtain ⟨i, y⟩ := z
    simp only [tset]
    split
    · simp [tfind]
    · split
      · rename_i h
        subst h
        by_cases e : k = j <;> simp [tfind, e]
      · rename_i h1 h2
        simp only [tfind, ih]
        by_cases e : i = j
        · subst e
          simp [h2]
        · simp [e]

/-- The last byte that a list of writes gives an address, if any. -/
def lastWrite (l : List (Nat × Byte)) (a : Nat) : Option Byte := (l.reverse.find? (fun x => x.1 == a)).map Prod.snd

theorem lastWrite_append (l m : List (Nat × Byte)) (a : Nat) : lastWrite (l ++ m) a = (lastWrite m a).orElse (fun _ => lastWrite l a) := by
  unfold lastWrite
  rw [List.reverse_append, List.find?_append]
  cases m.reverse.find? (fun x => x.1 == a) <;> rfl

theorem tfind_writes (l : List (Nat × Byte)) (t : Table Byte) (a : Nat) :
    tfind (l.foldl (fun t x => tset t x.1 x.2) t) a = (lastWrite l a).orElse (fun _ => tfind t a) := by
  induction l generalizing t with
  | nil => rfl
  | cons x l ih =>
    rw [List.foldl_cons, ih, tfind_tset]
    have : x :: l = [x] ++ l := rfl
    rw [this, lastWrite_append]
    cases lastWrite l a with
    | some b => rfl
    | none =>
      simp only [Option.orElse_none]
      unfold lastWrite
      by_cases e : x.1 = a <;> simp [e]

/-- What a store of the own scratchpad does to a core whose chunk is open and that has nothing pending. -/
theorem recordWrite_scratch (s : State) (c : Core) (va : Word) (off : Nat) (bytes : List Byte) (hv : s.leave = false) (ha : c.ahead = none)
    (hs : c.sam = false) (hq : c.scoreboard = []) (hb : c.storeBuf = []) (ho : c.chunk.isSome = true) :
    ∃ d, (s.setCore s.cur c).recordWrite s.cur va (scratchTarget s.cur off bytes.length) bytes = s.setCore s.cur d ∧
      d = { c with chunk := d.chunk } ∧ d.chunk.isSome = true ∧
      ∀ a n, d.pendingByte a n = (lastWrite ((tab id (sramBase s.cur + off) bytes.length).zip bytes) a).orElse (fun _ => c.pendingByte a n) := by
  obtain ⟨k, hk⟩ := Option.isSome_iff_exists.mp ho
  have e1 : ((scratchTarget s.cur off bytes.length).cells.map Prod.fst) = tab id (sramBase s.cur + off) bytes.length := by
    unfold scratchTarget
    dsimp only
    rw [map_tab]
    rfl
  have e3 : (s.setCore s.cur c).buffers s.cur = false := by
    unfold State.buffers State.leaves
    rw [State.coreAt_setCore_self, State.setCore_leave, hv, hq]
    rfl
  unfold State.recordWrite
  rw [State.coreAt_setCore_self, ha, e3]
  simp only [Option.isSome_none, Bool.false_eq_true, if_false]
  rw [e1]
  have e2 : ∀ f, (s.setCore s.cur c).mapCore s.cur f = s.setCore s.cur (f c) := State.me_setCore s c
  rw [e2]
  refine ⟨_, rfl, ?_, ?_, ?_⟩
  · simp only [Core.mapChunk, hk, hs, Bool.false_eq_true, if_false]
    rw [← hs, ha]
  · simp only [Core.mapChunk, hk, Option.isSome_some]
  · intro a n
    simp only [Core.mapChunk, hk, Core.pendingByte, Core.bufferedBefore, hb, Chunk.take]
    cases n <;> simp only [List.filter_nil, List.reverse_nil, List.findSome?_nil, Option.orElse_none, Option.bind_some, tfind_writes] <;>
      cases lastWrite _ a <;> rfl

/-- The writes of several stores, in order. -/
def State.scratchWrites (s : State) (accs : List (Word × List Byte)) : List (Nat × Byte) :=
  accs.flatMap (fun x => (tab id (sramBase s.cur + x.1.toNat % 2 ^ 40) x.2.length).zip x.2)

theorem writes_scratch (s : State) (hv : s.leave = false) (accs : List (Word × List Byte)) :
    ∀ c : Core, c.ahead = none → c.sam = false → c.scoreboard = [] → c.storeBuf = [] → c.chunk.isSome = true →
      ∃ d, (accs.zip ((accs.map (fun x => (x.1, x.2.length))).map (accTarget s.cur))).foldl
          (fun t x => t.writeOne s.cur x.1.1 x.2 x.1.2) (s.setCore s.cur c) = s.setCore s.cur d ∧
        d = { c with chunk := d.chunk } ∧ d.chunk.isSome = true ∧
        ∀ a n, d.pendingByte a n = (lastWrite (s.scratchWrites accs) a).orElse (fun _ => c.pendingByte a n) := by
  induction accs with
  | nil => exact fun c _ _ _ _ ho => ⟨c, rfl, rfl, ho, fun a n => rfl⟩
  | cons x t ih =>
    intro c ha hs hq hb ho
    obtain ⟨d, e1, e2, e3, e4⟩ := recordWrite_scratch s c x.1 (x.1.toNat % 2 ^ 40) x.2 hv ha hs hq hb ho
    have hd : d.sam = false := by rw [e2]; exact hs
    obtain ⟨e, f1, f2, f3, f4⟩ := ih d (by rw [e2]; exact ha) hd (by rw [e2]; exact hq) (by rw [e2]; exact hb) e3
    have g : (s.setCore s.cur c).writeOne s.cur x.1 (accTarget s.cur (x.1, x.2.length)) x.2 = s.setCore s.cur d := by
      unfold State.writeOne
      rw [inChunk_idle _ _ (by rw [State.coreAt_setCore_self]; exact hs)]
      have e5 : accTarget s.cur (x.1, x.2.length) = scratchTarget s.cur (x.1.toNat % 2 ^ 40) x.2.length := rfl
      rw [e5, e1, samGrant_idle _ _ (by rw [State.coreAt_setCore_self]; exact hd)]
    refine ⟨e, ?_, by rw [f2, e2], f3, ?_⟩
    · simp only [List.map_cons, List.zip_cons_cons, List.foldl_cons]
      rw [g, f1]
    · intro a n
      rw [f4, e4]
      have : s.scratchWrites (x :: t) = (tab id (sramBase s.cur + x.1.toNat % 2 ^ 40) x.2.length).zip x.2 ++ s.scratchWrites t := by
        simp [State.scratchWrites]
      rw [this, lastWrite_append]
      cases lastWrite (s.scratchWrites t) a <;> rfl

theorem find_zip_map {α β : Type} (l : List α) (f : α → β) (p : α × β → Bool) (h : ∀ x ∈ l, p (x, f x) = false) :
    (l.zip (l.map f)).find? p = none := by
  induction l with
  | nil => rfl
  | cons x l ih =>
    rw [List.map_cons, List.zip_cons_cons, List.find?_cons, h x List.mem_cons_self]
    exact ih (fun y hy => h y (List.mem_cons_of_mem _ hy))

/-- Accesses of the own scratchpad meet no window and no missing expander. -/
theorem scratch_plain (s : State) (x : Word × Nat) (off : Nat) (h : s.ownScratch x.1 x.2 off) (t : State) :
    (accTarget s.cur x).mmio = false ∧ t.expanderGone (accTarget s.cur x).cells = false := by
  have h2 := spSize_le s.core
  have h3 := h.2.2.2
  have h4 := h.1
  have hcell : ∀ y ∈ (accTarget s.cur x).cells, y.2 = sramAttr ∧ 2 ^ 56 ≤ y.1 ∧ y.1 < 2 ^ 60 := by
    intro y hy
    obtain ⟨i, hi, e⟩ := mem_tab _ _ _ _ hy
    rw [ownScratch_off h] at e
    subst e
    refine ⟨rfl, ?_, ?_⟩
    · dsimp only
      unfold sramBase
      omega
    · dsimp only
      unfold sramBase
      omega
  constructor
  · unfold Target.mmio
    rw [List.any_eq_false]
    intro y hy
    rw [(hcell y hy).1]
    decide
  · unfold State.expanderGone
    rw [List.any_eq_false]
    intro y hy
    obtain ⟨-, h5, h6⟩ := hcell y hy
    rw [sram_offChip t y.1 h5 h6]
    decide

/-- Stores of the own scratchpad by a core with nothing pending enter the chunk. -/
theorem stores_scratch (s : State) (c : Core) (accs : List (Word × List Byte)) (k : State → Res) (hv : s.leave = false)
    (hk : s.core.kept c) (hs : c.sam = false) (ha : s.core.ahead = none) (hq : s.core.scoreboard = []) (hb : s.core.storeBuf = []) (hop : c.chunk.isSome = true)
    (ho : ∀ x ∈ accs, ∃ off, s.ownScratch x.1 x.2.length off)
    (hl : (c.linesWith (linesOf ((accs.map (fun x => accTarget s.cur (x.1, x.2.length))).flatMap Target.cells))).length ≤ 64) :
    ∃ d, d = { c with chunk := d.chunk } ∧ d.chunk.isSome = true ∧
      (s.setCore s.cur c).stores accs k = k (s.setCore s.cur d) ∧
      ∀ a n, d.pendingByte a n = (lastWrite (s.scratchWrites accs) a).orElse (fun _ => s.core.pendingByte a n) := by
  have hca : c.ahead = none := by rw [hk.1]; exact ha
  have hcq : c.scoreboard = [] := by rw [hk.1]; exact hq
  have hcb : c.storeBuf = [] := by rw [hk.1]; exact hb
  have hmap : (accs.map (fun x => (x.1, x.2.length))).map (accTarget s.cur) = accs.map (fun x => accTarget s.cur (x.1, x.2.length)) := by
    rw [List.map_map]
    rfl
  have hloc : (s.setCore s.cur c).locateAll s.cur .store (accs.map (fun x => (x.1, x.2.length))) =
      .ok (s.setCore s.cur c, accs.map (fun x => accTarget s.cur (x.1, x.2.length))) := by
    rw [← hmap]
    refine locateAll_scratch (s.setCore s.cur c) .store _ (fun x hx => ?_)
    obtain ⟨y, hy, e⟩ := List.mem_map.mp hx
    obtain ⟨off, h⟩ := ho y hy
    subst e
    have e2 : spSize (s.setCore s.cur c).core = spSize s.core := by
      rw [State.core_setCore, hk.1]
      rfl
    exact ⟨off, h.1, h.2.1, h.2.2.1, by rw [e2]; exact h.2.2.2⟩
  have hfull : (s.setCore s.cur c).storesFull s.cur accs.length = false := by
    unfold State.storesFull State.buffers State.leaves
    rw [State.coreAt_setCore_self, State.setCore_leave, hv, hcq]
    rfl
  have hf : (s.setCore s.cur c).forAccess s.cur (accs.map (fun x => accTarget s.cur (x.1, x.2.length)))
      (linesOf ((accs.map (fun x => accTarget s.cur (x.1, x.2.length))).flatMap Target.cells)) = some (s.setCore s.cur c) := by
    unfold State.forAccess
    rw [State.coreAt_setCore_self]
    dsimp only
    rw [hca]
    have hv : c.viewConflict (accs.map (fun x => accTarget s.cur (x.1, x.2.length))) = false := by
      unfold Core.viewConflict
      rw [List.any_eq_false]
      intro y hy
      obtain ⟨x, -, e⟩ := List.mem_map.mp hy
      rw [← e]
      exact Bool.false_ne_true
    simp only [hv, hs, Bool.false_and, Option.isSome_none, Bool.false_eq_true, if_false, Bool.false_or, decide_eq_true_eq]
    rw [if_neg (by omega)]
  obtain ⟨d, e1, e2, e3, e4⟩ := writes_scratch s hv accs c hca hs hcq hcb hop
  refine ⟨d, e2, e3, ?_, fun a n => by rw [e4, hk.2.1]⟩
  have hcur : (s.setCore s.cur c).cur = s.cur := rfl
  unfold State.stores State.storesReady
  dsimp only
  rw [hcur, hloc]
  dsimp only
  rw [find_zip_map accs (fun x => accTarget s.cur (x.1, x.2.length)) (fun x => x.2.mmio) (fun x hx => by
    obtain ⟨off, h⟩ := ho x hx
    exact (scratch_plain s (x.1, x.2.length) off h s).1)]
  dsimp only
  rw [find_zip_map accs (fun x => accTarget s.cur (x.1, x.2.length)) (fun x => (s.setCore s.cur c).expanderGone x.2.cells) (fun x hx => by
    obtain ⟨off, h⟩ := ho x hx
    exact (scratch_plain s (x.1, x.2.length) off h (s.setCore s.cur c)).2)]
  dsimp only
  rw [hfull]
  simp only [Bool.false_eq_true, if_false]
  rw [hf]
  dsimp only
  rw [hmap] at e1
  rw [e1]

/-- An instruction whose own part stores to the own scratchpad, and may then change registers and the chunk's groups, completes. -/
theorem store_completes {s : State} {i : Instr} {p : Plan} {body : State → Res} {accs : List (Word × List Byte)} {f : Core → Core}
    (h : s.ready p = true) (hc : p.cls = .member) (he : exec i s = issue p body s) (hq : s.unburdened)
    (ho : ∀ x ∈ accs, ∃ off, s.ownScratch x.1 x.2.length off)
    (hl : (s.core.linesWith (linesOf ((accs.map (fun x => accTarget s.cur (x.1, x.2.length))).flatMap Target.cells))).length ≤ 64)
    (hb : ∀ c, s.core.kept c → ∃ k, body (s.setCore s.cur c) = (s.setCore s.cur c).stores accs k ∧
      ∀ d, k (s.setCore s.cur d) = .done (s.setCore s.cur (f d)))
    (hf : ∀ d, f d = { d with regs := (f d).regs, chunk := (f d).chunk } ∧ ∀ a n, (f d).pendingByte a n = d.pendingByte a n)
    (hs : ∀ c d : Core, c.regs = d.regs → (f c).regs = (f d).regs) :
    Stores s i (f s.core) (s.scratchWrites accs) := by
  have ha := State.ready_ahead h
  obtain ⟨hg, hsam, hlv, hr⟩ := State.ready_gang h
  obtain ⟨c, e1, e2, e3, e4, e5⟩ := State.begin_member s p hsam hr hc
  obtain ⟨k, b1, b2⟩ := hb c e2
  obtain ⟨d, d1, d2, d3, d4⟩ := stores_scratch s c accs k hlv e2 e3 ha hq.1 hq.2 e5 ho (by rw [e4]; exact hl)
  have hfd := hf d
  have ec : (s.setCore s.cur (f d)).core = f d := State.core_setCore s (f d)
  obtain ⟨t, t1, t2, t3, t4⟩ := State.finish_eq s (s.setCore s.cur (f d)) p (nextPc s.core.regs.pc) rfl
    (by rw [ec, hfd.1, d1]; exact e3) (by rw [ec, hfd.1, d1, e2.1]; exact hg)
  rw [ec] at t2 t4
  have e6 : (s.setCore s.cur (f d)).setCore s.cur t = s.setCore s.cur t := State.setCore_setCore s s.cur (f d) t
  have e7 : (s.setCore s.cur t).core = t := State.core_setCore s t
  have hpend : ∀ a n, t.pendingByte a n = (lastWrite (s.scratchWrites accs) a).orElse (fun _ => s.core.pendingByte a n) := by
    intro a n
    rw [t4.2, hfd.2, d4]
  have hl1 : t.l1 = s.core.l1 := by rw [t4.1, hfd.1, d1, e2.1]
  have hl2 : t.l2 = s.core.l2 := by rw [t4.1, hfd.1, d1, e2.1]
  refine ⟨s.setCore s.cur t, ?_, ?_, ?_, rfl, fun b hb => State.coreAt_mapCore_other s (fun _ => t) hb, ?_, ?_⟩
  · rw [he, issue_ready body h, e1, b1, d3, b2]
    exact congrArg Host.Outcome.next (t1.trans e6)
  · rw [e7, t2]
    exact congrArg (fun r : Regs => { r with pc := nextPc s.core.regs.pc }) (hs d s.core (by rw [d1, e2.1]))
  · rw [e7]
    exact t3
  · rw [e7]
    unfold Core.storing
    rw [t4.1, hfd.1, d1, e2.1]
  · intro a q
    show _ = match lastWrite (s.scratchWrites accs) a with | some b => b | none => s.ownByte s.cur a q
    have e10 : (s.setCore s.cur t).dieByte (dieOf s.cur) a = s.dieByte (dieOf s.cur) a :=
      overDie_mapCore s s.cur _ _ (fun _ => t) _ hl1 hl2
    have e11 : (s.setCore s.cur t).cacheByte s.cur a = s.cacheByte s.cur a := by
      unfold State.cacheByte
      rw [State.coreAt_setCore_self, e10]
      dsimp only
      rw [hl1, hl2]
      rfl
    have e12 : (s.setCore s.cur t).place = s.place := rfl
    unfold State.ownByte
    rw [State.coreAt_setCore_self, e12, hpend, e11]
    cases lastWrite (s.scratchWrites accs) a with
    | some b => rfl
    | none => rfl

/-- An access of the own scratchpad is none of a window. -/
theorem mmioOf_scratch (s : State) (c : Core) (h : s.core.kept c) (k : Kind) (va : Word) (n off : Nat) (ho : s.ownScratch va n off) :
    (s.setCore s.cur c).mmioOf k va n = none := by
  unfold State.mmioOf
  have e2 : spSize (s.setCore s.cur c).core = spSize s.core := by
    rw [State.core_setCore, h.1]
    rfl
  have e := locate_scratch (s.setCore s.cur c) k va n off ⟨ho.1, ho.2.1, ho.2.2.1, by rw [e2]; exact ho.2.2.2⟩
  have e3 : (s.setCore s.cur c).cur = s.cur := rfl
  rw [e3] at e ⊢
  rw [e]
  dsimp only
  rw [if_neg]
  have e5 := (scratch_plain s (va, n) off ho s).1
  have e4 : va.toNat % 2 ^ 40 = off := ownScratch_off ho
  unfold accTarget at e5
  simp only [e4] at e5
  rw [e5]
  exact Bool.false_ne_true

end Sys2Proof.Machine
end

