-- ==== Sys2Proof/Tests/Slice0.lean ====
section
/-! SUPPORT. Tests of the model: witnesses of the statements, decoding examples, ill-formed terms and single steps. -/

namespace Sys2Proof.Tests
open Sys2Proof Sys2Proof.Machine

-- One theorem at a time: the kernel's evaluation of many at once takes a thread and its stack for each.
set_option Elab.async false

/-! ### A small state -/

/-- A running core whose s1 holds the base of its local window, and s2 a small number. -/
def c0 : Core := { Core.reset with status := .running, regs := { Regs.zero with s := (Regs.zero.s.set 1 (BitVec.ofNat 64 lwb)).set 2 8 } }
/-- Compute core 0 runs, and its turn it is. -/
def m0 : State := { State.reset with cores := [(0, c0)], cur := 0, schedule := [] }
/-- The same core, with another word of memory and its full bit. -/
def m0Full : State := { m0 with full := [sramBase 0] }
/-- The same core, with a poisoned word at the base of its scratchpad. -/
def m0Poison : State := { m0 with poison := [sramBase 0] }

theorem m0_loadable (n : Nat) (h1 : 0 < n) (h2 : n ≤ 256) : m0.loadable (BitVec.ofNat 64 lwb) n 0 := by
  refine ⟨⟨by decide, h1, by decide, ?_⟩, ?_, by decide, by decide⟩
  · have : spSize m0.core = 524288 := by decide
    omega
  · intro k hk
    rfl

theorem m0_fits : m0.fits [(0, 256)] ∧ m0.unburdened := by
  refine ⟨?_, ?_⟩
  · unfold State.fits; decide +kernel
  · unfold State.unburdened; decide
theorem m0_calm : m0.calm := by
  refine ⟨?_, rfl⟩
  intro b
  show (tget Core.reset [(0, c0)] b).chunk = none ∧ (tget Core.reset [(0, c0)] b).closed = []
  simp only [tget]
  split <;> exact ⟨rfl, rfl⟩
theorem m0_still : m0.still := ⟨m0_calm, by decide⟩

/-- The same core with no view tables, and a PC-like non-canonical address in s3. -/
def m0Views : State := m0.mapCore 0 (fun c => { c with views := some [], regs := { c.regs with s := c.regs.s.set 3 0x0001000000000000 } })
/-- A message toward the host that waits. -/
def m0Out : State := { m0 with pkg := { m0.pkg with hostOut := [.msix 0] } }
/-- A request that has left the package for a switch. -/
def mSwitch : AtomicReq :=
  { agent := 0, pc := 0, iword := 0x84A43010, addr := 0, attr := { cache := .uc, hot := false, heap := false }, va := 0, remote := true, window := true,
    fn := 1, b := 1, d := 0, done := none, dropped := false }
def m0Late : State := { m0 with atomics := [mSwitch] }
/-- Supervisor 512 runs, and its turn it is. -/
def m512 : State := { State.reset with cores := [(512, c0)], cur := 512, schedule := [] }

/-! ### Witnesses: the hypotheses of the statements are met -/

theorem witness_AluTwoSources : m0.ready (Plan.simple [sR 1, sR 2] [sR 3]) = true ∧ m0.ready (Plan.multi [sR 1, sR 2] [sR 3] 2) = true := by
  decide
theorem witness_AluOneSourceAndImmediates : m0.ready (Plan.simple [sR 1] [sR 3]) = true ∧ m0.ready (Plan.simple [] [sR 3]) = true := by decide
theorem witness_BitFields : (64 = if (0 : BitVec 6) = 0 then 64 else (0 : BitVec 6).toNat) ∧ m0.ready (Plan.simple [sR 1] [sR 3]) = true ∧
    m0.ready (Plan.simple [sR 1, sR 3] [sR 3]) = true ∧ m0.ready (Plan.simple [sR 1, sR 2, sR 2] [sR 3]) = true ∧
    m0.ready (Plan.simple [sR 1, sR 2, sR 2, sR 3] [sR 3]) = true := by decide
/-- A heap of 16 bytes at 0; s2 + s2 is its end, s1 + s2 beyond it. -/
def mHeap : State := m0.mapCore 0 (fun c => { c with ctx := { c.ctx with heapb := 0, heapl := 16 } })
theorem witness_HeapPointer : mHeap.ready (Plan.simple [sR 2, sR 2] [sR 3]) = true ∧ mHeap.core.ctx.heapl ≠ 0 ∧
    mHeap.core.ctx.heapb.toNat ≤ 16 ∧ 16 = (mHeap.core.readS 2).toNat + (mHeap.core.readS 2).toNat ∧
    16 ≤ mHeap.core.ctx.heapb.toNat + mHeap.core.ctx.heapl.toNat ∧ mHeap.ready (Plan.simple [sR 1, sR 2] [sR 3]) = true ∧
    mHeap.core.ctx.heapb.toNat + mHeap.core.ctx.heapl.toNat < (mHeap.core.readS 1).toNat + (mHeap.core.readS 2).toNat ∧ mHeap.faultable := by
  unfold State.faultable
  decide +kernel
/-- The PC at the top of the lower canonical half, so that a forward branch leaves it. -/
def mEdge : State := m0.mapCore 0 (fun c => { c with regs := { c.regs with pc := 0x7FFFFFFFFFFC } })
theorem witness_BranchesAndJumps : m0.ready { Plan.simple [sR 1, sR 2] [] with ahead := .branches } = true ∧
    canonical (m0.core.regs.pc + 4 * (2 : BitVec 16).signExtend 64) = true ∧
    mEdge.ready { Plan.simple [sR 1, sR 2] [] with ahead := .branches } = true ∧
    canonical (mEdge.core.regs.pc + 4 * (2 : BitVec 16).signExtend 64) = false ∧ mEdge.faultable ∧
    mEdge.ready { Plan.simple [] [sR 1] with ahead := .branches } = true ∧ canonical (mEdge.core.regs.pc + 4 * (2 : BitVec 26).signExtend 64) = false ∧
    m0.ready { Plan.simple [] [sR 1] with ahead := .branches } = true ∧ canonical (m0.core.regs.pc + 4 * (2 : BitVec 26).signExtend 64) = true ∧
    m0.ready { Plan.simple [sR 2] [sR 3] with ahead := .branches } = true ∧ (m0.core.readS 2 + (4 : BitVec 16).signExtend 64).toNat % 4 = 0 ∧
    canonical (m0.core.readS 2 + (4 : BitVec 16).signExtend 64) = true ∧ (m0.core.readS 2 + (5 : BitVec 16).signExtend 64).toNat % 4 ≠ 0 ∧ m0.faultable := by
  unfold State.faultable
  decide +kernel
theorem witness_FpuGroup : m0.ready (Plan.multi [sR 1, sR 2] [sR 3] 2) = true ∧ m0.ready (Plan.multi [sR 1] [sR 3] 0) = true ∧
    m0.ready (Plan.multi [sR 1, sR 2, sR 3] [sR 3] 15) = true := by decide
theorem witness_NanRules : fmtF32 ∈ [fmtF64, fmtF32, fmtF16, fmtBF16] ∧ (funpack fmtF32 0x7FC00001).isNan = true ∧ (funpack fmtF64 (2 ^ 64 - 1)).isNan = true := by
  decide
theorem witness_VectorIntegers : m0.ready (Plan.multi [vR 1, vR 2, pR 3] [vR 4] 1) = true ∧ m0.ready (Plan.multi [vR 1, vR 2, vR 4, pR 3] [vR 4] 1) = true ∧
    m0.ready (Plan.multi [vR 1, pR 3] [vR 4] 1) = true ∧ m0.ready (Plan.multi [vR 1, vR 2, pR 3] [pR 4] 1) = true := by decide
theorem witness_VectorFloats : m0.ready (Plan.multi [vR 1, vR 2, pR 0] [vR 4] 0) = true ∧ m0.ready (Plan.multi [vR 1, vR 2, vR 4, pR 0] [vR 4] 0) = true ∧
    m0.ready (Plan.multi [vR 1, pR 0] [vR 4] 0) = true ∧ m0.ready (Plan.multi [vR 1, vR 2, pR 0] [pR 0] 0) = true := by decide
theorem witness_PredicatedLanes : 64 ∈ [8, 16, 32, 64] ∧ 8 ∈ [8, 16, 32] ∧ (3 : BitVec 3) ≠ 0 ∧ (5 : BitVec 5) ≠ 4 := by decide
theorem witness_VectorLogic : m0.ready (Plan.simple [vR 1, vR 2, pR 3] [vR 4]) = true ∧ m0.ready (Plan.simple [pR 1, pR 2] [pR 3]) = true ∧
    m0.ready (Plan.simple [pR 1] [pR 0]) = true ∧ m0.ready (Plan.multi [pR 1, pR 3] [sR 4] 2) = true := by decide
theorem witness_VectorPermutes : m0.ready (Plan.multi [vR 31, vR 2, pR 3] [vR 4] 1) = true ∧
    m0.ready (Plan.multi [vR 31, vR (31 + 1), sR 2, pR 3] [vR 4] 1) = true ∧ m0.ready (Plan.multi [vR 31, sR 2, pR 3] [vR 4] 1) = true ∧
    m0.ready (Plan.multi [vR 31, sR 2] [vR 4] 1) = true ∧ m0.ready (Plan.multi [pR 3] [vR 4] 1) = true ∧
    m0.ready (Plan.multi [vR 31, pR 3] [vR 4] 1) = true ∧ (3 : BitVec 3).toNat < 4 := by decide
theorem witness_Reductions : m0.ready (Plan.multi [vR 1, pR 3] [vR 4] 1) = true ∧ (2 : BitVec 5).toNat < 3 ∧ 2 < (5 : BitVec 5).toNat ∧
    (5 : BitVec 5).toNat < 6 := by decide
theorem witness_VectorMoves : m0.ready (Plan.multi [vR 1, pR 3] [vR 4] 1) = true ∧ m0.ready (Plan.multi [sR 1] [vR 4] 1) = true ∧
    m0.ready (Plan.multi [vR 1, sR 2] [sR 4] 1) = true ∧ m0.ready (Plan.multi [vR 1] [pR 2] 1) = true ∧
    m0.ready (Plan.multi [pR 2] [vR 4] 1) = true ∧ (3 : BitVec 3).toNat < 4 := by decide
noncomputable def refuses (w : IWord) : Bool := match decode w with | .ok _ => false | .error _ => true
/-- The premises under which a word is refused, where they begin to hold: R86, R88, R107, R108, R119. -/
theorem witness_MustBeZero : (1 : BitVec 5) ≠ 0 ∧ (0x0040 : BitVec 16).extractLsb' 6 8 ≠ 0 ∧ (1 : BitVec 4) ≠ 0 ∧ (8 : BitVec 4).toNat < 9 ∧
    ¬((8 : BitVec 5).toNat < 8) ∧ 4 < (5 : BitVec 4).toNat ∧ 7 < (8 : BitVec 5).toNat ∧ 5 < (6 : BitVec 5).toNat ∧ 3 < (4 : BitVec 3).toNat ∧
    refuses 0x20010000 = true ∧ refuses 0x24000040 = true ∧ refuses 0x9C000001 = true ∧ refuses 0xB8000001 = true ∧ refuses 0xB8000290 = true ∧
    refuses 0xB8004280 = true ∧ refuses 0xB8000C00 = true ∧ refuses 0xB8003480 = true ∧ refuses 0xD4000800 = true ∧ refuses 0xD4004100 = true ∧
    refuses 0xD4000190 = true := by decide +kernel
/-- 05 R119: VPLD p1, v2, 7 and VPST v2, p1, 4. -/
theorem test_decode_slices : decode 0xD4223900 = .ok (.vpld 1 2 7 0) ∧ decode 0xD4412180 = .ok (.vpst 2 1 4 0) := ⟨rfl, rfl⟩
theorem witness_BlockFloat : (2 : BitVec 3).toNat < 3 ∧ m0.ready (Plan.multi [vR 1, vR 4] [vR 4] 1) = true ∧
    m0.ready (Plan.multi [vR 1, vR 2] [vR 4] 1) = true ∧ m0.ready (Plan.multi [vR 1, vR 2, vR 4, pR 3] [vR 4] 1) = true ∧
    anyNonFinite [funpack fmtF32 0x7F800000] = true ∧ anyNonFinite [funpack fmtF32 0] = false := by decide
theorem witness_Checksums : m0.ready (Plan.simple [] [kR 1]) = true ∧ m0.ready (Plan.simple [kR 1] [sR 3]) = true ∧
    m0.ready (Plan.multi [sR 1, kR 1] [kR 1] 2) = true ∧ m0.ready (Plan.multi [vR 1, kR 1] [kR 1] 2) = true ∧ (2 : BitVec 5).toNat < 3 ∧
    m0.ready (Plan.multi [kR 1, sR 2, sR 2] [] 2) = true ∧ ((m0.core.readK 1).toInt - (m0.core.readS 2).toInt).natAbs ≤ (m0.core.readS 2).toNat ∧
    (ckFailsF (m0.core.readK 1) (m0.core.readS 0) (m0.core.readS 0)).1 = false ∧
    (m0.core.readS 0).toNat < ((m0.core.readK 1).toInt - (m0.core.readS 2).toInt).natAbs ∧ m0.core.scoreboard = [] ∧
    (ckFailsF (m0.core.readK 1) (m0.core.readS 2) (m0.core.readS 0)).1 = true ∧ 3 ≤ (3 : BitVec 5).toNat ∧ (5 : BitVec 5).toNat < 6 := by decide +kernel
theorem witness_ScalarLoadsAndStores : m0.ready (Plan.memory [sR 1] [sR 3] 1) = true ∧ m0.loadable (m0.core.readS 1 + BitVec.ofNat 64 8 * (0 : BitVec 12).signExtend 64) 8 0 ∧
    m0.ready (Plan.memory [sR 3, sR 1] [] 1) = true ∧ m0.unburdened ∧ m0.fits [(0, 8)] := by
  refine ⟨by decide, m0_loadable 8 (by decide) (by decide), by decide, m0_fits.2, ?_⟩
  unfold State.fits; decide
theorem witness_VectorMemory : m0.ready (Plan.memory [sR 1] [vR 4] 1) = true ∧ m0.ready (Plan.memory [vR 4, sR 1] [] 1) = true ∧
    m0.loadable (m0.core.readS 1 + 256 * (0 : BitVec 12).signExtend 64) 256 0 ∧ m0.unburdened ∧ m0.fits [(0, 256)] ∧
    m0.ready (Plan.memory [sR 1, sR 0, pR 0] [vR 4] 1) = true ∧ m0.ready (Plan.memory [sR 1, vR 2, pR 0] [vR 4] 1) = true ∧
    m0.ready (Plan.memory [vR 4, sR 1, sR 0, pR 0] [] 1) = true ∧ m0.ready (Plan.memory [vR 4, sR 1, vR 2, pR 0] [] 1) = true ∧
    (∀ k, m0.loadable (m0.core.readS 1 + BitVec.ofNat 64 k * m0.core.readS 0) 4 0) ∧ m0.atEase ∧
    m0.fits ((List.range 64).map (fun _ => (0, 4))) := by
  refine ⟨by decide, by decide, m0_loadable 256 (by decide) (by decide), m0_fits.2, m0_fits.1, by decide, by decide, by decide, by decide, ?_, ⟨by decide, by decide⟩, ?_⟩
  · intro k
    have h : m0.core.readS 1 + BitVec.ofNat 64 k * m0.core.readS 0 = BitVec.ofNat 64 lwb := by
      have h0 : BitVec.ofNat 64 k * (0 : Word) = 0 := BitVec.mul_zero
      have h1 : m0.core.readS 0 = 0 := rfl
      rw [h1, h0]
      rfl
    rw [h]
    exact m0_loadable 4 (by decide) (by decide)
  · unfold State.fits
    decide +kernel
/-- As `m0`, with s4 256 bytes beyond the base. -/
def mPair : State := m0.mapCore 0 (fun c => { c with regs := { c.regs with s := c.regs.s.set 4 (BitVec.ofNat 64 (lwb + 256)) } })
theorem witness_QuantisedGroups :
    mPair.ready (Plan.memory [sR 1, vR (pairLo 2), vR (pairHi 2), sR 4] [] 1) = true ∧ mPair.unburdened ∧
    mPair.quantStore 1 4 0 256 (16 * asymBits 3) (4 * asymGroups 3) ∧ mPair.quantStore 1 4 0 256 (16 * mxBits 2) 4 ∧
    mPair.ready (Plan.memory [sR 1, sR 4] [vR (pairLo 2), vR (pairHi 2)] 1) = true ∧
    mPair.quantLoad 1 4 0 256 (16 * asymBits 3) (4 * asymGroups 3) ∧ mPair.quantLoad 1 4 0 256 (16 * mxBits 2) 4 := by
  unfold State.quantStore State.quantLoad State.unburdened State.fits State.loadable State.atEase State.ownScratch State.cleanScratch
  exact ⟨by decide +kernel, by decide +kernel, by decide +kernel, by decide +kernel, by decide +kernel, by decide +kernel, by decide +kernel⟩

theorem m0_nowhere : m0Views.nowhere (m0Views.core.readS 3 + BitVec.ofNat 64 8 * (0 : BitVec 12).signExtend 64) 8 := by
  refine ⟨rfl, ?_⟩
  decide +kernel
theorem witness_AccessFaults : m0Views.faultable ∧ m0Views.ready (Plan.memory [sR 3] [sR 4] 1) = true ∧
    m0Views.ready (Plan.memory [sR 4, sR 3] [] 1) = true ∧ (8, Instr.ld 4 3 0 1) ∈ [(1, Instr.lb 4 3 0 1), (8, .ld 4 3 0 1)] := by
  refine ⟨⟨rfl, by decide +kernel⟩, by decide, by decide, ?_⟩
  exact List.mem_cons_of_mem _ (List.mem_cons_self ..)
theorem witness_PoisonedLoads : m0Poison.ownScratch (m0Poison.core.readS 1 + BitVec.ofNat 64 8 * (0 : BitVec 12).signExtend 64) 8 0 ∧
    m0Poison.atEase ∧ m0Poison.ownPoison m0Poison.cur (sramBase m0Poison.cur + 0 + 3) .sram = true ∧
    m0Poison.ready (Plan.memory [sR 1] [sR 3] 1) = true ∧ m0Poison.ready (Plan.memory [sR 1] [vR 3] 1) = true ∧
    m0Poison.ownScratch (m0Poison.core.readS 1 + BitVec.ofNat 64 256 * (0 : BitVec 12).signExtend 64) 256 0 := by
  unfold State.ownScratch State.atEase
  decide +kernel
theorem witness_FullEmpty : m0.ready { Plan.memory [sR 1] [sR 3] 1 with cls := .first, ahead := .ends } = true ∧
    m0.ownWord (m0.core.readS 1 + 8 * (0 : BitVec 12).signExtend 64) 8 (sramBase 0) ∧ m0.full.contains (sramBase 0) = false ∧
    m0Full.ownWord (m0Full.core.readS 1) 8 (sramBase 0) ∧ m0Full.full.contains (sramBase 0) = true ∧ m0.ready (Plan.memory [sR 1] [sR 3] 1) = true ∧ m0.still ∧
    m0.unawaited (sramBase 0) ∧ m0.core.status = .running ∧ m0.commits = [] ∧ m0.ready (alonePlan [sR 1] [] 1) = true ∧ m0.ready (alonePlan [sR 1] [sR 3] 1) = true ∧
    m0.ready (alonePlan [sR 1, sR 2] [] 1) = true := by
  refine ⟨by decide, ⟨0, by unfold State.ownScratch; decide +kernel, rfl, rfl, rfl⟩, rfl, ⟨0, by unfold State.ownScratch; decide +kernel, rfl, rfl, rfl⟩,
    by decide +kernel, by decide, m0_still, ⟨rfl, fun x h => nomatch h⟩, rfl, rfl, by decide, by decide, by decide⟩
theorem witness_Atomics : m0.still ∧ m0.ready (alonePlan ([sR 1, sR 2] ++ [sR 3]) [sR 3] 2) = true ∧ m0.ready (alonePlan ([sR 1, sR 2] ++ []) [sR 3] 2) = true ∧
    m0.ready (alonePlan ([sR 1, sR 2] ++ [sR 0]) [] 2) = true ∧ m0.ownWord (m0.core.readS 1) 8 (sramBase 0) ∧ m0.ownWord (m0.core.readS 1) 4 (sramBase 0) ∧
    m0.atomics = [] ∧ m0.deliveries = [] ∧ m0.core.readS 0 = 0 := by
  refine ⟨m0_still, by decide, by decide, by decide, ⟨0, by unfold State.ownScratch; decide +kernel, rfl, rfl, rfl⟩,
    ⟨0, by unfold State.ownScratch; decide +kernel, rfl, rfl, rfl⟩, rfl, rfl, rfl⟩
theorem witness_ControlRegisters : csrFault m0.cur 0x100 false m0.ir = none ∧ csrClassC 0x100 = false ∧ m0.ready (Plan.simple [] [sR 3]) = true ∧
    csrFault m0.cur 0x103 true m0.ir = none ∧ csrClassC 0x103 = false ∧ m0.closing [sR 2] [sR 3] ∧ m0.core.scoreboard = [] ∧
    m0.ready (Plan.simple [sR 2] [sR 3]) = true := by
  unfold State.closing State.atRest
  decide +kernel
theorem witness_ControlRegisterFields : m0.cur < 512 ∧ 31 < 32 ∧ (0x600, (0xFFFFFFFF : Word)) ∈ [(0x001, 0x3), (0x600, 0xFFFFFFFF)] := by decide
theorem witness_Ordering : (6 : BitVec 3).toNat < 7 ∧ m0.closing [] [] ∧ m0.relWaits m0.cur 6 = false ∧ m0.relWaits m0.cur 5 = false ∧ m0.atomics = [] ∧
    m0Out.closing [] [] ∧ m0Out.relWaits m0Out.cur 6 = true ∧ m0Late.closing [] [] ∧ m0Late.relWaits m0Late.cur 5 = true := by
  unfold State.closing State.atRest
  decide +kernel
theorem witness_SystemGroup : m0.ready (Plan.simple [] []) = true ∧ m0.closing [] [] ∧ m0.faultable ∧ m0.cur < 512 ∧ m512.closing [] [] ∧ 512 ≤ m512.cur := by
  unfold State.closing State.atRest State.faultable
  decide +kernel
theorem witness_FaultsAtIssue : m0.cur < 512 ∧ m0.faultable ∧ m0.ready (Plan.closer [] [sR 3]) = true ∧ m0.ready (Plan.closer [] []) = true ∧
    (1 : BitVec 4).toNat % 2 = 1 ∧ m0.ready (Plan.multi [] [sR 3] 2) = true ∧ m0.ready (Plan.multi [] [vR 3] 2) = true ∧
    m0.ready (Plan.simple [] [sR 3]) = true ∧ m0.ready (Plan.simple [] []) = true ∧
    8 ≤ (8 : BitVec 4).toNat ∧ 0x800 ≤ (0x800 : BitVec 12).toNat ∧ m512.faultable ∧ m512.ready (Plan.closer [] [sR 3]) = true ∧
    m512.ready (Plan.closer [] []) = true ∧ 512 ≤ m512.cur ∧ csrAccess 0x7FF = .unassigned ∧ csrAccess 0x100 = .rs := by
  unfold State.faultable
  decide +kernel

/-- The same core with barrier 3 in phase 1, at which it has arrived; `mBarW` waits there since phase 0. -/
def mBar : State := m0.mapCore 0 (fun c => c.setBar 3 { Barrier.zero with phase := 1, arrived := true, target := 2, arr := 1 })
def mBarW : State := mBar.mapCore 0 (fun c => { c with wait := some (.barrier 0 true) })
/-- Barrier 3 at pod scope, while a switch has still to answer. -/
def mBarPod : State := m0Late.mapCore 0 (fun c => c.setBar 3 { Barrier.zero with scope := 5 })
theorem witness_Barriers : mBar.cur < 512 ∧ mBar.closing [sR 2] [] ∧ mBar.closing [] [] ∧ (mBar.core.bar 3).scope.toNat < 4 ∧ mBar.core.wait = none ∧
    (mBar.core.bar 3).phase ≠ (if (mBar.core.bar 3).arrived then (mBar.core.bar 3).wph else (mBar.core.bar 3).phase) ∧
    (mBar.core.bar 4).phase = (if (mBar.core.bar 4).arrived then (mBar.core.bar 4).wph else (mBar.core.bar 4).phase) ∧
    mBarW.closing [] [] ∧ mBarW.core.wait = some (.barrier 0 true) ∧ (mBarW.core.bar 3).phase ≠ 0 ∧ (mBar.core.bar 3).target ≠ 0 ∧
    (mBar.core.bar 3).arr.toNat < (mBar.core.bar 3).target.toNat ∧ (mBar.core.bar 4).target = 0 ∧
    mBar.relWaits mBar.cur (mBar.core.bar 3).scope.toNat = false ∧ mBarPod.closing [] [] ∧ mBarPod.relWaits mBarPod.cur (mBarPod.core.bar 3).scope.toNat = true ∧
    (mBarPod.core.bar 3).scope = 5 ∧ mBarPod.core.wait = none := by
  unfold State.closing State.atRest
  decide +kernel
/-- Event 8 counts 1, mutex 3 is held by core 0 and mutex 4 by core 1; s4 to s6 name mutexes 3, 4 and 5. -/
def mEv : State := (m0.mapForge 0 (fun g => ((g.setEv 8 1).setMx 3 (some 0)).setMx 4 (some 1))).mapCore 0 (fun c =>
  { c with regs := { c.regs with s := ((c.regs.s.set 4 0x43).set 5 0x44).set 6 0x45 } })
theorem witness_Events : mEv.cur < 512 ∧ (mEv.forgeAt 0).evWait = [] ∧ mEv.core.wait = none ∧ mEv.closing [sR 2] [sR 3] ∧ mEv.closing [sR 2, sR 0] [] ∧
    (mEv.core.readS 2).toNat % 256 = 8 ∧ (mEv.forgeAt 0).evAt 8 ≠ 0 ∧ (m0.forgeAt 0).evAt 8 = 0 ∧ m0.closing [sR 2] [sR 3] ∧
    (mEv.core.readS 6).toNat % 256 = 64 + 5 ∧ (mEv.forgeAt 0).mxAt 5 = none ∧ mEv.closing [sR 6] [sR 3] ∧
    (mEv.core.readS 4).toNat % 256 = 64 + 3 ∧ (mEv.forgeAt 0).mxAt 3 ≠ none ∧ mEv.closing [sR 4, sR 0] [] ∧
    (mEv.forgeAt 0).mxAt 3 = some (BitVec.ofNat 3 (slotOf mEv.cur)) ∧ (mEv.core.readS 5).toNat % 256 = 64 + 4 ∧ mEv.closing [sR 5, sR 0] [] ∧
    (mEv.core.readS 0).getLsbD 6 = false ∧ (mEv.forgeAt 0).mxAt 4 ≠ some (BitVec.ofNat 3 (slotOf mEv.cur)) ∧ 0 / 16 = dieOf mEv.cur := by
  unfold State.closing State.atRest
  decide +kernel
theorem witness_Messages : m0.closing [sR 2, sR 0] [] ∧ m0.msgOk (m0.core.readS 2) = true ∧ m0.closing [sR 1, sR 0] [] ∧ m0.msgOk (m0.core.readS 1) = false ∧
    m0.ready (Plan.simple [sR 2] []) = true ∧ (m0.core.readS 0).toNat % 2 ^ 32 ≤ (m0.core.mcAt 3).toNat ∧
    (m0.core.mcAt 3).toNat < (m0.core.readS 2).toNat % 2 ^ 32 ∧ m0.ready (Plan.simple [sR 0] []) = true := by
  unfold State.closing State.atRest
  decide +kernel
/-- An image at the base of the scratchpad that is not well formed. -/
def mBadImage : State := { m0 with mem := [(sramBase 0, 1)] }
/-- Entry 0 of core 8 in use. -/
def mFullTable : State := m0.mapCore 8 (fun c => c.setEntry 0 { WttEntry.empty with state := .eligible })
theorem witness_TaskTable : m0.closing [sR 1, sR 2] [sR 3] ∧ (m0.core.readS 1).toNat % 64 = 0 ∧ (m0.core.readS 2).toNat % 1024 < 512 ∧
    m0.between.loadable (m0.core.readS 1) 64 0 ∧ imageOk 8 (imageOf (wordsOf 8 (m0.between.scratchData 0 64))) = true ∧
    (m0.core.readS 2).getLsbD 15 = false ∧ wttOpen ((m0.between.coreAt 8).entry ((m0.core.readS 2).toNat / 2 ^ 10 % 32)) = true ∧
    mBadImage.closing [sR 1, sR 2] [sR 3] ∧ mBadImage.between.loadable (mBadImage.core.readS 1) 64 0 ∧
    imageOk 8 (imageOf (wordsOf 8 (mBadImage.between.scratchData 0 64))) = false ∧ m0.closing [sR 2] [sR 3] ∧ m0.ready (Plan.simple [sR 2] [sR 3]) = true ∧
    (m0.between.coreAt 8).openEntry = some 0 ∧ m0.core.wait = none ∧ m0.core.replays = [] ∧ mFullTable.closing [sR 1, sR 2] [sR 3] ∧
    mFullTable.between.loadable (mFullTable.core.readS 1) 64 0 ∧ imageOk 8 (imageOf (wordsOf 8 (mFullTable.between.scratchData 0 64))) = true ∧
    wttOpen ((mFullTable.between.coreAt 8).entry 0) = false := by
  unfold State.closing State.atRest State.loadable State.atEase State.ownScratch State.cleanScratch
  decide +kernel
/-- The task of entry 0 runs on core 0. -/
def mTask : State := m0.mapCore 0 (fun c => { c.setEntry 0 { WttEntry.empty with state := .running } with bound := some (0, 0) })
/-- A command of opcode `op` sent by core 0, with three more words. -/
def cmdOf (op : Word) (w : List Word) : Cmd :=
  { tcw := tcwOf (op :: w), core := 0, ctx := Ctx.zero, token := 0, id := 0, record := none, unwound := false }
def mTaskCmd : State := mTask.mapCore 0 (fun c => { c with q0 := [cmdOf 4 [0, 0, 0]] })
def mSupv : State := mTask.mapCore 0 (fun c => { c with supv := true })
theorem witness_TaskExit : mTask.cur < 512 ∧ mTask.closing [] [] ∧ mTask.commandsOf mTask.cur = [] ∧ mTask.core.bound = some (mTask.cur, 0) ∧
    (mTask.core.entry 0).state = .running ∧ mTaskCmd.closing [] [] ∧ mTaskCmd.commandsOf mTaskCmd.cur ≠ [] ∧ mTask.closing [sR 2, sR 0] [] ∧
    mTask.between.saveRanges (mTask.core.readS 0) (Vector.replicate 4 0) ∧
    (mTask.between.me (fun c => { c with liveMap := 8 })).savesHere mTask.cur true = false ∧ mTask.closing [sR 2, sR 1] [] ∧
    mTask.between.saveRanges (mTask.core.readS 1) (Vector.replicate 4 0) ∧ mSupv.closing [sR 2, sR 0] [] ∧
    mSupv.between.saveRanges (mSupv.core.readS 0) (Vector.replicate 4 0) ∧
    (mSupv.between.me (fun c => { c with liveMap := 8 })).savesHere mSupv.cur false = true := by
  have h0 : (mTask.core.readS 0, mSupv.core.readS 0) = (0, 0) := rfl
  have h1 : mTask.between.saveRanges (mTask.core.readS 1) (Vector.replicate 4 0) := by
    refine .inr ⟨by decide, by decide, 0, ?_, by decide +kernel, ?_⟩
    · unfold State.loadable State.atEase State.ownScratch State.cleanScratch
      decide +kernel
    · intro l h
      have e : l = [] := by rw [h]; decide
      subst e
      exact ⟨fun x hx => (List.not_mem_nil hx).elim, by decide +kernel⟩
  unfold State.closing State.atRest
  exact ⟨by decide +kernel, by decide +kernel, by decide +kernel, by decide +kernel, by decide +kernel, by decide +kernel, by decide +kernel, by decide +kernel,
    .inl ⟨rfl, rfl⟩, by decide +kernel, by decide +kernel, h1, by decide +kernel, .inl ⟨rfl, rfl⟩, by decide +kernel⟩
/-- s4 names the cores in slots 0 and 1; in `mGang` core 1 waits there. -/
def mMask : State := m0.mapCore 0 (fun c => { c with regs := { c.regs with s := c.regs.s.set 4 3 } })
def mGang : State := mMask.mapCore 1 (fun _ => { c0 with wait := some (.gang 3) })
theorem witness_Gangs : mMask.cur < 512 ∧ mMask.closing [sR 4] [] ∧ (3 : BitVec 8) = (mMask.core.readS 4).truncate 8 ∧
    ((List.range 8).filter (fun k => (3 : BitVec 8).getLsbD k && k != slotOf mMask.cur)).map (fun k => forgeOf mMask.cur * 8 + k) = [1] ∧
    (3 : BitVec 8).getLsbD (slotOf mMask.cur) = true ∧ mMask.atGang 3 1 = false ∧ mGang.closing [sR 4] [] ∧ mGang.atGang 3 1 = true ∧
    (mGang.coreAt 1).ctx.asid = mGang.core.ctx.asid ∧ m0.ready (Plan.simple [] []) = true ∧
    (m0.me (fun c => { c with gang := none })).ready (Plan.simple [] []) = true ∧ m0.gangHolds m0.cur = false := by
  unfold State.closing State.atRest
  decide +kernel
/-- In one region, with a command of it queued in `mInside`; four regions deep in `mDeep`. -/
def mRegion : State := m0.mapCore 0 (fun c => { c with crdepth := 1 })
def mInside : State := mRegion.mapCore 0 (fun c => { c with q0 := [cmdOf 0x204 [0, 0, 0]] })
def mDeep : State := m0.mapCore 0 (fun c => { c with crdepth := 4 })
theorem witness_Regions : m0.cur < 512 ∧ m0.closing [sR 2] [] ∧ m0.core.crdepth.toNat < 4 ∧ canonical (m0.core.readS 2) = true ∧ (m0.core.readS 2).toNat % 4 = 0 ∧
    mDeep.closing [sR 2] [] ∧ 4 ≤ mDeep.core.crdepth.toNat ∧ m0Views.closing [sR 3] [] ∧ canonical (m0Views.core.readS 3) = false ∧
    mRegion.closing [] [] ∧ mRegion.core.crdepth ≠ 0 ∧ mRegion.commandsOf mRegion.cur = [] ∧ mInside.closing [] [] ∧ mInside.core.crdepth ≠ 0 ∧
    (∃ k ∈ mInside.commandsOf mInside.cur, mInside.core.crdepth.toNat ≤ tcwDepth k.tcw) ∧ m0.closing [] [] ∧ m0.core.crdepth = 0 := by
  unfold State.closing State.atRest
  decide +kernel
/-- v5 holds an MSWAPB; a full anvil queue in `mFull`. -/
def mSend : State := m0.mapCore 0 (fun c => c.writeV 5 4)
def mFull : State := mSend.mapCore 0 (fun c => { c with q0 := List.replicate 16 (cmdOf 4 [0, 0, 0]) })
theorem witness_CommandQueues : mSend.cur < 512 ∧ (0 : BitVec 4).toNat % 2 = 0 ∧ mSend.closing [vR 5] [] ∧
    tcwAccepted 0 ((mSend.core.readV 5).truncate 256) = true ∧ (mSend.core.cmdQ 0).length < cmdDepth 0 ∧ mFull.closing [vR 5] [] ∧
    cmdDepth 0 ≤ (mFull.core.cmdQ 0).length ∧ m0.closing [vR 5] [] ∧ tcwAccepted 0 ((m0.core.readV 5).truncate 256) = false ∧ mSend.core.wait = none ∧
    m0.closing [sR 1] [] ∧ ((4 : BitVec 5) = 0 ∨ (2 : BitVec 4) = 2 ∨ (2 : BitVec 4) = 6) ∧ m0.core.tokpend.getLsbD (4 : BitVec 5).toNat = false ∧ (m0.core.readS 1).toNat % 32 = 0 ∧ m0.loadable (m0.core.readS 1) 32 0 := by
  unfold State.closing State.atRest State.loadable State.atEase State.ownScratch State.cleanScratch
  decide +kernel
/-- Completion queue 1 of core 0 holds a word; `mCplFull` has no room. -/
def mCpl : State := m0.mapCore 0 (fun c => { c with cpl := c.cpl.set 0 { words := [5], held := 0, reserved := 0 } })
def mCplFull : State := m0.mapCore 0 (fun c => { c with cpl := c.cpl.set 0 { words := List.replicate 16 5, held := 16, reserved := 0 } })
theorem witness_CompletionQueues : mCpl.cur < 512 ∧ (1 : BitVec 4).toNat < 8 ∧ (1 : BitVec 4).toNat % 2 = 1 ∧ mCpl.ready (Plan.simple [sR 2] []) = true ∧
    mCpl.core.cpl[0].words.length + mCpl.core.cpl[0].reserved < 16 ∧ mCplFull.ready (Plan.simple [sR 2] []) = true ∧
    16 ≤ mCplFull.core.cpl[0].words.length + mCplFull.core.cpl[0].reserved ∧ mCpl.ready (Plan.multi [] [sR 3] 2) = true ∧
    mCpl.core.cpl[0].words.drop mCpl.core.cpl[0].held = [5] ∧ mCplFull.ready (Plan.multi [] [sR 3] 2) = true ∧
    mCplFull.core.cpl[0].words.length ≤ mCplFull.core.cpl[0].held ∧ mCpl.ready (Plan.multi [] [vR 3] 2) = true ∧
    mCplFull.ready (Plan.multi [] [vR 3] 2) = true ∧ mCpl.ready (Plan.simple [] [sR 3]) = true ∧ mCpl.ready (Plan.simple [] []) = true := by
  decide +kernel
/-- Link slots 0 to 3 of core 9 are full; core 9 has a neighbour in every direction that core 0 lacks. -/
def mLink : State := { m0 with cores := [(9, { c0 with links := Vector.replicate 4 { value := 7, full := true, poison := false } })], cur := 9 }
def mLinkE : State := { m0 with cores := [(9, c0)], cur := 9 }
theorem witness_Links : (∃ k : Fin 4, ∃ b, neighbour mLink.cur k = some b ∧ b ≠ mLink.cur) ∧ (∃ k : Fin 4, neighbour m0.cur k = none) ∧ m0.faultable ∧ m0.ready { Plan.multi [] [sR 3] 2 with cls := .alone, ahead := .ends } = true ∧
    mLink.ready { Plan.multi [] [sR 3] 2 with cls := .alone, ahead := .ends } = true ∧ mLink.atRest ∧ (mLink.core.slot 0).full = true ∧
    mLinkE.ready { Plan.multi [] [sR 3] 2 with cls := .alone, ahead := .ends } = true ∧ mLinkE.atRest ∧ (mLinkE.core.slot 0).full = false ∧
    mLink.ready (Plan.multi [] [sR 3] 2) = true ∧ mLinkE.ready (Plan.multi [] [sR 3] 2) = true ∧ mLink.closing [sR 2] [] ∧
    m0.ready (Plan.multi [] [sR 3] 2) = true ∧ m0.closing [sR 2] [] ∧ mLink.ready (Plan.simple [] [sR 3]) = true := by
  refine ⟨⟨0, ?_⟩, ?_, ?_⟩
  · exact ⟨(neighbour mLink.cur 0).getD 0, by decide +kernel, by decide +kernel⟩
  · decide +kernel
  · unfold State.closing State.atRest State.faultable
    decide +kernel
/-- Record 8 of core 0 is held; in `mBusy` its pass still runs, in `mOne` it is a single error within its tolerance. -/
def recordOf (w : Word) : RetryRecord := (Vector.replicate 8 0).set 0 w
def mRec (w : Word) : State := m0.mapCore 0 (fun c => { c with records := c.records.set 8 (recordOf w) })
theorem witness_RetryRecords : m0.cur < 512 ∧ m0.ready (Plan.memory [sR 2] [sR 3] 2) = true ∧ (8 : BitVec 4) = (m0.core.readS 2).truncate 4 ∧
    recHeld (m0.core.recordAt 8) = false ∧ recHeld ((mRec 0xC000000000000000).core.recordAt 8) = true ∧
    recBusy ((mRec 0xC000000000000000).core.recordAt 8) = true ∧ recBusy ((mRec 0x8000000000000000).core.recordAt 8) = false ∧
    (mRec 0x8000000000000000).ready (Plan.memory [sR 2] [sR 3] 2) = true ∧ (mRec 0x8000000000000000).ready (Plan.closer [sR 2] [sR 3]) = true ∧
    (mRec 0x8000000000000000).closing [sR 2] [sR 3] ∧ (mRec 0x8000000000000000).core.q0.length < 16 ∧ mFull.closing [sR 2] [sR 3] ∧ 16 ≤ mFull.core.q0.length ∧
    m0.ready (Plan.multi [sR 1, sR 2] [sR 3] 2) = true := by
  unfold State.closing State.atRest
  decide +kernel
theorem witness_ForgeMembers : m0.cur < 512 ∧ m0.closing [sR 2] [] ∧ m0.closing [] [sR 3] ∧ (m0.forgeAt 0).bounds = [] ∧
    m0.commandsOf m0.cur = [] ∧ mTaskCmd.closing [] [sR 3] ∧ (∃ k ∈ mTaskCmd.commandsOf mTaskCmd.cur, engOf (tcwOp k.tcw) = some 0) ∧
    m0.closing [sR 1, sR 2] [sR 3] := by
  unfold State.closing State.atRest
  decide +kernel
/-- Supervisor 512 acts on core 8: idle, or frozen with a translation fault. -/
def mSup (st : Status) : State := { m512 with cores := [(8, { c0 with status := st }), (512, c0)] }
theorem witness_SupervisorGroup : 512 ≤ (mSup .idle).cur ∧ (mSup .idle).closing [sR 2] [sR 3] ∧
    128 * dieOf (mSup .idle).cur + ((mSup .idle).core.readS 2).toNat % 128 = 8 ∧ 8 ≠ (mSup .idle).cur ∧ ((mSup .idle).coreAt 8).status ≠ .halted ∧
    (mSup (.frozen 0x10)).closing [sR 2] [sR 3] ∧ ((mSup (.frozen 0x10)).coreAt 8).status = .frozen 0x10 ∧ ((mSup (.frozen 0x10)).coreAt 8).scoreboard = [] ∧
    (mSup (.frozen 0x10)).closing [sR 2] [] ∧ (2 : BitVec 2) ≠ 3 ∧ m0.closing [sR 2] [] := by
  unfold State.closing State.atRest
  decide +kernel

/-- Record 8 names one element, which differs from its row by `d` in the row sum. -/
def mOne (d : Word) : State := m0.mapCore 0 (fun c =>
  { c with records := c.records.set 8 #v[0x8000000000000000, 1, 1, 0, 0, 0, d <<< 32, 0] })
def mOnePoison : State := { mOne 0 with poison := [poisonUnit (sramBase 0 + 32)] }
theorem witness_RetryRecords_single : recHeld ((mOne 0).core.recordAt 8) = true ∧ recBusy ((mOne 0).core.recordAt 8) = false ∧
    recKind ((mOne 0).core.recordAt 8) = 1 ∧ recElem ((mOne 0).core.recordAt 8) = 32 ∧ (mOne 0).loadable (BitVec.ofNat 64 (lwb + 32)) 2 32 ∧
    (mOne 0).ready (Plan.closer [sR 2] [sR 3]) = true ∧ (mOne 0).poison.contains (poisonUnit (sramBase 0 + 32)) = false ∧
    (recRres ((mOne 0).core.recordAt 8) - 16 * recCres ((mOne 0).core.recordAt 8)).natAbs ≤ 16 * recTolRow ((mOne 0).core.recordAt 8) ∧
    recKind ((mOne 1).core.recordAt 8) = 1 ∧
    16 * recTolRow ((mOne 1).core.recordAt 8) < (recRres ((mOne 1).core.recordAt 8) - 16 * recCres ((mOne 1).core.recordAt 8)).natAbs ∧
    mOnePoison.poison.contains (poisonUnit (sramBase 0 + 32)) = true ∧ recKind (mOnePoison.core.recordAt 8) = 1 := by
  unfold State.loadable State.atEase State.ownScratch State.cleanScratch
  decide +kernel

/-! ### The device's own steps -/

def chunk0 : Chunk :=
  { start := Regs.zero, tokStart := 0, startBuf := [], startSb := [], issuedAt := 0, instrs := 2, reads := [], bytes := [(sramBase 0, 7)],
    lines := [(sramBase 0 / 128, { cache := .sram, hot := false, heap := false })], whole := [], blocks := [], pages := [], deferred := [],
    held := Vector.replicate 4 0, release := false, groups := [], cancels := [] }
def push0 : Push := { agent := 1, group := 3, line := 5, data := 7, mask := 1, whole := false, hot := false, heap := false, tied := false, core := true }
/-- LD s4, s5, 0 of core 1, pending, with s5 in a page of CXL whose expander is gone. -/
def entry0 : SbEntry :=
  { word := 0x54850000, pc := 0x100, dests := [sR 4], captured := { Regs.zero with s := Regs.zero.s.set 5 0x10000 }, sources := [sR 5], left := 2,
    mem := true, result := 0, vresult0 := 0, vresult1 := 0, flags := 0, poisons := false, srcClob := false, faulted := false, settle := 0, faddr := 0,
    order := 0, redo := false, completing := false, waits := none }
def mPend : State :=
  { m0 with
    cores := [(1, { c0 with views := some [], scoreboard := [entry0], tlb := [{ asid := 0, vpn := 0x10, size := 0, leaf := 0x100000000103, inMotion := false }] })],
    pkg := { m0.pkg with hdm := [(0, { base := cxlBase, len := 2 ^ 30, expander := 0 })], cxlGone := [0] } }
def ahead0 : Ahead :=
  { start := Regs.zero, tok := 0, unknown := [], count := 0, pages := [0x10], va := 0x10000, type := 1, ended := true }
def atomic0 : AtomicReq :=
  { agent := 0, pc := 0, iword := 0x84A43010, addr := sramBase 0, attr := { cache := .sram, hot := false, heap := false }, va := BitVec.ofNat 64 lwb,
    remote := false, window := false, fn := 1, b := 1, d := 0, done := none, dropped := false }
def mFe (w : Wait) (full : NatSet) : State :=
  { m0 with cores := [(0, { c0 with wait := some w })], feWaiters := [(sramBase 0, 0)], full := full }
theorem witness_MemorySteps :
    ((m0.mapCore 1 (fun c => { c with closed := [chunk0] })).coreAt 1).closed = chunk0 :: [] ∧
    ((m0.mapCore 1 (fun c => { c with closed := [chunk0] })).coreAt 1).scoreboard = [] ∧ (∀ x ∈ chunk0.lines, isSram (x.1 * 128) = true) ∧
    m0.pushes.any (fun p => p.agent == 1) = false ∧ chunk0.hit [sramBase 0 / 128] = false ∧ ({ chunk0 with reads := [sramBase 0 / 128] } : Chunk).hit [sramBase 0 / 128] = true ∧
    push0.tied = false ∧ isView push0.line = false ∧ isPeer (push0.line * 128) = false ∧ isSram (push0.line * 128) = false ∧
    ({ m0 with pushes := [push0] } : State).bypassed (homeOf (push0.line * 128)) = false ∧ ({ m0 with pushes := [push0] } : State).lostHome push0.line = false ∧
    ({ m0 with pushes := [push0] } : State).copyLine push0.line = none ∧
    ((({ m0 with pushes := [push0] } : State).hearth.map Prod.fst).filter (fun x => homeOf (lineBase x) == homeOf (push0.line * 128))).length < 16 ∧ ({ m0 with notices := [(0, 5)] } : State).notices = (0, 5) :: [] ∧
    (mPend.coreAt 1).scoreboard[0]? = some entry0 ∧ entry0.redo = false ∧ entry0.completing = false ∧ entry0.waits = none ∧ (mPend.coreAt 1).sam = false ∧
    entry0.faulted = false ∧ (mPend.coreAt 1).unwinding = none ∧
    (mPend.coreAt 1).status.stopped = false ∧ entry0.mem = true ∧ (mPend.coreAt 1).status = .running ∧ (mPend.coreAt 1).ahead = none ∧
    mPend.lostLoad 1 entry0 = some 0x10000 ∧ ((mSup (.faulted 0x10000 1)).coreAt 8).status = .faulted 0x10000 1 ∧
    ((m0.mapCore 0 (fun c => { c with ahead := some ahead0 })).coreAt 0).ahead = some ahead0 ∧ ahead0.ended = true ∧
    ({ m0 with atomics := [atomic0] } : State).amoHeld atomic0 = false ∧
    (mFe (.feFull (sramBase 0)) [sramBase 0]).feFirst (sramBase 0) = some 0 ∧
    ((mFe (.feFull (sramBase 0)) [sramBase 0]).coreAt 0).waiting.find? (Wait.fe (sramBase 0)) = some (.feFull (sramBase 0)) ∧
    (mFe (.feEmpty (sramBase 0) 7) []).feFirst (sramBase 0) = some 0 ∧
    ((mFe (.feEmpty (sramBase 0) 7) []).coreAt 0).waiting.find? (Wait.fe (sramBase 0)) = some (.feEmpty (sramBase 0) 7) := by
  decide +kernel
theorem mFe_calm (w : Wait) (full : NatSet) : (mFe w full).calm := by
  refine ⟨?_, rfl⟩
  intro b
  show (tget Core.reset [(0, { c0 with wait := some w })] b).chunk = none ∧ (tget Core.reset [(0, { c0 with wait := some w })] b).closed = []
  simp only [tget]
  split <;> exact ⟨rfl, rfl⟩
/-- A packet for supervisor 512 waits, and its ring 0 is in use. -/
def mPkt : State := m0.mapDie 0 (fun d => { d with packets := [(0, Vector.replicate 8 0)], rings := d.rings.set 0 { base := 1, head := 0, tail := 0 }, vbusok := 1 })
theorem witness_Arrivals : sramAssigned (m0.coreAt 1) 8 = true ∧ m0.commits = [] ∧ ((m0.coreAt 1).slot 2).full = false ∧
    ({ m0 with pkg := { m0.pkg with atf := [(2, { AtfPort.reset with up := true })] } } : State).pkg.fabricUp = true ∧ m0.pkg.fabricUp = false ∧
    ({ m0 with deliveries := [{ issuer := 0, target := 1, word := some (8, 5), bar := some 2 }] } : State).deliveries.length = 1 ∧
    ({ m0 with linkMsgs := [(1, 2, 7)] } : State).linkMsgs = (1, 2, 7) :: [] ∧ ({ m0 with skxMsgs := [(1, 3)] } : State).skxMsgs = (1, 3) :: [] ∧
    ({ m0 with msgs := [{ sender := 0, target := 1, cnt := 2, word := some (8, 5) }] } : State).msgs.length = 1 ∧
    ({ m0 with arrivals := [{ issuer := 0, bar := 3, scope := 1, direct := false }] } : State).skxMsgs = [] ∧
    ({ m0 with signals := [{ forge := 0, ev := 3, sender := 0, remote := false }] } : State).signals = [{ forge := 0, ev := 3, sender := 0, remote := false }] ∧
    (mPkt.dieAt 0).packets = (BitVec.ofNat 1 (512 % 2), Vector.replicate 8 0) :: [] ∧ mPkt.ringUsed ((mPkt.dieAt 0).rings[0]) = true ∧
    ((mPkt.dieAt 0).rings[0]).full = false := by
  decide +kernel
/-- Port 3 counts 255 of region 9, and a sample of it waits; the queue of the die holds `n` notices. -/
def mHot (n : Nat) (post : Bool) : State :=
  (m0.mapHome 3 (fun h => { h with waiting := [(9, false)], samples := if post then 0 else 16777215, hot := [(0, { queued := false, pending := false, count := if post then 255 else 3, region := 9 })] })).mapDie 0
    (fun d => { d with nq := List.replicate n 0 })
/-- Bank 2 of port 3 has postponed eight refreshes; an all-bank refresh is under way at port 4; a review is due at ports 5 and 6. -/
def mRef : State :=
  ((((m0.mapHome 3 (fun h => { h with postpone := h.postpone.set 2 8 })).mapHome 4 (fun h => { h with allBank := true, abActive := true, abAlert := true })).mapHome 5
    (fun h => { h with revSteps := 4096, revErrs := 4 })).mapHome 6 (fun h => { h with revSteps := 4096 })).mapHome 7 (fun h => { h with halve := true })
/-- Bank 5 of channel 3 of the LPDDR memory has postponed eight. -/
def mLp : State := { m0 with pkg := { m0.pkg with lpPost := [(64 * 3 + 5, 8)] } }
def mLane : State := m0.setVbus 0 3 { m0.vbusAt 0 3 with fails := 3, lane := some 7 }
theorem witness_MemoryUpkeep : (mHot 0 true).homeAt 3 = { (mHot 0 true).homeAt 3 with waiting := [(9, false)], halve := false } ∧
    hotEntry ((mHot 0 true).homeAt 3).hot 9 = some (0, { queued := false, pending := false, count := 255, region := 9 }) ∧
    ((mHot 0 true).dieAt 0).hthresh.toNat ≤ min (255 + 1) 65535 ∧ ((mHot 0 true).dieAt 0).hthresh ≠ 0 ∧ ((mHot 0 true).dieAt 0).nq.length < 256 ∧
    256 ≤ ((mHot 256 true).dieAt 0).nq.length ∧ hotEntry ((mHot 0 false).homeAt 3).hot 9 = some (0, { queued := false, pending := false, count := 3, region := 9 }) ∧
    2 ^ fld ((mHot 0 false).dieAt 0).hsample 16 8 ≤ ((mHot 0 false).homeAt 3).samples + 1 ∧ fld ((mHot 0 false).dieAt 0).hsample 16 8 ≠ 0 ∧
    (mRef.homeAt 7).halve = true ∧ 128 ≤ ((mHot 128 true).dieAt 0).nq.length ∧ ((mHot 127 true).dieAt 0).nq.length < 128 ∧
    (m0.homeAt 511).fixed = false ∧ (m0.homeAt 511).fixedOn = false ∧ (m0.homeAt 511).stalls (lineOf (rowPa 511 393215)) = false ∧ (m0.homeAt 511).revSteps < 4096 ∧
    (m0.homeAt 511).hotRows.any (fun e => e.2.row.toNat == 393215) = false ∧
    (thas m0.hearth 5 && (m0.hearthAt 5).dirty) = false ∧ 4096 ≤ (mRef.homeAt 5).revSteps ∧ 4 ≤ (mRef.homeAt 5).revErrs ∧ (mRef.homeAt 6).revErrs = 0 ∧ (mRef.homeAt 5).fixedOn = false ∧ (63 : Nat) < 64 ∧ 8 ≤ (tget 0 mLp.pkg.lpPost (64 * 3 + 5)).toNat ∧
    4096 ≤ (mRef.homeAt 6).revSteps ∧ (mRef.homeAt 3).postponed 2 = 8 ∧ (mRef.homeAt 3).postponed 3 < 8 ∧ (mRef.homeAt 3).alerts.contains 2 = false ∧
    (mRef.homeAt 3).allBank = false ∧ (mRef.homeAt 4).abActive = true ∧ (mLane.vbusAt 0 3).disabled = false ∧ (mLane.vbusAt 0 3).fails = 3 ∧
    (mLane.vbusAt 0 3).steered = none := by
  decide +kernel

/-- A state with a dirty hearth line 5 and one L1 TLB entry of core 0. -/
def mErr : State :=
  { m0 with hearth := [(5, { line := 5, data := 7, dirty := true, poison := false })],
            cores := [(0, { Core.reset with tlb := [{ asid := 1, vpn := 2, size := 0, leaf := 0x4F, inMotion := false }] })] }
theorem witness_MemoryUpkeep_upsets : mErr.pkg.powered = true ∧ 3221225471 * 128 < hbmTop ∧ thas mErr.hearth 3221225471 = false ∧
    homeOf (3221225471 * 128) = 511 ∧ thas mErr.hearth 5 = true ∧ (mErr.hearthAt 5).dirty = true ∧ 5 * 128 < hbmTop ∧
    sramAssigned (mErr.coreAt 511) 0x7FFF8 = true ∧ 0 < (mErr.coreAt 0).tlb.length := by
  decide +kernel
/-- 10 R201: an uncorrectable error in a dirty L1 line poisons the home at write-back. -/
theorem test_bad_line : (({ mErr with cores := [(3, { Core.reset with l1 := [{ line := 9, data := 1, valid := 1, dirty := 1, poison := false, bad := false, hot := false, heap := false, way := 0 }] })] } : State).upset
    (.cache 3 9 false true none) |>.evictL1 3 9 |>.evictL2 3 9 |>.homePoison 9) = true := by
  decide +kernel

/-! ### The anvil -/

/-- A started command of opcode `op` at the head of anvil 0, whose active bank holds billet 0 and its shadow bank billet 1. -/
def started (op : Word) (w : List Word) : AnvilCmd := { cmd := cmdOf op w, stage := .started, reload := none, block := [], poisoned := [] }
def bank0 (id : BitVec 16) : Bank := { Bank.invalid with valid := true, id := id }
def mAnv (x : AnvilCmd) (a b : Bank) : State := m0.mapForge 0 (fun g => { g with execs := [x], active := a, shadow := b })
def mAp (n : Word) : State := mAnv (started 1 [n <<< 48, 0, 0]) (bank0 0) (bank0 1)
def mLd (n : Word) : State := mAnv (started 3 [0, n, 0]) (bank0 0) (bank0 1)
theorem witness_AnvilCommands :
    tcwOp (started 1 [0, 0, 0]).cmd.tcw = 1 ∧ ((mAp 0).forgeAt 0).active.holds (passBillet (started 1 [0, 0, 0]).cmd.tcw) = true ∧
    ((mAp 1).forgeAt 0).active.holds (passBillet (started 1 [1 <<< 48, 0, 0]).cmd.tcw) = false ∧ ((mAp 1).forgeAt 0).transfer = none ∧
    ((mAp 1).forgeAt 0).shadow.holds (passBillet (started 1 [1 <<< 48, 0, 0]).cmd.tcw) = true ∧
    ((mAp 2).forgeAt 0).active.holds (passBillet (started 1 [2 <<< 48, 0, 0]).cmd.tcw) = false ∧
    ((mAp 2).forgeAt 0).shadow.holds (passBillet (started 1 [2 <<< 48, 0, 0]).cmd.tcw) = false ∧ tcwOp (started 2 [0, 0, 0]).cmd.tcw = 2 ∧
    tcwOp (started 3 [0, 0, 0]).cmd.tcw = 3 ∧ loadForce (started 3 [0, 0, 0]).cmd.tcw = false ∧ (started 3 [0, 0, 0]).reload = none ∧
    ((mLd 0).forgeAt 0).active.holds (loadOf ((mLd 0).forgeAt 0) (started 3 [0, 0, 0]).cmd.tcw).1 = true ∧
    (((mLd 5).forgeAt 0).active.holds (loadOf ((mLd 5).forgeAt 0) (started 3 [0, 5, 0]).cmd.tcw).1 ||
      ((mLd 5).forgeAt 0).shadow.holds (loadOf ((mLd 5).forgeAt 0) (started 3 [0, 5, 0]).cmd.tcw).1) = false ∧
    tcwOp (started 4 [0, 0, 0]).cmd.tcw = 4 ∧ tcwOp (started 5 [0, 0, 0]).cmd.tcw = 5 ∧ tcwOp (started 6 [0, 0, 0]).cmd.tcw = 6 ∧
    ((mAnv (started 5 [0, 0, 0]) Bank.invalid Bank.invalid).forgeAt 0).active.valid = false ∧
    ((mAnv (started 5 [0, 0, 0]) (bank0 0) Bank.invalid).forgeAt 0).active.valid = true ∧ (tcwWord (started 5 [0, 0, 0]).cmd.tcw 0).getLsbD 32 = false ∧
    ((mAnv (started 5 [0, 0, 0]) (bank0 0) Bank.invalid).forgeAt (ringNext 0)).shadowFree = true ∧
    ((mAnv (started 6 [0, 0, 0]) (bank0 0) Bank.invalid).forgeAt 0).probe = .none ∧
    ((mAnv (started 6 [0, 0, 0]) (bank0 0) Bank.invalid).forgeAt 0).execs = started 6 [0, 0, 0] :: [] := by
  decide +kernel
/-- A pass of one vector whose result is not a number, at the drain of anvil 0. -/
def pass0 : PassResult :=
  { cmd := cmdOf 1 [0, 0, 0], colsum := false, nvec := 1, block := List.replicate 64 0, poisoned := [], codes := List.replicate 128 0, adc := [], tol := 0, gain := 0,
    esum := none, ew := 0, c := Vector.replicate 64 0, inj := 0, deb := 0, stale := false, fast := false, quench := false, billet := 0, seq := 1, written := 0 }
def mDrain : State := m0.mapForge 0 (fun g => { g with drains := [pass0], stale := false, driftLim := 4 })
def mXfer (code : Word) : State := m0.mapForge 0 (fun g =>
  { g with transfer := some { bank := bank0 3, cmd := none, code := code, reload := none }, bounds := [{ seq := 1, before := [9] }] })
def mHeld : State := m0.mapForge 0 (fun g => g.setHeld 0 [{ word := 5, ends := none, drop := false, freeze := none }])
def mStaged : State := (mAnv { started 1 [0, 0, 0] with stage := .staged } (bank0 0) (bank0 1)).mapForge 0 (fun g => { g with stale := false })
theorem witness_AnvilSteps : (mTaskCmd.coreAt 0).q0 ≠ [] ∧ (mTaskCmd.forgeAt 0).iftRun = false ∧ (mTaskCmd.forgeAt 0).execs.length < 4 ∧
    (mStaged.forgeAt 0).stale = false ∧ (mStaged.forgeAt 0).execs = { started 1 [0, 0, 0] with stage := .staged } :: [] ∧
    (mStaged.coreAt 0).anvinj.getLsbD 63 = false ∧
    (mDrain.forgeAt 0).drains = pass0 :: [] ∧ pass0.poisoned = [] ∧ pass0.cmd.unwound = false ∧ (drainPass pass0 mDrain.fresh).rowmask = 0 ∧
    (drainPass pass0 mDrain.fresh).colmask = 0 ∧ (mHeld.forgeAt 0).held (slotOf 0) = { word := 5, ends := none, drop := false, freeze := none } :: [] ∧ (mHeld.coreAt 0).cplRoom 0 = true ∧
    ((mXfer 0).forgeAt 0).transfer = some { bank := bank0 3, cmd := none, code := 0, reload := none } ∧
    ((mXfer 4).forgeAt 0).transfer = some { bank := bank0 3, cmd := none, code := 4, reload := none } ∧
    (∀ k ∈ [9], k ∉ (mXfer 0).undrained 0) ∧ ((mAp 0).forgeAt 0).active.valid = true ∧ ((mAp 0).forgeAt 0).probe = .none ∧
    ((m0.mapForge 0 (fun g => { g with probe := .reference false none })).forgeAt 0).probe = .reference false none ∧
    ((m0.mapForge 0 (fun g => { g with driftLim := 4, probe := .update true none 100 4 })).forgeAt 0).probe = .update true none 100 4 ∧
    (4 : BitVec 16) ≤ ((m0.mapForge 0 (fun g => { g with driftLim := 4 })).forgeAt 0).driftLim ∧ 100 ≤ (100 : BitVec 8).toNat ∧ (mDrain.forgeAt 0).stale = false := by
  decide +kernel

/-- The codes 0 keep every promise of a pass that drives no light: no row, and the check symbol of none. -/
theorem witness_AnvilSteps_codes : (∃ n < 2 ^ (640 * 0), codesOk 0 [] 0 (([] : List (List Int)).map (idealOutputs 0 0)) n = true) ∧
    ∃ n < 2 ^ (640 * 1), codesOk 0 [] 0 [idealOutputs 0 0 (checkSymbol [])] n = true := by
  have h : [idealOutputs 0 0 (checkSymbol [])] = [List.replicate 64 0] := by
    have e : checkSymbol [] = List.replicate 64 0 := by decide
    rw [e, idealOutputs, billetApply_zeros]
    decide
  refine ⟨⟨0, Nat.two_pow_pos (640 * 0), by decide +kernel⟩, ⟨0, by positivity, ?_⟩⟩
  rw [h]
  decide +kernel

/-! ### The engines, migration and saves -/

def slotCmd (op : Word) : Slot := { cmd := cmdOf op [0, 0, 0], todo := [], done := false, code := 0, aux := 0, dest := [] }
def mTongs (op : Word) : State := m0.mapDie 0 (fun d => { d with tongs := [(2, slotCmd op)] })
def mEnd : State := m0.mapDie 0 (fun d => { d with tongs := [(2, { slotCmd 0x20 with done := true })] })
def member (c : Nat) : CollMember := { cmd := { cmdOf 0x30 [0, 0, 0] with core := c }, todo := [], done := false, code := 0, dest := [] }
def mColl : State := { m0 with colls := [(0x30, [member 0, member 128])] }
/-- A gather of two members, cores 0 and 1, one word each, whose list lies in core 0's scratchpad. -/
def gather (c : Nat) : Cmd :=
  { cmdOf (0x31 + (2 <<< 32) + (BitVec.ofNat 64 c <<< 40)) [(1 <<< 48) + BitVec.ofNat 64 (lwb % 2 ^ 48 + 0x1000), (7 <<< 48) + BitVec.ofNat 64 (lwb % 2 ^ 48 + 0x2000),
      BitVec.ofNat 64 (lwb % 2 ^ 48)] with core := c }
def mGath : State :=
  { m0 with cores := [(0, { c0 with q4 := [gather 0] }), (1, { c0 with q4 := [gather 1] })], mem := [(sramBase 0 + 2, 1), (sramBase 1 + 2, 1)] }
def mGathBad : State := { m0 with cores := [(0, { c0 with q4 := [cmdOf 0x30 [0, 0, 0]] })] }
/-- A byte that has still to land, a command that has ended with an error and finds its completion queue full, and a collective operation under way. -/
def landing0 : Landing := { bytes := [(sramBase 0, 7)], units := [], attrs := [(sramBase 0 / 128, sramAttr)], tags := [] }
def mEndFull : State := (m0.mapDie 0 (fun d => { d with tongs := [(2, { slotCmd 0x20 with done := true, code := codeOf stBadop 0 0 })] })).mapCore 0 (fun c =>
  { c with cpl := Vector.replicate 4 { words := List.replicate 16 5, held := 0, reserved := 0 } })
def mQ6 : State := m0.mapCore 7 (fun c => { c with q6 := [cmdOf 0x10 [0, 0, 0]] })
def mQ2 : State := m0.mapCore 5 (fun c => { c with q2 := [cmdOf 0x20 [0, 0, 0]] })
theorem witness_EngineCommands : tfind ((mTongs 0x24).dieAt 0).tongs 2 = some (slotCmd 0x24) ∧ tcwOp (slotCmd 0x24).cmd.tcw = 0x24 ∧
    tfind ((m0.mapDie 0 (fun d => { d with swage := [(0, slotCmd 0x10)] })).dieAt 0).swage 0 = some (slotCmd 0x10) ∧ tcwOp (slotCmd 0x10).cmd.tcw = 0x10 ∧
    freeSlot 16 (mQ2.dieAt 0).tongs = some 0 ∧
    (roundRobin 0 (mQ2.dieAt 0).rrTongs).find? (fun a => mQ2.headStarts a 1 4 (mQ2.dieAt 0).tongs) = some 5 ∧
    (mQ2.coreAt 5).q2 = cmdOf 0x20 [0, 0, 0] :: [] ∧
    ((mTongs 0x24).mapDie 0 (fun d => { d with tongs := [(2, { slotCmd 0x24 with todo := [landing0] })] }) |>.dieAt 0 |>.tongs) = [(2, { slotCmd 0x24 with todo := [landing0] })] ∧
    freeSlot 2 (mQ6.dieAt 0).swage = some 0 ∧
    (roundRobin 0 (mQ6.dieAt 0).rrSwage).find? (fun a => mQ6.headStarts a 3 1 (mQ6.dieAt 0).swage) = some 7 ∧
    (mQ6.coreAt 7).q6 = cmdOf 0x10 [0, 0, 0] :: [] ∧
    tfind (mEnd.dieAt 0).tongs 2 = some { slotCmd 0x20 with done := true } ∧ wantsWord (slotCmd 0x20).cmd.tcw 0 = false ∧ (slotCmd 0x20).cmd.unwound = false ∧
    wantsWord (slotCmd 0x20).cmd.tcw (codeOf stBadop 0 0) = true ∧ (mEndFull.coreAt 0).cplRoom ((engOf (tcwOp (slotCmd 0x20).cmd.tcw)).getD 0) = false ∧
    tfind (mEndFull.dieAt 0).tongs 2 = some { slotCmd 0x20 with done := true, code := codeOf stBadop 0 0 } := by
  decide +kernel
theorem witness_EngineCommands_collective :
    mColl.colls[0]? = some (0x30, member 0 :: [member 128]) ∧ (∀ y ∈ member 0 :: [member 128], y.todo = []) ∧
    ({ m0 with colls := [(0x30, [member 0, { member 128 with todo := [landing0] }])] } : State).colls[0]? =
      some (0x30, [member 0] ++ { member 128 with todo := [landing0] } :: []) ∧ m0.collTurn 0 ≠ some 0 ∧
    mGathBad.collTurn (dieOf 0) = some 0 ∧ mGath.collTurn (dieOf 0) = some 0 ∧ (member 0 :: [member 128]).any CollMember.done = false ∧
    dieOf (member 128).cmd.core ≠ dieOf (member 0).cmd.core ∧ (mGathBad.coreAt 0).q4 = cmdOf 0x30 [0, 0, 0] :: [] ∧
    mGathBad.collReady (cmdOf 0x30 [0, 0, 0]) = true ∧ collOk (cmdOf 0x30 [0, 0, 0]).tcw = false ∧
    collOk (gather 0).tcw = true ∧ mGath.collReady (gather 0) = true ∧ collAgree (gather 0).tcw (gather 1).tcw = true ∧ collOk (gather 1).tcw = true ∧
    (match mGath.readList (gather 0) with
      | .ok (s1, k1, l) => k1 == gather 0 && l == [0, 1] && listOk k1 l &&
        (l.filterMap (fun m => ((s1.coreAt m).q4.head?).filter (fun x =>
          tcwOp x.tcw == tcwOp k1.tcw && collId x.tcw == collId k1.tcw && s1.collReady x)) == [gather 0, gather 1]) &&
        ((s1.readLists [gather 0, gather 1]).2 == [(gather 0, [0, 1]), (gather 1, [0, 1])])
      | .error _ => false) = true := by
  decide +kernel

/-- HBM is trained, context 0 of die 0 is live with its tables at 0, and the leaf of VA 0 maps 0x100000, writable. -/
def mMap : State :=
  { m0 with
    dies := [(0, { Die.reset with vbusok := 1, ctxs := [(0, (Vector.replicate 8 0).set 0 1)] })],
    mem := [(0, 1), (1, 0x10), (0x1000, 1), (0x1001, 0x20), (0x2000, 1), (0x2001, 0x30), (0x3000, 7), (0x3002, 0x10)] }
def mMig (w : List Word) : State := mMap.mapDie 0 (fun d => { d with migPort := { d.migPort with queue := [cmdOf (nth 0 w 0) (w.drop 1)] } })
def move0 (phase : BitVec 2) : MigEntry :=
  { phase := phase, size := 0, asid := 0, va := 0, src := 0x100000, dst := 0x200000, next := 0, pois := 0, leafPa := 0x3000, leaf := 0x100007,
    cmd := cmdOf 0x40 [0, 0x200000, 0], evac := none, ended := none }
def mMove (phase : BitVec 2) (w : List Word) : State := (mMig w).mapDie 0 (fun d => { d with migs := [(0, move0 phase)] })
/-- The home of its leaf can not serve it now. -/
def mFlight : State := (mMove 1 []).mapHome (homeOf 0x3000) (fun h => { h with allBank := true })
/-- Every entry of the migration table in use, far away. -/
def mBusyMoves : State := (mMig [0x40, 0, 0x200000, 0]).mapDie 0 (fun d => { d with migs := tab (fun k => (k, { move0 0 with src := 0x10000000 })) 0 64 })
def startsOf (s : State) : Nat :=
  match s.startMove 0 0 0x200000 (cmdOf 0x40 [0, 0x200000, 0]) none with | .moves _ => 0 | .fails _ => 1 | .wait => 2
theorem witness_Migration : tcwOp (cmdOf 0x40 [0, 0x200000, 0]).tcw = 0x40 ∧ migOk (cmdOf 0x40 [0, 0x200000, 0]).tcw = true ∧
    migOk (cmdOf 0x40 [0, 0, 1]).tcw = false ∧ ((mMig [0x40, 0, 0x200000, 0]).dieAt 0).migPort.queue = [cmdOf 0x40 [0, 0x200000, 0]] ∧
    ((mMig [0x40, 0, 0x200000, 0]).dieAt 0).migEnded = [] ∧
    startsOf ((mMig [0x40, 0, 0x200000, 0]).migPop 0) = 0 ∧ startsOf m0 = 1 ∧ startsOf (mBusyMoves.migPop 0) = 2 ∧
    tcwOp (cmdOf 0x41 [0, 0, 0]).tcw = 0x41 ∧ migOk (cmdOf 0x41 [0, 0, 0]).tcw = true ∧
    findMove ((mMove 0 [0x41, 0, 0, 0]).dieAt 0).migs (tcwF (cmdOf 0x41 [0, 0, 0]).tcw 1 48 9) (tcwF (cmdOf 0x41 [0, 0, 0]).tcw 1 0 48) = some (0, move0 0) ∧
    findMove ((mMig [0x41, 0, 0, 0]).dieAt 0).migs 0 0 = none ∧ tcwOp (cmdOf 0x42 [0, 0, 1]).tcw = 0x42 ∧ migOk (cmdOf 0x42 [0, 0, 1]).tcw = true ∧
    ((mMig [0x42, 0, 0, 1]).dieAt 0).evacs = [] ∧ tfind ((mMove 0 []).dieAt 0).migs 0 = some (move0 0) ∧ (move0 0).next < migBytes (move0 0) / 128 ∧
    (mMove 0 []).reachable (move0 0).src = true ∧ (mMove 0 []).reachable (move0 0).dst = true ∧
    (mMove 0 []).gone (move0 0).src = false ∧ (mMove 0 []).gone (move0 0).dst = false ∧
    (mMove 0 []).linkDown (move0 0).dst = false ∧ (mMove 0 []).lostHome ((move0 0).dst / 128 + (move0 0).next) = false ∧
    (mMove 0 []).homeHeld ((move0 0).src / 128 + (move0 0).next) = false ∧ (mMove 0 []).homeHeld ((move0 0).dst / 128 + (move0 0).next) = false ∧
    (∀ p ∈ (mMove 0 []).pushes, p.line ≠ (move0 0).src / 128 + (move0 0).next) ∧ (move0 0).next + 1 ≠ migBytes (move0 0) / 128 ∧
    ({ move0 0 with next := 31 } : MigEntry).next + 1 = migBytes (move0 0) / 128 ∧ (move0 1).ended = none ∧
    (mMove 1 []).landAll.moveInFlight (move0 1) = false ∧ (mFlight.landAll.moveInFlight (move0 1)) = true := by
  decide +kernel
theorem mMove_clean (a : Nat) : (mMove 0 []).coreAt a = if a = 0 then c0 else Core.reset := by
  show tget Core.reset [(0, c0)] a = _
  simp only [tget]
  by_cases h : 0 = a
  · rw [if_pos h, if_pos h.symm]
  · rw [if_neg h, if_neg (Ne.symm h)]
/-- So no cache holds a dirty line of the page that moves. -/
theorem witness_Migration_clean : ∀ a x, x ∈ ((mMove 0 []).coreAt a).l1 ++ ((mMove 0 []).coreAt a).l2 →
    x.line = (move0 0).src / 128 + (move0 0).next → x.dirty = 0 := by
  intro a x h
  rw [mMove_clean] at h
  split at h <;> exact nomatch h
/-- A save command at the head of die 0's queue, for core 0, free or with the task of entry 0. -/
def mSave (c : Core) (w : List Word) : State :=
  { mMap with cores := [(0, c)] }.mapDie 0 (fun d => { d with savePort := { d.savePort with queue := [cmdOf (nth 0 w 0) (w.drop 1)] } })
def cTask (st : Status) : Core := { c0.setEntry 0 { WttEntry.empty with state := .running } with bound := some (0, 0), status := st }
def cStop : Core := { cTask .running with forced := true }
def cSaved : Core := { cTask .running with save := some { kind := 1, pc := 0, yield := false, cmds := [] } }
def sv (mode : Word) : Cmd := cmdOf 0x48 [mode <<< 8, 0, 0]
theorem witness_Save_modes : (tcwOp (sv 0).tcw = 0x48 ∧ saveOk (sv 0).tcw = true ∧ tcwF (sv 0).tcw 1 8 2 = 0 ∧ 0 = 128 * 0 + tcwF (sv 0).tcw 1 0 7) ∧
    (saveOk (sv 1).tcw = true ∧ tcwF (sv 1).tcw 1 8 2 = 1) ∧ saveOk (sv 2).tcw = true ∧ tcwF (sv 2).tcw 1 8 2 = 2 := by
  decide +kernel
theorem witness_Save : ((mSave c0 [0x48, 0, 0, 0]).coreAt 0).bound = none ∧ ((mSave c0 [0x48, 0, 0, 0]).dieAt 0).saveEnded = [] ∧
    ((mSave (cTask .running) [0x48, 0, 0, 0]).coreAt 0).bound = some (0, 0) ∧ ((mSave (cTask .running) [0x48, 0, 0, 0]).coreAt 0).status = .running ∧
    ((mSave (cTask (.frozen 5)) [0x48, 0, 0, 0]).coreAt 0).status = .frozen 5 ∧ ((mSave (cTask (.frozen 5)) [0x48, 0, 0, 0]).coreAt 0).crdepth = 0 ∧
    (mSave (cTask (.frozen 5)) [0x48, 0, 0, 0]).boundCores 0 0 = [0] ∧ ((mSave (cTask (.frozen 5)) [0x48, 0, 0, 0]).coreAt 0).save = none ∧
    tcwOp (cmdOf 0x49 [0, 0, 0]).tcw = 0x49 ∧ saveOk (cmdOf 0x49 [0, 0, 0]).tcw = true ∧ tcwF (cmdOf 0x49 [0, 0, 0]).tcw 2 0 52 % 16384 = 0 ∧
    ((mSave { c0 with status := .idle } [0x49, 0, 0, 0]).coreAt 0).status = .idle ∧
    ((mSave { c0 with status := .idle } [0x49, 0, 0, 0]).savePop 0).imgOk (tcwF (cmdOf 0x49 [0, 0, 0]).tcw 2 0 52) = none ∧
    (mSave cStop []).stopsHere 0 = true ∧ (mSave cSaved []).stopsHere 0 = false ∧ ((mSave cSaved []).coreAt 0).bound = some (0, 0) ∧
    ((mSave cSaved []).boundCores 0 0).all (mSave cSaved []).saveReady = true ∧
    ((mSave { cSaved with q2 := [cmdOf 0x20 [0, 0, 0]] } []).boundCores 0 0).all (mSave { cSaved with q2 := [cmdOf 0x20 [0, 0, 0]] } []).saveReady = false := by
  decide +kernel

/-! ### The scheduler -/

def entryOf (st : WttState) (w0 w2 : Word) : WttEntry := { WttEntry.empty with state := st, image := #v[w0, 0, w2, 0, 0, 0, 0] }
/-- Core 0 is idle with one entry; `gangImage` names slots 0 and 1. -/
def mSched (e : WttEntry) : State := { mMap with cores := [(0, { c0.setEntry 0 e with status := .idle })] }
def gangImage (st : WttState) : WttEntry := { entryOf st 0 (3 <<< 40) with asked := some 0 }
def mRes (st : WttState) : State :=
  { (mSched (gangImage st)).mapForge 0 (fun g => { g with gangRes := some (0, 0) }) with
    cores := [(0, { c0.setEntry 0 (gangImage st) with status := .idle, reserved := some (.gang 0 0) }), (1, { c0 with status := .idle, reserved := some (.gang 0 0) })] }
def launch0 : Launch := { image := Vector.replicate 8 0, cores := [0, 1], all := [0, 1], idx := 3, team := 1, costart := false }
/-- A team of core 0 alone, whose copy is eligible and reserved. -/
def mTeam : State :=
  { mSched (entryOf .eligible (1 <<< 61) (1 <<< 48)) with
    cores := [(0, { c0.setEntry 0 (entryOf .eligible (1 <<< 61) (1 <<< 48)) with status := .idle, reserved := some (.team 1) })],
    pkg := { m0.pkg with teams := [{ id := 1, cores := [0], idx := 0 }] } }
/-- A running task asked by a supervisor to yield, with a budget. -/
def mLate : State := mTask.mapCore 0 (fun c => { c with supv := true, preBudget := 5 })
theorem witness_Scheduling : wttReady ((mSched (entryOf .eligible 0 0)).coreAt 0 |>.entry 0) = true ∧ ((mSched (entryOf .eligible 0 0)).coreAt 0).free = true ∧
    (mSched (entryOf .eligible 0 0)).selection 0 = some 0 ∧ (mSched (entryOf .eligible 0 0)).gangOver 0 = none ∧
    ((mSched (entryOf .eligible 0 0)).forgeAt (forgeOf 0)).iftWant = false ∧ imageGmask (entryOf .eligible 0 0).image = 0 ∧
    (mSched (entryOf .eligible 0 0)).teamCopy 0 = none ∧ ((mSched (entryOf .eligible 0 0)).ctxEntry (dieOf 0) (imageAsid (entryOf .eligible 0 0).image))[0].getLsbD 0 = true ∧
    (mSched (entryOf .preempted 0 0)).selection 0 = some 0 ∧ ((mSched (gangImage .eligible)).forgeAt 0).gangRes = none ∧
    (mSched (gangImage .eligible)).gangPick 0 = some (0, 0) ∧ ((mRes .eligible).forgeAt 0).gangRes = some (0, 0) ∧
    (∀ a ∈ taskCores 0 (gangImage .eligible), ((mRes .eligible).coreAt a).reserved = some (.gang 0 0)) ∧
    (∀ a ∈ taskCores 0 (gangImage .preempted), ((mRes .preempted).coreAt a).reserved = some (.gang 0 0)) ∧
    0 ∈ launch0.cores ∧ launch0.idx < 32 ∧ wttOpen ((m0.coreAt 0).entry launch0.idx) = true ∧ launch0.costart = false ∧
    mTeam.pkg.teams = [{ id := 1, cores := [0], idx := 0 }] ∧ (∀ a ∈ [0], (mTeam.coreAt a).reserved = some (.team (1 : BitVec 16).toNat) ∧ mTeam.teamCopy a ≠ none) ∧
    mLate.pend 0 = true ∧ (mLate.coreAt 0).overdue = false ∧ (mLate.coreAt 0).preBudget ≠ 0 := by
  decide +kernel

/-! ### Outside the cores -/

def mIsl (f : Island → Island) : State := m0.mapIsland 0 3 f
theorem witness_PowerAndHeat :
    ((m0.mapForge 1 (fun f => { f with iftWant := true })).forgeAt 1).iftWant = true ∧ ((m0.mapForge 1 (fun f => { f with iftWant := true })).forgeAt 1).iftRun = false ∧
    ((m0.mapForge 1 (fun f => { f with iftWant := true })).forgeAt 1).gangRes = none ∧ (∀ a ∈ [8, 9, 10, 11, 12, 13, 14, 15], (m0.coreAt a).testable = true) ∧
    ((m0.mapForge 1 (fun f => { f with iftRun := true, iftIvl := 5 })).forgeAt 1).iftRun = true ∧ ((m0.mapForge 1 (fun f => { f with iftRun := true, iftIvl := 5 })).forgeAt 1).iftIvl ≠ 0 ∧
    ((mIsl (fun i => { i with relock := true })).islandAt 0 3).relock = true ∧ ((mIsl (fun i => { i with vfix := true })).islandAt 0 3).vfix = true ∧
    ((mIsl (fun i => { i with droop := false, stretch := false })).islandAt 0 3).droop = false ∧ ((mIsl (fun i => { i with droop := true })).islandAt 0 3).droop = true ∧
    ((mIsl (fun i => { i with droop := false, stretch := false })).islandAt 0 3).stretch = false ∧
    100 ≤ (100 : BitVec 8).toNat ∧ ((mIsl (fun i => { i with hot := false })).islandAt 0 3).hot = false ∧ ((mIsl (fun i => { i with hot := true })).islandAt 0 3).hot = true ∧
    (96 : BitVec 8).toNat < 97 ∧ 97 ≤ (97 : BitVec 8).toNat ∧ 95 ≤ (95 : BitVec 8).toNat ∧ (89 : BitVec 8).toNat < 90 ∧
    ({ m0 with pkg := { m0.pkg with hold := true } } : State).pkg.hold = true ∧ (1500 : BitVec 16).toNat ≤ m0.pkg.pwrcap.toNat ∧
    m0.pkg.pwrcap.toNat < (1501 : BitVec 16).toNat ∧ m0.pkg.pwrcap.toNat * 95 ≤ (1425 : BitVec 16).toNat * 100 ∧ (1424 : BitVec 16).toNat * 100 < m0.pkg.pwrcap.toNat * 95 := by
  decide +kernel
/-- A boot that finds these images. -/
def bootOf (a b : Option ImageHeader) : BootInputs := { BootInputs.plain with slotA := a, slotB := b }
def unsignedImage : ImageHeader := { ImageHeader.plain with signed := false }
def mCmds (l : List PkgCmd) : State := { m0 with pkg := { m0.pkg with cmds := l } }
def mHeldReset : State := { m0 with pkg := { m0.pkg with hold := true, resetAsked := some BootInputs.plain } }
theorem witness_BootsAndCommands : m0.pkg.bootNext = 0 ∧ m0.pkg.fwctl = false ∧ m0.pkg.slotImage[0] = none ∧ m0.pkg.slotImage[1] = none ∧
    (bootOf none none).trained = 0xFF ∧ (bootOf none none).failForges = [] ∧ (bootOf none none).lostHomes = [] ∧ (bootOf none none).vbus = [] ∧
    (bootOf none none).slotA = none ∧ (bootOf none none).slotB = none ∧ m0.pkg.hold = false ∧ m0.pkg.cmds = [] ∧ m0.pkg.atf = [] ∧
    (∀ k ∈ ([1, 2, 3, 4, 5] : List (BitVec 4)), (mCmds [.host k (Vector.replicate 4 0)]).pkg.cmds = [.host k (Vector.replicate 4 0)]) ∧
    (mCmds [.readFeat]).pkg.cmds ≠ [] ∧ m0.pkg.bootStage = 0 ∧ ({ m0 with pkg := { m0.pkg with bootStage := 6 } } : State).pkg.bootStage ≠ 0 ∧
    m0.pkg.powered = true ∧ ¬(1 ≤ (0 : BitVec 8).toNat ∧ (0 : BitVec 8).toNat ≤ 5 ∨ (0 : BitVec 8) = 0x10) ∧
    ¬(1 ≤ (6 : BitVec 8).toNat ∧ (6 : BitVec 8).toNat ≤ 5 ∨ (6 : BitVec 8) = 0x10) ∧ mHeldReset.pkg.hold = true := by
  decide +kernel
/-- The images of the boot clauses: a good one, and one without its signature. An image of an older version is there where the fused
version is not 0. -/
theorem witness_BootsAndCommands_images : (bootOf (some ImageHeader.plain) none).slotA = some ImageHeader.plain ∧ ImageHeader.plain.signed = true ∧
    ImageHeader.plain.key = Config.fusedKey ∧ Config.fusedSvn.toNat ≤ ImageHeader.plain.svn.toNat ∧
    (bootOf (some unsignedImage) (some unsignedImage)).slotB = some unsignedImage ∧ unsignedImage.signed = false ∧
    (Config.fusedSvn ≠ 0 → ∃ h : ImageHeader, h.signed = true ∧ h.key = Config.fusedKey ∧ h.svn.toNat < Config.fusedSvn.toNat) := by
  refine ⟨rfl, rfl, rfl, Nat.le_refl _, rfl, rfl, fun h => ⟨{ ImageHeader.plain with svn := 0 }, rfl, rfl, ?_⟩⟩
  exact Nat.pos_of_ne_zero (fun e => h (BitVec.eq_of_toNat_eq e))

/-- Die 0's migration queue is full, a completion word waits, and every supervisor has an accepted TCW staged but for its last word. -/
def mPort (n : Nat) (cpl : List Word) (op : Word) : State := m0.mapDie 0 (fun d =>
  { d with migPort := { stage := Vector.replicate 9 #v[op, 0, 0], queue := List.replicate n (cmdOf 0x40 [0, 0, 0]), cpl := cpl }, nq := cpl })
/-- A save port that is full. -/
def mSaveStage : Die :=
  { Die.reset with savePort := { stage := Vector.replicate 9 #v[0x48, 0, 0], queue := List.replicate 4 (cmdOf 0x48 [0, 0, 0]), cpl := [7] } }
/-- Expander 0 of port 0, with a dirty hearth line of it in `mGone`. -/
def mCxl : State := { m0 with pkg := { m0.pkg with hdm := [(0, { base := cxlBase, len := 2 ^ 30, expander := 0 })] } }
def mGone : State := { mCxl with hearth := [(cxlBase / 128, { line := cxlBase / 128, data := 0, dirty := true, poison := false })] }
def mAtf (retrain : Bool) (failed : BitVec 2) : State := m0.setAtf 2 { AtfPort.reset with up := true, retrain := retrain, failed := failed }
def mReply : State := { mAtf false 0 with atomics := [{ atomic0 with remote := true }] }
def mWtt (st : WttState) : State := m0.mapCore 0 (fun c => c.setEntry 3 (entryOf st 0 0))
theorem witness_HostPort : m0.pkg.hostUp = true ∧ m0.pkg.hostWrites = [] ∧ evSelector 0x6100 = none ∧ (m0.mmioWrite none 0x6100 5).isSome = true ∧
    (mPort 16 [] 0x40).mmioWrite none 0x4018 0 = none ∧ m0.storageAt 0x100 8 = false ∧ mMap.storageAt 0x100 8 = true ∧ mMap.pushes = [] ∧
    mMap.storageAt 0x100 8 = true ∧ 0x100 / 128 = (0x100 + 8 - 1) / 128 ∧
    ((mMap.hearth.map Prod.fst).filter (fun x => homeOf (lineBase x) == homeOf 0x100)).length < 16 ∧ canonAddr 0x103 = 0x103 ∧ isPeer 0x103 = false ∧
    ({ m0 with pkg := { m0.pkg with hostUp := false } } : State).pkg.hostUp = false ∧
    ({ m0 with pkg := { m0.pkg with hostWrites := [{ bar := .bar2, off := 0, data := [1, 2, 3, 4] }] } } : State).pkg.hostWrites ≠ [] ∧
    mCxl.pkg.hdm = [(0, { base := cxlBase, len := 2 ^ 30, expander := 0 })] ∧ mCxl.pkg.cxlGone.contains (0 * 4 + 0) = false ∧ mCxl.hearth = [] ∧
    mGone.hearth = [(cxlBase / 128, { line := cxlBase / 128, data := 0, dirty := true, poison := false })] ∧
    within (cxlBase / 128 * 128) cxlBase (2 ^ 30) = true ∧ ((mAtf false 0).atfAt 2).up = true ∧ ((mAtf false 0).atfAt 2).retrain = false ∧
    mReply.atomics = [{ atomic0 with remote := true }] ∧ amoReduces atomic0.fn = false ∧ atomic0.dropped = false ∧ atomic0.accepted = false ∧ m0.storageAt 0x100 (amoSize 1) = false ∧ ((mAtf true 2).atfAt 2).held = [] ∧ ((mAtf true 0).atfAt 2).retrain = true ∧
    ((mAtf true 0).atfAt 2).failed.toNat < 2 ∧ 2 ≤ ((mAtf true 2).atfAt 2).failed.toNat ∧ ((mAtf true 2).atfAt 2).buffer = [] ∧
    wttOpen ((m0.coreAt 0).entry 3) = true ∧ imageOk 0 ((m0.coreAt 0).entry 3).image = true ∧ imageOk 0 (entryOf .free 1 0).image = false ∧
    ((mWtt .eligible).coreAt 0).entry 3 = entryOf .eligible 0 0 ∧ ((mWtt .running).coreAt 0).entry 3 = entryOf .running 0 0 ∧
    ((mWtt .cancelled).coreAt 0).entry 3 = entryOf .cancelled 0 0 := by
  decide +kernel
theorem mMap_homes (d h : Nat) : (mMap.dieAt d).migs = [] ∧ (mMap.homeAt h).degraded = false ∧ mMap.bypassed h = false := by
  have h1 : (mMap.dieAt d).migs = [] := by
    show (tget Die.reset mMap.dies d).migs = []
    simp only [mMap, tget]
    split <;> rfl
  refine ⟨h1, rfl, ?_⟩
  have h2 : (mMap.dieAt (h / 128)).vbus = [] := by
    show (tget Die.reset mMap.dies (h / 128)).vbus = []
    simp only [mMap, tget]
    split <;> rfl
  simp only [State.bypassed, h2, List.find?_nil]
theorem witness_HostPort_ports : ((mPort 3 [7] 0x40).dieAt 0).savePort.queue.length < 4 ∧ ((mPort 3 [7] 0x40).dieAt 0).savePort.cpl = [] ∧
    tcwAccepted 5 (tcwOf ((nth (Vector.replicate 3 0) mSaveStage.savePort.stage.toList (512 - 512)).toList ++ [0])) = true ∧
    tcwAccepted 5 (tcwOf ((nth (Vector.replicate 3 0) ((mPort 3 [7] 0x40).dieAt 0).savePort.stage.toList (512 - 512)).toList ++ [0])) = false ∧
    4 ≤ mSaveStage.savePort.queue.length ∧ mSaveStage.savePort.cpl = 7 :: [] ∧ ((mPort 3 [7] 0x40).dieAt 0).migPort.queue.length < 16 ∧ 16 ≤ ((mPort 16 [7] 0x40).dieAt 0).migPort.queue.length ∧
    tcwAccepted 4 (tcwOf ((nth (Vector.replicate 3 0) ((mPort 3 [7] 0x40).dieAt 0).migPort.stage.toList (512 - 512)).toList ++ [0])) = true ∧
    tcwAccepted 4 (tcwOf ((nth (Vector.replicate 3 0) ((mPort 3 [7] 0).dieAt 0).migPort.stage.toList (512 - 512)).toList ++ [0])) = false ∧
    ((mPort 3 [7] 0x40).dieAt 0).migPort.cpl = 7 :: [] ∧ ((mPort 3 [7] 0x40).dieAt 0).migPort.cpl.length < 32 ∧ ((mPort 3 [7] 0x40).dieAt 0).nq = 7 :: [] ∧
    (m0.dieAt 0).nq = [] ∧ m0.cur < 512 ∧ m0.core.scoreboard = [] ∧ (m0.forgeAt (forgeOf m0.cur)).evWait = [] ∧ m0.core.wait = none ∧
    m0.ready (Plan.memory [] [sR 3] 0) = true ∧ (mEv.forgeAt 0).evAt 8 ≠ 0 ∧ m0.ready (Plan.memory [] [] 0) = true ∧
    (m0.coreAt 0).bound = none ∧ (mTask.coreAt 0).bound ≠ none ∧ (5 : Word).toNat % 16 ≠ (m0.coreAt 0).l1sz.toNat ∧ (m0.coreAt 0).l1 = [] := by
  decide +kernel

/-! ### The machine as a whole -/

theorem witness_RegistersAndMemory : Memory.wf [(3, 1), (9, 2)] = true ∧ (1 : BitVec 5) ≠ 0 ∧ (2 : BitVec 5) ≠ 1 ∧ (1 : BitVec 3) ≠ 0 ∧ (2 : BitVec 3) ≠ 1 ∧
    (2 : BitVec 2) ≠ 1 := by decide
/-- Two cells of memory, whose core's next word is a NOP. -/
theorem witness_MemoryStaysCanonical : ({ m0 with mem := [(3, 1), (9, 2)] } : State).mem.wf = true ∧
    (match exec .nop { m0 with mem := [(3, 1), (9, 2)] } with | .next t => t.mem.wf | _ => false) = true ∧
    (match step { m0 with mem := [(3, 1), (9, 2)] } with | .next t => t.mem.wf | _ => false) = true := by
  decide +kernel
theorem witness_DecodeEncodesBack : (Instr.add 5 6 7).wf = true ∧ encode (.add 5 6 7) = some 0x04A63800 ∧ decode 0x04A63800 = .ok (.add 5 6 7) ∧
    0x36 ≤ (0xD8000000 : IWord).toNat / 2 ^ 26 ∧ (0xF8000000 : IWord).toNat / 2 ^ 26 < 0x3F ∧ (0xFC000001 : IWord).toNat / 2 ^ 26 = 0x3F := by
  decide
/-- An ADD where core 0 fetches next after reset. -/
def mWord : State := State.reset.withFetchWord 32 0x04A63800
def uWord : State := { mWord.elapse.nextTurn.2 with cur := 0, leave := false }
def tWord (p : FetchPlace) : State := (uWord.tlbFill (dieOf 0) (some 0) (uWord.ctxOf 0).asid p.fills).mapCore 0 (fun c => { c with fetched := [p.page] })
theorem witness_StepRunsDecodedWord : (false, mWord.elapse.nextTurn.1) ∈ [(false, Turn.core 0), (true, .issue 0)] ∧ uWord.stalled 0 = false ∧
    uWord.core.save = none ∧ uWord.stopsHere 0 = false ∧ uWord.core.status = .running ∧ uWord.core.ahead = none ∧ uWord.core.unwinding = none ∧
    uWord.core.scoreboard.filter SbEntry.due = [] ∧ uWord.gangHolds 0 = false ∧
    (match uWord.fetchAt 0 uWord.core.regs.pc with
      | .ok p => p.fills == [] && decide ((tWord p).loadCells 0 p.cells = ([0x00, 0x38, 0xA6, 0x04], false)) &&
        ((linesOf p.cells).map Prod.fst).all (fun x => !uWord.homeHeld x || uWord.core.holdsLine x) &&
        !uWord.touchHeld 0 (some 0) ((linesOf p.cells).map Prod.fst)
      | .error _ => false) = true ∧
    decode (wordOf [0x00, 0x38, 0xA6, 0x04]) = .ok (.add 5 6 7) := by
  decide +kernel
theorem witness_FaultEntry : (m0.coreAt 0).chunk = none ∧ (m0.coreAt 0).closed = [] ∧ (m0.coreAt 0).ahead = none ∧
    m0.pushes.any (fun p => p.agent == 0) = false ∧ (m0.dieAt (dieOf 0)).rings.toList.all (fun r => !r.base.getLsbD 0) = true ∧
    (m0.dieAt (dieOf 0)).packets.length < 32 := by
  decide +kernel

/-! ### The same, for further clauses -/

/-- s4 holds a descriptor: a word and an arrival of barrier 3 at core 1; s5 the same without the word, s6 without the arrival. -/
def mRedirect : State := m0.mapCore 0 (fun c => { c with regs := { c.regs with s := ((c.regs.s.set 4 0xC003010000000008).set 5 0x4003010000000000).set 6 0x8000010000000008 } })
theorem mRedirect_still : mRedirect.still := by
  refine ⟨⟨?_, rfl⟩, by decide⟩
  intro b
  show (tget Core.reset [(0, mRedirect.core)] b).chunk = none ∧ (tget Core.reset [(0, mRedirect.core)] b).closed = []
  simp only [tget]
  split <;> exact ⟨rfl, rfl⟩
theorem witness_Atomics_redirected : mRedirect.cur < 512 ∧ mRedirect.still ∧ mRedirect.ready (alonePlan [sR 1, sR 2, sR 4] [] 2) = true ∧
    mRedirect.ownWord (mRedirect.core.readS 1) 8 (sramBase 0) ∧ mRedirect.atomics = [] ∧ mRedirect.deliveries = [] ∧
    (∀ x ∈ [mRedirect.core.readS 4, mRedirect.core.readS 5, mRedirect.core.readS 6], x ≠ 0 ∧ (x.getLsbD 63 || x.getLsbD 62) = true ∧
      x.toNat / 2 ^ 53 % 512 = 0 ∧ x.getLsbD 47 = false ∧ x.toNat / 2 ^ 22 % 2 ^ 18 = 0 ∧ x.toNat % 8 = 0 ∧ x.toNat / 2 ^ 40 % 128 = 1) ∧
    sramAssigned (mRedirect.coreAt 1) 8 = true ∧ (mRedirect.core.readS 5).getLsbD 63 = false ∧ (mRedirect.core.readS 6).getLsbD 62 = false ∧
    (mRedirect.core.readS 4).toNat / 2 ^ 48 % 32 = 3 := by
  refine ⟨by decide, mRedirect_still, by decide, ⟨0, by unfold State.ownScratch; decide +kernel, rfl, rfl, rfl⟩, rfl, rfl, ?_, by decide, by decide, by decide, by decide⟩
  simp only [List.mem_cons, List.not_mem_nil, or_false, forall_eq_or_imp, forall_eq]
  decide +kernel
/-- The page of VA 0 is package 5's, by the stripe table, `window` where a switch reduces it; s4 is 8. -/
def mPeerPage (window : Bool) : State :=
  { (m0.mapDie 0 (fun d => { d with stripes := [(0, #v[if window then 0xC000000000000000 else 0x8000000000000000, 0, 0, 5, 0, 0, 0, 0])] })) with
    cores := [(0, { c0 with views := some [], tlb := [{ asid := 0, vpn := 0, size := 0, leaf := 0x187, inMotion := false }] })],
    pkg := { m0.pkg with atfin := true, atf := [(2, { AtfPort.reset with up := true })] } }
def remoteOf (window : Bool) (fn : BitVec 7) : Bool :=
  match (mPeerPage window).between.amoAccept fn 0 ((mPeerPage window).core.readS 2) with | .ok (u, _, _, r, w) => r && w == window && u.pkg.fabricUp | .error _ => false
theorem mPeerPage_still (w : Bool) : (mPeerPage w).still := by
  refine ⟨⟨?_, rfl⟩, by cases w <;> decide⟩
  intro b
  show (tget Core.reset [(0, (mPeerPage w).core)] b).chunk = none ∧ (tget Core.reset [(0, (mPeerPage w).core)] b).closed = []
  simp only [tget]
  split <;> exact ⟨rfl, rfl⟩
/-- A poisoned word; a word of another package, or of a reduction window, which an AMOADD and a REDADD meet. -/
theorem witness_Atomics_elsewhere : m0Poison.still ∧ m0Poison.ready (alonePlan ([sR 1, sR 2] ++ []) [sR 3] 2) = true ∧ m0Poison.atomics = [] ∧
    m0Poison.deliveries = [] ∧ m0Poison.core.wait = none ∧ m0Poison.ownScratch (m0Poison.core.readS 1) (amoSize 1) 0 ∧
    m0Poison.poison.contains ((sramBase m0Poison.cur + 0) / 8 * 8) = true ∧ (m0Poison.dieAt (dieOf m0Poison.cur)).action 2 0 = 2 ∧ m0Poison.core.crdepth = 0 ∧
    m0Poison.core.status = .running ∧ (m0Poison.dieAt (dieOf m0Poison.cur)).rings.toList.all (fun r => !r.base.getLsbD 0) = true ∧
    (∀ w ∈ [false, true], (mPeerPage w).still ∧ (mPeerPage w).ready (alonePlan ([sR 2, sR 2] ++ [sR 0]) [] 2) = true ∧
      (mPeerPage w).ready (alonePlan ([sR 2, sR 2] ++ []) [sR 3] 2) = true ∧ remoteOf w 14 = true ∧ remoteOf w 1 = true ∧
      (mPeerPage w).amoRefused 14 (alonePlan ([sR 2, sR 2] ++ [sR 0]) [] 2) 0 2 = false ∧
      (mPeerPage w).amoRefused 1 (alonePlan ([sR 2, sR 2] ++ []) [sR 3] 2) 3 2 = false) := by
  refine ⟨⟨m0_calm, by decide⟩, by decide, rfl, rfl, rfl, by unfold State.ownScratch; decide +kernel, by decide, by decide +kernel, rfl, rfl, by decide +kernel, ?_⟩
  intro w _
  refine ⟨mPeerPage_still w, ?_⟩
  cases w <;> decide +kernel

theorem witness_Ordering_narrow : (2 : BitVec 3).toNat < 3 ∧ m0.ready (Plan.closer [] []) = true ∧ (∀ x ∈ m0.atomics, x.lost m0.cur = false) ∧
    (m0.between.relEffect m0.cur).incomplete m0.cur = false ∧ ((m0.between.relEffect m0.cur).acqEffect m0.cur).incomplete m0.cur = false ∧
    (m0.between.acqEffect m0.cur).incomplete m0.cur = false ∧ m0.core.chunk = none := by
  decide +kernel
def dirty0 : CacheLine := { line := 5, data := 7, valid := BitVec.allOnes 128, dirty := 1, poison := false, bad := false, hot := false, heap := false, way := 0 }
/-- L1 of core 0 holds a line with one dirty byte. -/
def mDirty : State := m0.mapCore 0 (fun c => { c with l1 := [dirty0] })
theorem witness_Ordering_dirty : (((mDirty.settle 0).coreAt 0).l1.map CacheLine.line).Nodup ∧ (((mDirty.settle 0).coreAt 0).l2.map CacheLine.line).Nodup ∧
    mDirty.pushes = [] ∧ (mDirty.coreAt 0).closed = [] ∧ (mDirty.coreAt 0).l1 = [dirty0] ∧ (mDirty.coreAt 0).l2 = [] ∧ dirty0.dirty ≠ 0 ∧
    isView dirty0.line = false ∧ isPeer (dirty0.line * 128) = false ∧ isSram (dirty0.line * 128) = false ∧ mDirty.lostHome dirty0.line = false ∧
    mDirty.homeHeld dirty0.line = false ∧ mDirty.copyLine dirty0.line = none ∧ mDirty.bypassed (homeOf (lineBase dirty0.line)) = false := by
  decide +kernel

/-- A closed chunk that has written nothing. -/
def chunkOf (l : List Deferred) (held : Vector Nat 4) : Chunk :=
  { start := Regs.zero, tokStart := 0, startBuf := [], startSb := [], issuedAt := 0, instrs := 2, reads := [], bytes := [],
    lines := [], whole := [], blocks := [], pages := [], deferred := l, held := held, release := false, groups := [], cancels := [] }
def mCommit (l : List Deferred) (held : Vector Nat 4) (q0 : List Cmd) : State := mCpl.mapCore 0 (fun c => { c with closed := [chunkOf l held], q0 := q0 })
def heldOne : Vector Nat 4 := #v[1, 0, 0, 0]
theorem witness_CompletionQueues_commit : ((mCommit [.qpush 1 7] (Vector.replicate 4 0) []).coreAt 0).closed = chunkOf [.qpush 1 7] (Vector.replicate 4 0) :: [] ∧
    (chunkOf [.qpush 1 7] (Vector.replicate 4 0)).lines = [] ∧ ((mCommit [] heldOne []).coreAt 0).scoreboard = [] ∧ ((mCommit [] heldOne []).coreAt 0).ending = [] ∧
    (chunkOf [] heldOne).deferred = [] ∧ (chunkOf [] heldOne).held ≠ Vector.replicate 4 0 ∧ (0 : Nat) = (1 : BitVec 4).toNat / 2 ∧
    (chunkOf [.qflush 1] (Vector.replicate 4 0)).deferred = [.qflush 1] ∧ (1 : BitVec 4).getLsbD 0 = true ∧ (0 : BitVec 4).getLsbD 0 = false ∧
    ((mCommit [.qflush 0] (Vector.replicate 4 0) [cmdOf 4 [0, 0, 0]]).coreAt 0).cmdQ 0 = [cmdOf 4 [0, 0, 0]] ∧ engOf (tcwOp (cmdOf 4 [0, 0, 0]).tcw) = some 0 ∧
    ((mCommit [.qflush 0] (Vector.replicate 4 0) [cmdOf 4 [0, 0, 0]]).coreAt 0).cpl[0].words.length < 16 ∧ ({ cmdOf 4 [0, 0, 0] with token := 4 } : Cmd).token ≠ 0 ∧
    (0 : Nat) + 1 ≤ 16 ∧ (mCpl.core.cpl[0]).held ≤ (mCpl.core.cpl[0]).words.length ∧ (mCpl.core.cmdQ 0).length ≤ 16 := by
  decide +kernel
theorem witness_Messages_commit : ((mCommit [.cntadd 3 5] (Vector.replicate 4 0) []).coreAt 0).closed = chunkOf [.cntadd 3 5] (Vector.replicate 4 0) :: [] ∧
    (chunkOf [.cntadd 3 5] (Vector.replicate 4 0)).lines = [] ∧ dieOf ((0x8000008000000008 : Word).toNat / 2 ^ 32 % 1024) ≠ dieOf m0.cur ∧
    m0.msgOk 0x8000008000000008 = true ∧ (m0.between.relEffect m0.cur).incomplete m0.cur = false := by
  decide +kernel
/-- Entry 0 of core 8, of generation 0, in a state. -/
def mEntry (st : WttState) : State := m0.mapCore 8 (fun c => c.setEntry 0 { WttEntry.empty with state := st })
theorem witness_TaskTable_cancel : (∀ st ∈ [WttState.cancelled, .running, .preempted, .free, .waiting, .eligible],
      (((mEntry st).coreAt (8 % 1024)).entry (8 / 1024 % 32)).state = st ∧ (((mEntry st).coreAt 8).entry 0).gen.toNat = 8 / 65536 % 256 ∧
      (((mEntry st).coreAt 8).entry 0).image[0].getLsbD 61 = false) ∧
    (((mEntry .free).coreAt ((65536 + 8) % 1024)).entry 0).gen.toNat ≠ (65536 + 8) / 65536 % 256 ∧ m0.core.replays = [] := by
  decide +kernel
/-- One region deep, with its command started at a tongs slot; in `mUnwindIn` inside a chunk. -/
def mUnwind : State := mRegion.mapDie 0 (fun d => { d with tongs := [(2, { cmd := cmdOf 0x220 [0, 0, 0], todo := [], done := false, code := 0, aux := 0, dest := [] })] })
def mUnwindIn : State := mRegion.mapCore 0 (fun c => { c with chunk := some (chunkOf [] (Vector.replicate 4 0)) })
theorem witness_Regions_unwind : (mRegion.coreAt 0).crdepth.toNat = 1 ∧ (mRegion.coreAt 0).closed = [] ∧ (∀ k ∈ mRegion.commandsOf 0, tcwDepth k.tcw < 1) ∧
    (mRegion.coreAt 0).chunk = none ∧ (mUnwindIn.coreAt 0).chunk = some (chunkOf [] (Vector.replicate 4 0)) ∧ (∀ k ∈ mUnwindIn.commandsOf 0, tcwDepth k.tcw < 1) ∧
    (∃ k ∈ mUnwind.startedOf 0, 1 ≤ tcwDepth k.tcw) ∧ (mUnwind.coreAt 0).ending = [] ∧ (mRegion.dieAt (dieOf 0)).action 2 0 = 2 ∧
    (({ mRegion with dies := [(0, { Die.reset with sev := Die.reset.sev.set 2 (Die.reset.sev[2] - 2) })] } : State).dieAt 0).action 2 0 ≤ 1 := by
  decide +kernel
theorem witness_CommandQueues_sent : mSend.cur < 520 ∧ (1 : Nat) < 4 ∧ (4 : BitVec 5) ≠ 0 ∧ mFull.core.wait = none := by decide +kernel

/-- `mMap` with another leaf word for VA 0, at 0x3000. -/
def mLeaf (leaf : Word) : State := { mMap with mem := memPut mMap.mem 0x3000 (toBytes 8 leaf.toNat), cores := [(0, { c0 with views := some [] })] }
/-- The walks of `mMap`: it reaches the leaf of VA 0; VA 0x1000 has no leaf; the leaf made malformed, peer-only, moved; and no table at all. -/
theorem witness_AccessFaults_walks : (∀ k ∈ [0, 1, 2, 3], mMap.Reaches 0 0 k) ∧ mMap.Reaches 0x1000 0 3 ∧ (0 : Nat) % 4096 = 0 ∧
    (mMap.homeWord (mMap.pteAddr 0x1000 0 3)).getLsbD 0 = false ∧
    (∀ x ∈ ([(0x100005, 0), (0x100403, 2), (0x100603, 3), (0x100007, 0)] : List (Word × Nat)), (mLeaf x.1).Reaches 0 0 3 ∧
      (mLeaf x.1).homeWord ((mLeaf x.1).pteAddr 0 0 3) = x.1 ∧ x.1.getLsbD 0 = true ∧ (x.2 ≠ 0 → x.1.toNat / 2 ^ 9 % 4 = x.2)) ∧
    Malformed 0x100005 0 ∧ ¬Malformed 0x100007 0 ∧ ¬Malformed 0x100403 0 ∧ (0x100007 : Word).getLsbD 1 = true ∧ (0x100007 : Word).toNat / 2 ^ 9 % 4 < 2 ∧
    m0.tableOk (m0.pteAddr 0 0 0 / 4096 * 4096) = false := by
  have hr : ∀ s : State, ∀ va k, (∀ j ≤ k, (s.tableOk (s.pteAddr va 0 j / 4096 * 4096) && !s.homeHeld (lineOf (s.pteAddr va 0 j)) &&
      !s.homePoison (lineOf (s.pteAddr va 0 j))) = true) → (∀ j < k, ((s.homeWord (s.pteAddr va 0 j)).toNat % 2 ^ 12 == 1 &&
      (s.homeWord (s.pteAddr va 0 j)).toNat / 2 ^ 52 == 0) = true) → s.Reaches va 0 k := by
    intro s va k h1 h2
    refine ⟨fun j hj => ?_, fun j hj => ?_⟩
    · simpa [and_assoc] using h1 j hj
    · simpa using h2 j hj
  refine ⟨?_, hr _ _ _ (by decide +kernel) (by decide +kernel), rfl, by decide +kernel, ?_, ?_, ?_, ?_, by decide, by decide, by decide +kernel⟩
  · intro k hk
    simp only [List.mem_cons, List.not_mem_nil, or_false] at hk
    obtain rfl | rfl | rfl | rfl := hk <;> exact hr _ _ _ (by decide +kernel) (by decide +kernel)
  · intro x hx
    simp only [List.mem_cons, List.not_mem_nil, or_false] at hx
    obtain rfl | rfl | rfl | rfl := hx <;> exact ⟨hr _ _ _ (by decide +kernel) (by decide +kernel), by decide +kernel, by decide, by decide⟩
  · unfold Malformed; decide
  · unfold Malformed; decide
  · unfold Malformed; decide
/-- An entry of a TLB that holds VA 0, and none; the leaves that `xlatePage` meets; a stripe that is the package's own, and one that is not. -/
def hitOf (s : State) : Option Hit := match s.leafFor 0 none s.core.ctx 0 with | .ok h => some h | .error _ => none
def mStripe (e0 pkg base : Word) : State := (mLeaf 0x187).mapDie 0 (fun d => { d with stripes := [(0, #v[e0, 0, base, pkg, 0, 0, 0, 0])] })
theorem witness_AccessFaults_leaves : (tlbFind ((mPeerPage false).coreAt 0).tlb 0 0).isSome = true ∧ (∀ e ∈ ((mPeerPage false).coreAt 0).tlb, e.inMotion = false) ∧
    tlbFind (mMap.coreAt 0).tlb 0 0 = none ∧ tlbFind (mMap.dieAt 0).l2tlb 0 0 = none ∧
    ((hitOf (mLeaf 0x100003)).map (fun h => (h.level, h.leaf)) = some (0, 0x100003)) ∧ (0x100003 : Word).getLsbD 2 = false ∧ (0x100003 : Word).getLsbD 3 = false ∧
    ((hitOf (mLeaf 0x10000F)).map (fun h => (h.level, h.leaf)) = some (0, 0x10000F)) ∧ (0x10000F : Word).getLsbD 3 = true ∧ (0x10000F : Word).toNat / 2 ^ 7 % 4 ≠ 3 ∧
    isMmio 0x100000 = false ∧ (mLeaf 0x10000F).reachable 0x100000 = true ∧ isMmio cxlBase = false ∧ (mLeaf 0x10000F).reachable cxlBase = false ∧
    ((hitOf (mStripe 0x8000000000000000 0 0)).map (fun h => (h.level, h.leaf)) = some (0, 0x187)) ∧ (0x187 : Word).toNat / 2 ^ 7 % 4 = 3 ∧
    (0x8000000000000000 : Word).getLsbD 63 = true ∧ (0 : Word).getLsbD 63 = false ∧ (mStripe 0x8000000000000000 0 0).pkg.pkgId.toNat = 0 ∧
    (mStripe 0x8000000000000000 0 0).reachable 0 = true := by
  decide +kernel
/-- A block of a view, a byte of the heap window, and the loads and stores that meet a missing leaf or one without W. -/
theorem witness_AccessFaults_windows : vwMalformed #v[0, 0, 0, 0] = true ∧ vwMalformed #v[0x8000000000001000, 0x1, 0, 0] = false ∧
    (match (mLeaf 0x10000F).xlatePage 0 none m0.core.ctx .load 0 with | .ok (pa, a, _) => pa == 0x100000 && a.cache == .wb | .error _ => false) = true ∧
    (match (mLeaf 0x10004F).xlatePage 0 none m0.core.ctx .load 0 with | .ok (_, a, _) => a.cache == .uc | .error _ => false) = true ∧
    (match (mLeaf 0x10000F).xlatePage 0 none m0.core.ctx .load 0x1000 with | .ok _ => false | .error _ => true) = true ∧
    (((0x100000 : Nat) : Int) + m0.core.ctx.heapo.toInt < 2 ^ 52) ∧ ((2 ^ 52 : Nat) : Int) + m0.core.ctx.heapo.toInt ≥ 2 ^ 52 := by
  decide +kernel
theorem witness_AccessFaults_issue : (∀ w ∈ ([0x100002, 0x100003] : List Word), (mLeaf w).faultable ∧ (mLeaf w).core.chunk = none ∧ (mLeaf w).core.closed = [] ∧ (mLeaf w).cur < 512 ∧
      (mLeaf w).core.views = some [] ∧ (mLeaf w).core.readS 0 + 8 * (0 : BitVec 12).signExtend 64 = 0 ∧
      within 0 (mLeaf w).core.ctx.heapb.toNat (mLeaf w).core.ctx.heapl.toNat = false ∧
      tlbFind (mLeaf w).core.tlb (mLeaf w).core.ctx.asid 0 = none ∧ tlbFind ((mLeaf w).dieAt (dieOf (mLeaf w).cur)).l2tlb (mLeaf w).core.ctx.asid 0 = none ∧
      0 = (mLeaf w).core.ctx.root ∧ (mLeaf w).homeWord ((mLeaf w).pteAddr 0 0 3) = w) ∧
    (0x100002 : Word).getLsbD 0 = false ∧ (0x100003 : Word).getLsbD 2 = false ∧
    (mLeaf 0x100002).ready (Plan.memory [sR 0] [sR 3] 1) = true ∧ (mLeaf 0x100003).ready (Plan.memory [sR 3, sR 0] [] 1) = true := by
  refine ⟨?_, by decide, by decide, by decide +kernel, by decide +kernel⟩
  intro w hw
  simp only [List.mem_cons, List.not_mem_nil, or_false] at hw
  unfold State.faultable
  obtain rfl | rfl := hw <;> decide +kernel
/-- The FP32 codes of 1, 15, −15 and 0, and their values. -/
theorem fp32_values : fmtF32.value 0x3F800000 = 1 ∧ fmtF32.value 0x41700000 = 15 ∧ fmtF32.value 0xC1700000 = -15 ∧ fmtF32.value 0 = 0 ∧
    fmtF32.value 0x80000000 = 0 := by
  simp only [Fmt.value, Fmt.mag, Fmt.minus, show fmtF32.ebits = 8 from rfl, show fmtF32.mbits = 23 from rfl, show fmtQmin fmtF32 = -149 from by decide]
  norm_num
theorem fp32_finite : fmtF32.finite 0x3F800000 ∧ fmtF32.finite 0x41700000 ∧ fmtF32.finite 0xC1700000 ∧ fmtF32.finite 0 ∧ fmtF32.finite 0x80000000 := by
  unfold Fmt.finite
  decide +kernel
theorem fp16_one : fmtF16.value 0x3C00 = 1 ∧ fmtF16.finite 0x3C00 := by
  refine ⟨?_, by unfold Fmt.finite; decide +kernel⟩
  simp only [Fmt.value, Fmt.mag, Fmt.minus, show fmtF16.ebits = 5 from rfl, show fmtF16.mbits = 10 from rfl, show fmtQmin fmtF16 = -24 from by decide]
  norm_num
/-- Finite codes for each clause on sums, products, quotients and roots; an infinity and a NaN. -/
theorem witness_NanRules_values : fmtF32 ∈ [fmtF64, fmtF32, fmtF16, fmtBF16] ∧ fmtF32.finite 0x41700000 ∧ fmtF32.finite 0xC1700000 ∧ fmtF32.finite 0 ∧
    ((15 : ℝ) = fmtF32.value 0x41700000 ∧ (-15 : ℝ) = fmtF32.value 0xC1700000 ∧ (0 : ℝ) = fmtF32.value 0) ∧
    ((15 : ℝ) + -15 = 0 ∧ (15 : ℝ) - 15 = 0 ∧ (15 : ℝ) + 15 ≠ 0 ∧ (15 : ℝ) - -15 ≠ 0 ∧ (15 : ℝ) * 15 ≠ 0 ∧ (15 : ℝ) * 0 = 0 ∧ (15 : ℝ) * 15 + 15 ≠ 0) ∧
    (∃ R : ℝ, 0 < R ∧ R * R = fmtF32.value 0x3F800000) ∧ ((-15 : ℝ) < 0 ∧ (0 : ℝ) ≠ 15) ∧
    funpack fmtF32 0x7F800000 = .inf false ∧ funpack fmtF32 0x7F800001 = .nan true ∧ (-(2 ^ 31) : ℤ) ≤ 2 ^ 31 - 1 := by
  obtain ⟨h1, h2, h3, h4, -⟩ := fp32_values
  refine ⟨by decide, fp32_finite.2.1, fp32_finite.2.2.1, fp32_finite.2.2.2.1, ?_, by norm_num, ⟨1, by norm_num, ?_⟩, by norm_num, by decide +kernel, by decide +kernel, by norm_num⟩
  · rw [h2, h3, h4]; norm_num
  · rw [h1]; norm_num
/-- A widening conversion of bytes, whose part 1 reads elements 64 and up; a narrowing one, whose part 1 reaches elements 64 to 127. -/
theorem witness_VectorMoves_conversions : (∃ f, (14, 8, 32, f) ∈ conversions) ∧ (∃ f, (19, 32, 8, f) ∈ conversions) ∧ 63 < 2048 / 32 ∧
    3 < max 8 32 / min 8 32 ∧ (8 ≤ 32 ∨ (3 * (2048 / 8) ≤ 63 ∧ 63 < 4 * (2048 / 8))) ∧ (32 ≤ 8 ∨ (1 * (2048 / 32) ≤ 64 ∧ 64 < 2 * (2048 / 32))) ∧
    ¬(32 ≤ 8 ∨ (1 * (2048 / 32) ≤ 128 ∧ 128 < 2 * (2048 / 32))) := by
  refine ⟨⟨_, List.mem_of_getElem? (i := 14) rfl⟩, ⟨_, List.mem_of_getElem? (i := 19) rfl⟩, by decide, by decide, by decide, by decide, by decide⟩
/-- The blocks of zeros and of the value 15: the largest magnitude, and the exponent that E8M0 gives it. -/
theorem witness_QuantisedGroups_blocks : ([0x41700000] : List Nat) ≠ [] ∧ (∀ x ∈ [0x41700000], fmtF32.finite x) ∧
    (∃ k < 1, |((fmtF32.value (nth 0 [0x41700000] k) : ℚ) : ℝ)| = 15) ∧ (∀ k < 1, |((fmtF32.value (nth 0 [0x41700000] k) : ℚ) : ℝ)| ≤ 15) ∧ (15 : ℝ) ≠ 0 ∧
    ((2 : ℝ) ^ (3 : ℤ) ≤ 15 ∧ (15 : ℝ) < (2 : ℝ) ^ ((3 : ℤ) + 1) ∧ (-5 : ℤ) = max (-127) (min 127 (3 - 8))) ∧
    (∃ k < 1, |((fmtF32.value (nth 0 [0] k) : ℚ) : ℝ)| = 0) ∧ (0 : Nat) < 4 ∧ ((15 : Nat) = 15 ∨ (15 : Nat) = 255) ∧
    (funpack fmtF32 0x7FC00000).isNan = true ∧ (funpack fmtF32 0x7F800000 = .inf false) ∧ fmtF16.finite 0x3C00 ∧ (mxFmt 0).finite 8 ∧ 8 < 2 ^ mxBits 0 ∧
    (List.replicate 128 0).length = 128 := by
  obtain ⟨h1, h2, h3, h4, -⟩ := fp32_values
  refine ⟨by simp, ?_, ⟨0, by norm_num, ?_⟩, ?_, by norm_num, by norm_num, ⟨0, by norm_num, ?_⟩, by decide, .inl rfl, by decide +kernel, by decide +kernel, fp16_one.2,
    by unfold Fmt.finite; decide +kernel, by decide, by simp⟩
  · intro x hx; rw [List.mem_singleton.1 hx]; exact fp32_finite.2.1
  · rw [show nth 0 [0x41700000] 0 = 0x41700000 from rfl, h2]; norm_num
  · intro k hk
    obtain rfl : k = 0 := by omega
    rw [show nth 0 [0x41700000] 0 = 0x41700000 from rfl, h2]; norm_num
  · rw [show nth 0 [0] 0 = 0 from rfl, h4]; norm_num
/-- A positive value that a code has rounds to it, whatever the mode. -/
theorem rounds_of_exact (f : Fmt) (c : Nat) (V : ℝ) (h0 : 0 < V) (hV : V = f.mag c * (2 : ℝ) ^ fmtQmin f) (hm : f.mag c < f.mag (c + 1))
    (hmax : c ≤ fmtMax f) (hn : 2 ^ f.mbits ≤ f.mag c) : f.Rounds 0 V (c, 0) := by
  have hu : |V| / (2 : ℝ) ^ fmtQmin f = f.mag c := by
    rw [abs_of_pos h0, hV]
    exact mul_div_cancel_right₀ _ (zpow_ne_zero _ two_ne_zero)
  refine ⟨c, 0, True, ⟨c, f.mag c, hu.symm, le_refl _, by exact_mod_cast hm, by simp, ?_⟩, fun h => absurd h (not_lt.2 h0.le), fun _ => rfl,
    fun h => absurd h (not_lt.2 hmax), fun _ => ⟨?_, fun _ => ⟨by simp, fun _ => rfl, fun h => absurd trivial h, fun h => absurd trivial h⟩⟩⟩
  · intro up h
    have : ¬up := by rw [h]; simp
    exact ⟨fun x => absurd x this, fun _ => rfl⟩
  · rintro ⟨u, h1, h2, -⟩
    rw [hu] at h1
    rw [h1] at h2
    exact absurd hn (not_le.2 (by exact_mod_cast h2))
/-- An asymmetric group of −15, 0 and 15 with 15 for the largest code: its span 30, the quotient 2, the scale 2, and the codes' sources. -/
theorem witness_QuantisedGroups_asymmetric : ∃ span quot half d : FRes, fmtF32.Rounds 0 (15 - -15) span ∧ fmtF32.finite span.1 ∧
    fmtF32.Rounds 0 ((fmtF32.value span.1 : ℝ) / (15 : Nat)) quot ∧ fmtF32.finite quot.1 ∧ quot.1 ≠ 0 ∧ fmtF16.Rounds 0 (fmtF32.value quot.1) half ∧ half.1 = 0x4000 ∧
    fmtF32.Rounds 0 (- -15 / (fmtF16.value 0x4000 : ℚ)) d ∧ fmtF32.finite d.1 ∧ RoundsInt 0 (fmtF32.value d.1) 8 := by
  have q32 : fmtQmin fmtF32 = -149 := by decide
  have q16 : fmtQmin fmtF16 = -24 := by decide
  have m32 : ∀ c, fmtF32.mag c = if c < 2 ^ 23 then c else (2 ^ 23 + c % 2 ^ 23) * 2 ^ (c / 2 ^ 23 - 1) := fun _ => rfl
  have m16 : ∀ c, fmtF16.mag c = if c < 2 ^ 10 then c else (2 ^ 10 + c % 2 ^ 10) * 2 ^ (c / 2 ^ 10 - 1) := fun _ => rfl
  have v30 : fmtF32.value 0x41F00000 = 30 := by
    simp only [Fmt.value, Fmt.mag, Fmt.minus, show fmtF32.ebits = 8 from rfl, show fmtF32.mbits = 23 from rfl, q32]; norm_num
  have v2 : fmtF32.value 0x40000000 = 2 := by
    simp only [Fmt.value, Fmt.mag, Fmt.minus, show fmtF32.ebits = 8 from rfl, show fmtF32.mbits = 23 from rfl, q32]; norm_num
  have v7 : fmtF32.value 0x40F00000 = 15 / 2 := by
    simp only [Fmt.value, Fmt.mag, Fmt.minus, show fmtF32.ebits = 8 from rfl, show fmtF32.mbits = 23 from rfl, q32]; norm_num
  have w2 : fmtF16.value 0x4000 = 2 := by
    simp only [Fmt.value, Fmt.mag, Fmt.minus, show fmtF16.ebits = 5 from rfl, show fmtF16.mbits = 10 from rfl, q16]; norm_num
  have fin : ∀ c ∈ [0x41F00000, 0x40000000, 0x40F00000], fmtF32.finite c := by unfold Fmt.finite; decide +kernel
  refine ⟨(0x41F00000, 0), (0x40000000, 0), (0x4000, 0), (0x40F00000, 0), ?_, fin _ (by simp), ?_, fin _ (by simp), by decide, ?_, rfl, ?_, fin _ (by simp), ?_⟩
  · exact rounds_of_exact _ _ _ (by norm_num) (by rw [m32, q32]; norm_num) (by rw [m32, m32]; norm_num) (by decide +kernel) (by rw [m32]; decide)
  · rw [v30]
    exact rounds_of_exact _ _ _ (by norm_num) (by rw [m32, q32]; norm_num) (by rw [m32, m32]; norm_num) (by decide +kernel) (by rw [m32]; decide)
  · rw [v2]
    exact rounds_of_exact _ _ _ (by norm_num) (by rw [m16, q16]; norm_num) (by rw [m16, m16]; norm_num) (by decide +kernel) (by rw [m16]; decide)
  · rw [w2]
    exact rounds_of_exact _ _ _ (by norm_num) (by rw [m32, q32]; norm_num) (by rw [m32, m32]; norm_num) (by decide +kernel) (by rw [m32]; decide)
  · rw [v7]
    exact ⟨fun _ => ⟨by rw [abs_le]; norm_num, fun _ => by decide⟩, fun h => absurd h (by decide), fun h => absurd h (by decide), fun h => absurd h (by decide)⟩
/-- The same pass with its row written; with codes that do not fit its row, and the record of its retry. -/
def passLast : PassResult := { pass0 with written := 1 }
def passBad : PassResult :=
  { passLast with esum := some 0, cmd := { cmdOf 1 [0, 0, 0] with record := some 8 }, codes := List.replicate 128 100, adc := List.replicate 64 0x40000000 }
def mLog : State := { mDrain with dies := [(0, { Die.reset with sev := Die.reset.sev.set 3 0x249249 })] }
theorem witness_AnvilSteps_drain : pass0.cmd.core / 8 = 0 ∧ passDoff pass0.cmd.tcw % 32 = 0 ∧ pass0.written < pass0.nvec ∧ passLast.nvec ≤ passLast.written ∧
    passLast.poisoned = [] ∧ passLast.cmd.unwound = false ∧ passLast.colsum = false ∧ (mLog.dieAt (0 / 16)).action 3 1 ≤ 1 ∧
    mLog.endsNow passLast.cmd 0 = true ∧ (drainPass passLast mLog.fresh).rowmask = 0 ∧ (drainPass passLast mLog.fresh).colmask = 0 ∧
    mLog.endsNow passBad.cmd 0 = true ∧ (drainPass passBad mLog.fresh).rowmask ≠ 0 ∧ passBad.cmd.record = some 8 ∧ passBad.poisoned = [] := by
  decide +kernel
/-- One command heads the queues of anvil 0's cores: an MSWAPB, or an MLOADB of a billet that is there, or is not. -/
def mHead (op : Word) (w : List Word) (g : Forge → Forge) : State := (m0.mapCore 0 (fun c => { c with q0 := [cmdOf op w] })).mapForge 0 g
def loadCmd (id : Word) : List Word := [0x1000, id, 0]
theorem witness_AnvilCommands_round : 0 / 8 = 0 ∧ (∀ x ∈ [mHead 4 [0, 0, 0] id, mHead 0x220003 (loadCmd 5) (fun g => { g with active := bank0 5 }), mHead 0x220003 (loadCmd 5) id],
      (x.forgeAt 0).iftRun = false ∧ (x.forgeAt 0).execs.length < 4 ∧ (x.headClass 0 (slotOf 0)).2 = .free ∧ (x.forgeAt 0).held (slotOf 0) = [] ∧ (x.coreAt 0).cplRoom 0 = true) ∧
    anvilBad (m0.coreAt 0) (cmdOf 4 [0, 0, 0]).tcw = false ∧ anvilBad (m0.coreAt 0) (cmdOf 0x220003 (loadCmd 5)).tcw = false ∧ tcwOp (cmdOf 4 [0, 0, 0]).tcw ∈ [4, 5, 6] ∧
    tcwOp (cmdOf 0x220003 (loadCmd 5)).tcw = 3 ∧ loadForce (cmdOf 0x220003 (loadCmd 5)).tcw = false ∧
    ((mHead 0x220003 (loadCmd 5) (fun g => { g with active := bank0 5 })).forgeAt 0).projected.1 =
      some (loadOf ((mHead 0x220003 (loadCmd 5) (fun g => { g with active := bank0 5 })).forgeAt 0) (cmdOf 0x220003 (loadCmd 5)).tcw).1 ∧
    ((mHead 0x220003 (loadCmd 5) id).forgeAt 0).projected.1 ≠ some (loadOf ((mHead 0x220003 (loadCmd 5) id).forgeAt 0) (cmdOf 0x220003 (loadCmd 5)).tcw).1 ∧
    ((mHead 0x220003 (loadCmd 5) id).forgeAt 0).projected.2 ≠ some (loadOf ((mHead 0x220003 (loadCmd 5) id).forgeAt 0) (cmdOf 0x220003 (loadCmd 5)).tcw).1 := by
  decide +kernel
theorem mHead_others (op : Word) (w : List Word) (g : Forge → Forge) : ∀ c, c / 8 = 0 → c ≠ 0 → ((mHead op w g).coreAt c).q0 = [] := by
  intro c _ hc
  show (tget Core.reset [(0, { c0 with q0 := [cmdOf op w] })] c).q0 = []
  simp only [tget]
  rw [if_neg (Ne.symm hc)]
  rfl
/-- A billet that can not be read, since the page of its VA has no leaf: the transfer begins with a code. -/
theorem witness_AnvilCommands_transfer : ((mLd 5).mapForge 0 (fun g => { g with execs := [] })).readBillet (started 3 [0, 5, 0]).cmd
      (loadOf ((mLd 5).forgeAt 0) (started 3 [0, 5, 0]).cmd.tcw).1 (loadOf ((mLd 5).forgeAt 0) (started 3 [0, 5, 0]).cmd.tcw).2 ≠ none ∧
    ((mLd 5).forgeAt 0).probing = false ∧ ((mLd 5).forgeAt 0).transfer = none ∧ (mStaged.forgeAt 0).passStaged = true ∧ (mAp 0 |>.forgeAt 0).passStaged = false := by
  decide +kernel
/-- s7 names forge 16, of the next die. -/
def mEvFar : State := mEv.mapCore 0 (fun c => { c with regs := { c.regs with s := c.regs.s.set 7 0x50 } })
theorem witness_Events_far : (mEvFar.core.readS 7).getLsbD 6 = true ∧ (mEvFar.core.readS 7).toNat % 64 / 16 ≠ dieOf mEvFar.cur ∧ mEvFar.closing [sR 2, sR 7] [] ∧
    (mEvFar.between.relEffect mEvFar.cur).incomplete mEvFar.cur = false := by
  unfold State.closing State.atRest
  decide +kernel
/-- Core 8 frozen with an entry to be executed again whose source has been overwritten. -/
def entryClob : SbEntry := { entry0 with settle := 2, srcClob := true }
def mClob (e : SbEntry) : State := { m512 with cores := [(8, { c0 with status := .frozen 0x10, scoreboard := [e] }), (512, c0)] }
theorem witness_SupervisorGroup_entries : ((mClob entryClob).coreAt 8).status = .frozen 0x10 ∧ ((mClob entryClob).coreAt 8).scoreboard[0]? = some entryClob ∧
    entryClob.settle = 2 ∧ entryClob.srcClob = true ∧ ((mClob entry0).coreAt 8).scoreboard = [entry0] ∧ (∀ e ∈ [entry0], e.settle ≠ 2 ∨ e.srcClob = false) ∧
    entry0.settle = 0 ∧ entry0.faulted = false ∧ entry0.redo = false ∧ (m512.between.relEffect m512.cur).incomplete m512.cur = false ∧ m512.closing [sR 2] [sR 3] ∧
    m512.closing [sR 2] [] ∧ m512.hearth = [] ∧ m0.core.l2 = [] ∧ (m0.between.me (fun c => { c with l2held := c.l2held ||| 8 })).incomplete m0.cur = false := by
  unfold State.closing State.atRest
  decide +kernel
theorem witness_Links_free : mLinkE.slotTaken 8 (facing 0) = false ∧ (mLinkE.coreAt 8).status.stopped = false := by decide +kernel
/-- The turns of a fill that is turned away, of one that lands a byte, and of the gather of `mGath`. -/
def mGathRun : State := { mGath with colls := [(0x31, [collMember (gather 0) none, collMember (gather 1) none])] }
/-- The gather with a source that no page maps. -/
def lostSource : Cmd := { gather 0 with tcw := (gather 0).tcw ^^^ (BitVec.ofNat 256 (lwb % 2 ^ 48) <<< 64) }
theorem witness_EngineCommands_turns : (runTfill (mTongs 0x24) (slotCmd 0x24).cmd).held = false ∧ m0.landingHeld landing0 = false ∧ (slotCmd 0x24).todo = [] ∧
    (mGathRun.colls[0]? = some (0x31, collMember (gather 0) none :: [collMember (gather 1) none])) ∧
    (match mGathRun.collAll 0x31 (gather 0).tcw [collMember (gather 0) none, collMember (gather 1) none] with
      | .ok (s1, l, fl) => (collWrites fl ([collMember (gather 0) none, collMember (gather 1) none].zip l) s1).isSome | .error _ => false) = true ∧
    (match mGathRun.collAll 0x31 lostSource.tcw [collMember lostSource none, collMember (gather 1) none] with | .error (_, e) => !e.held | .ok _ => false) = true := by
  decide +kernel
/-- A save whose core has a word waiting that freezes it. -/
def mSaveHeld : State := (mSave cSaved []).mapForge 0 (fun g => g.setHeld 0 [{ word := 5, ends := none, drop := false, freeze := some 0 }])
theorem witness_Save_held : (mSaveHeld.boundCores 0 0).all mSaveHeld.saveReady = true ∧ mSaveHeld.stopsHere 0 = false ∧ mSaveHeld.boundCores 0 0 = [0] ∧
    (∃ h ∈ (mSaveHeld.forgeAt (forgeOf 0)).held (slotOf 0), h.freeze ≠ none) ∧ ((mSave cSaved []).forgeAt (forgeOf 0)).held (slotOf 0) = [] ∧
    (((mSave cSaved []).each [0] (fun t c => t.relEffect c)).incomplete 0 || ((mSave cSaved []).each [0] (fun t c => t.relEffect c)).imageHeld 0 0 0) = false ∧
    ((((mSave cSaved []).mapHome (homeOf 0) (fun h => { h with allBank := true })).each [0] (fun t c => t.relEffect c)).imageHeld 0 0 0) = true := by
  decide +kernel
/-- Class 9 has action `a` for every source; core 0 runs the task of its entry 0. -/
def mSev (a : BitVec 24) : State := mTask.mapDie 0 (fun d => { d with sev := d.sev.set 9 (a * 0x249249) })
theorem witness_FaultEntry_actions : ((mSev 0).dieAt 0).action 9 0 = 0 ∧ ((mSev 1).dieAt 0).action 9 0 = 1 ∧
    ((mSev 2).dieAt 0).action 9 0 = 2 ∧ ((mSev 3).dieAt 0).action 9 0 = 3 ∧ 4 ≤ ((mSev 4).dieAt 0).action 9 0 ∧
    ((mSev 2).coreAt 0).status.stopped = false ∧ ((mSup (.frozen 5)).coreAt 8).status.stopped = true ∧ ((mSev 3).coreAt 0).bound.isSome = true ∧
    ((mSev 3).coreAt 0).ctx.asid = 0 ∧ (((mSev 3).coreAt 0).entry 0).state = .running ∧ (((mSev 3).coreAt 0).entry 0).image[0].toNat / 2 ^ 48 % 512 = 0 := by
  decide +kernel
/-- A launch on forge 0, as the package's registers hold it; and none. -/
def mLaunch : State := { m0 with pkg := { m0.pkg with lmask := 1 } }
theorem witness_HostPort_launch : ((List.range 64).filter (fun f => mLaunch.pkg.lmask.getLsbD f)) = [0] ∧
    ((List.range 8).all (fun a => imageOk a (imageOf mLaunch.pkg.limg.toList))) = true ∧ ((List.range 64).filter (fun f => m0.pkg.lmask.getLsbD f)) = [] ∧
    mMap.rangeHeld 0x100 8 = false ∧ mMap.storageAt 0x100 8 = true ∧ 0x100 + 8 ≤ 2 ^ 42 ∧ (4 : Nat) ≠ 8 ∧ evSelector 0 = none ∧ m0.mmioWrite none 8 0 ≠ none := by
  decide +kernel

/-! ### Words of the manual's own examples -/

/-- 03 R53 to R61, 04 R83 to R94. -/
theorem test_decode_scalar : decode 0x04A63972 = .ok (.div 5 6 7 2) ∧ decode 0x05295270 = .ok (.hadd 9 9 10) ∧ decode 0x0880FFFE = .ok (.addi 4 0 0xFFFE) ∧
    decode 0x20801234 = .ok (.lui 4 0x1234) ∧ decode 0x24C78003 = .ok (.srai 6 7 3) ∧ decode 0x9C8531C0 = .ok (.fshl 4 5 6 7) ∧
    decode 0x44010000 = .ok (.jalr 0 1 0) ∧ decode 0x40000002 = .ok (.jal 2) ∧ decode 0x7D0950A1 = .ok (.fmac 8 9 10 1) ∧ decode 0x81093050 = .ok (.bext 8 9 12 5) := by
  decide
/-- 05 R101 to R122. -/
theorem test_decode_vector : decode 0xA0642E80 = .ok (.vceqI32 3 4 5 0 0) ∧ decode 0xBC4320A0 = .ok (.vbcast 2 3 4 2 0) ∧
    decode 0xBCC71C90 = .ok (.vredf 6 7 3 1 0) ∧ decode 0x98270000 = .ok (.ckacc 1 7 0) ∧ decode 0xAC420800 = .ok (.vaddF32 2 2 1 0 0) ∧
    decode 0xC0417800 = .ok (.vcvt 2 1 15 0 0 0) ∧ decode 0xC5424A00 = .ok (.vscacc 10 2 9 0 0) ∧ decode 0xC4810300 = .ok (.vbfpx 4 1 0 0) := by
  decide
/-- 06 R125 to R141, 07 R150 to R168. -/
theorem test_decode_registers_and_memory : decode 0x90C00071 = .ok (.lkrd 6 0 1) ∧ decode 0x90250090 = .ok (.lkwr 1 5) ∧ decode 0x94050040 = .ok (.wspsw 5) ∧
    decode 0x94C00050 = .ok (.mbatch 6) ∧ decode 0x00A01001 = .ok (.csrr 5 0x001) ∧ decode 0x00062200 = .ok (.csrw 0 6 0x200) ∧ decode 0x48A40030 = .ok (.lb 5 4 3 0) ∧
    decode 0x6CC2FFE0 = .ok (.sw 6 2 0xFFE 0) ∧ decode 0x70E40011 = .ok (.sd 7 4 1 1) ∧ decode 0x78A40000 = .ok (.ldse 5 4 0) ∧ decode 0x78043010 = .ok (.stf 4 6 0) ∧
    decode 0x78E40040 = .ok (.feq 7 4 0) ∧ decode 0xC8260000 = .ok (.vld 1 6 0 0) ∧ decode 0xC8460010 = .ok (.vld 2 6 1 0) ∧ decode 0xD02E3800 = .ok (.vlds 1 14 7 0 0) ∧
    decode 0x0005E000 = .ok (.l2flw 5) := by
  decide
/-- 08 R176 to R179, 09 R187 to R192, 11 R215 to R219. -/
theorem test_decode_ordering_and_queues : decode 0x00008000 = .ok .chunke ∧ decode 0x00005003 = .ok (.fence 3) ∧ decode 0x00007004 = .ok (.acq 4) ∧
    decode 0x84A43010 = .ok (.amoadd 5 4 6 0) ∧ decode 0x84A43410 = .ok (.amoaddI32 5 4 6 0) ∧ decode 0x84A43090 = .ok (.cas 5 4 6 0) ∧
    decode 0x852430E0 = .ok (.redadd 9 4 6 0) ∧ decode 0x90445000 = .ok (.qsend 2 4 10) ∧ decode 0x90030010 = .ok (.qsendv 0 3 0) ∧
    decode 0x90A10032 = .ok (.qpop 5 1 2) ∧ decode 0x90290020 = .ok (.qpush 1 9) ∧ decode 0x90E20050 = .ok (.qstat 7 2) := by
  decide
/-- 14 R306 to R313, 15 R317 to R343, 16 R349 to R357. -/
theorem test_decode_tasks_and_signals : decode 0x8CA63800 = .ok (.tkpost 5 6 7) ∧ decode 0x8C000020 = .ok .tkexit ∧ decode 0x8C040050 = .ok (.gang 4) ∧
    decode 0x00009021 = .ok (.svc 0x21) ∧ decode 0x0000A000 = .ok .halt ∧ decode 0x88043060 = .ok (.msg 4 6) ∧ decode 0x88650070 = .ok (.cntadd 3 5) ∧
    decode 0x88600000 = .ok (.barArr 3) ∧ decode 0x88651030 = .ok (.barInit 3 5 2) ∧ decode 0x88A60040 = .ok (.evwait 5 6) ∧ decode 0x88063850 = .ok (.evsig 6 7) ∧
    decode 0x95265030 = .ok (.trrd 9 6 10 0) ∧ decode 0x95876870 = .ok (.skcomb 12 7 13) ∧ decode 0x0006D000 = .ok (.frply 6) := by
  decide
/-- 03 R56, R66, 11 R215: lookahead on a single-cycle instruction, a selector without a member, a completion queue where a command queue
belongs, a nonzero field that must be zero. -/
theorem test_decode_refuses : refuses 0x04A63801 = true ∧ refuses 0x04A63A80 = true ∧ refuses 0x90245000 = true ∧ refuses 0x00008001 = true ∧
    decode 0xD8000000 = .error .extension ∧ decode 0xFFFFFFFF = .error .majorIllegal := by
  decide

/-! ### Ill-formed terms -/

/-- A term for each check on an encoded instruction, which the check refuses. -/
theorem test_wf_refuses : Instr.wf (.fence 7) = false ∧ Instr.wf (.rel 7) = false ∧ Instr.wf (.acq 7) = false ∧ Instr.wf (.hflush 1 2 3) = false ∧
    Instr.wf (.barInit 1 2 6) = false ∧ Instr.wf (.qsend 1 2 3) = false ∧ Instr.wf (.qsend 0 2 3) = false ∧ Instr.wf (.qsendv 4 2 3) = false ∧
    Instr.wf (.qpush 2 3) = false ∧ Instr.wf (.qpop 1 8 0) = false ∧ Instr.wf (.qpopv 1 0 0) = false ∧ Instr.wf (.qstat 1 8) = false ∧
    Instr.wf (.qflush 8) = false ∧ Instr.wf (.ckaccv 1 2 6 0) = false ∧ Instr.wf (.vpcnt 1 2 6 0 0) = false ∧ Instr.wf (.vpfirst 1 2 6 0 0) = false ∧
    Instr.wf (.vbcast 1 2 3 4 0) = false ∧ Instr.wf (.vins 1 2 3 4 0) = false ∧ Instr.wf (.viota 1 6 0 0) = false ∧ Instr.wf (.vcompr 1 2 6 0 0) = false ∧
    Instr.wf (.vredi 1 2 3 0 0) = false ∧ Instr.wf (.vredf 1 2 2 0 0) = false ∧ Instr.wf (.vredf 1 2 6 0 0) = false ∧ Instr.wf (.vredmx 1 2 6 0 0) = false ∧
    Instr.wf (.vredmn 1 2 6 0 0) = false := by
  decide
theorem test_wf_refuses_formats : Instr.wf (.vcvt 1 2 0 2 0 0) = false ∧ Instr.wf (.vcvt 1 2 4 3 0 0) = true ∧ Instr.wf (.vcvt 1 2 31 0 0 0) = false ∧
    Instr.wf (.vqgrp 1 2 3 6 0) = false ∧ Instr.wf (.vdqgrp 1 2 3 6 0) = false ∧ Instr.wf (.vqmx 1 2 3 4 0) = false ∧ Instr.wf (.vdqmx 1 2 3 4 0) = false ∧
    Instr.wf (.vbfpn 1 2 3 3 0) = false ∧ Instr.wf (.vbfpx 1 2 3 0) = false ∧ Instr.wf (.vldb 1 2 4 0) = false ∧ Instr.wf (.vmvsv 1 2 4 0) = false ∧
    Instr.wf (.vmvvs 1 2 3 4 0) = false := by
  decide
/-- Units that do not exist. -/
theorem test_wf_refuses_units : Instr.wf (.mapply 64) = false ∧ Instr.wf (.tcopy 4 0) = false ∧ Instr.wf (.collectiveStart 512) = false ∧
    Instr.wf (.chunkCommit 520) = false ∧ Instr.wf (.restore 0 32) = false ∧ Instr.wf (.packetRingWrite 520) = false ∧ Instr.wf (.scrubStep 0 393216 0 0) = false ∧
    Instr.wf (.refreshDue 0 16 .done) = false ∧ Instr.wf (.vbusCrcError 0 64 0) = false ∧ Instr.wf (.islandRelock 0 32) = false ∧
    Instr.wf (.cxlSurpriseRemoval 2 0) = false ∧ Instr.wf (.atfinFlitAck 16) = false ∧ Instr.wf (.migPortSubmit 0 521 0) = false := by
  decide

/-! ### Single steps -/

/-- Core 0 after one step on a placed word, with s6 and s7 set. -/
noncomputable def after1 (w : Nat) (a b : Word) : Option Core :=
  match step ((m0.mapCore 0 (fun c => { c with regs := { c.regs with s := (c.regs.s.set 6 a).set 7 b } })).withFetchWord 32 w) with
  | .next t => some (t.coreAt 0)
  | _ => none
/-- 04 R84: the most negative number divided by −1 gives the largest; 04 R83: ADD wraps. -/
theorem test_step_div_and_add : (after1 0x04A63970 0x8000000000000000 0xFFFFFFFFFFFFFFFF).map (fun c => (c.regs.s[5], c.regs.pc)) = some (0x7FFFFFFFFFFFFFFF, 4) ∧
    (after1 0x04A63800 0xFFFFFFFFFFFFFFFF 1).map (fun c => (c.regs.s[5], c.regs.pc)) = some (0, 4) := by
  decide +kernel
/-- 15 R331, R334: HALT stops the core at itself; the all-zero word freezes it with class 0x12. -/
theorem test_step_halt_and_ill : (after1 0x0000A000 0 0).map (fun c => c.status) = some .halted ∧ (after1 0 0 0).map (fun c => (c.status, c.regs.pc)) = some (.frozen 0x12, 0) := by
  decide +kernel
end Sys2Proof.Tests
end

section
/-! SUPPORT. The scalar integer instructions: the model's operations in plain arithmetic, one lemma per operation, and from
them the results of the ALU group (04_scalar_registers R83, R84). -/

namespace Sys2Proof.Machine

/-! ### From a shape to a result -/

/-- A member of two sources writes `f` of them when its meaning is an operation equal to `f`. -/
theorem writesOfTwo_of {i : BitVec 5 → BitVec 5 → BitVec 5 → Instr} {f : Word → Word → Word} (g : Word → Word → Word)
    (he : ∀ d a b s, exec (i d a b) s = opRR d a b g s) (hg : ∀ A B, g A B = f A B) : WritesOfTwo i f :=
  fun s d a b h => opS_completes h (he d a b s) (Core.steady_of (fun _ _ _ _ _ _ _ _ _ => rfl)) (hg _ _)

theorem writesOfTwoLa_of {i : BitVec 5 → BitVec 5 → BitVec 5 → BitVec 4 → Instr} {f : Word → Word → Word} (g : Word → Word → Word)
    (he : ∀ d a b l s, exec (i d a b l) s = opRRm d a b l g s) (hg : ∀ A B, g A B = f A B) : WritesOfTwoLa i f :=
  fun s d a b l h => opM_completes h (he d a b l s) (Core.steady_of (fun _ _ _ _ _ _ _ _ _ => rfl)) (hg _ _)

theorem writesOfOne_of {i : BitVec 5 → BitVec 5 → Instr} {f : Word → Word} (g : Word → Word)
    (he : ∀ d a s, exec (i d a) s = opR d a g s) (hg : ∀ A, g A = f A) : WritesOfOne i f :=
  fun s d a h => opS_completes h (he d a s) (Core.steady_of (fun _ _ _ _ _ _ _ _ _ => rfl)) (hg _)

/-! ### Shifts, comparisons, minimum and maximum -/

theorem shiftOf_eq_mod (B : Word) : shiftOf B = B.toNat % 64 := by
  simp [shiftOf, fld, bits]

theorem rotL_eq_rotateLeft (A : Word) {n : Nat} (hn : n < 64) : rotL A n = A.rotateLeft n := by
  rw [BitVec.rotateLeft_eq_rotateLeftAux_of_lt hn]
  rfl

theorem rotR_eq_rotateRight (A : Word) {n : Nat} (hn : n < 64) : rotR A n = A.rotateRight n := by
  rw [BitVec.rotateRight_eq_rotateRightAux_of_lt hn]
  rfl

theorem boolW_decide (p : Prop) [Decidable p] : boolW (decide p) = if p then 1 else 0 := by
  simp [boolW]

theorem truncate_eq_extract (A : Word) {w : Nat} (hw : w ≤ 64) : A.truncate w = A.extractLsb' 0 w :=
  BitVec.setWidth_eq_extractLsb' hw

/-- A choice by a signed comparison, each side given by its value. -/
theorem ite_slt_eq (A B : Word) :
    (if A.slt B then A else B) = BitVec.ofInt 64 (min A.toInt B.toInt) ∧ (if A.slt B then B else A) = BitVec.ofInt 64 (max A.toInt B.toInt) := by
  rw [BitVec.slt]
  by_cases h : A.toInt < B.toInt
  · simp [h, min_eq_left h.le, max_eq_right h.le]
  · simp [h, min_eq_right (not_lt.mp h), max_eq_left (not_lt.mp h)]

/-- The same by an unsigned one. -/
theorem ite_ult_eq (A B : Word) :
    (if A.ult B then A else B) = BitVec.ofNat 64 (min A.toNat B.toNat) ∧ (if A.ult B then B else A) = BitVec.ofNat 64 (max A.toNat B.toNat) := by
  rw [BitVec.ult]
  by_cases h : A.toNat < B.toNat
  · simp [h, min_eq_left h.le, max_eq_right h.le]
  · simp [h, min_eq_right (not_lt.mp h), max_eq_left (not_lt.mp h)]

/-! ### Saturation and division -/

theorem clampI_eq_max_min {lo hi : Int} (h : lo ≤ hi) (x : Int) : clampI lo hi x = max lo (min hi x) := by
  unfold clampI
  split
  · omega
  · split <;> omega

theorem clampI_of_mem {lo hi x : Int} (h : lo ≤ x ∧ x ≤ hi) : clampI lo hi x = x := by
  rw [clampI_eq_max_min (by omega)]
  omega

/-- Every signed quotient but one has a representation. -/
theorem tdiv_mem_bounds {a b : Int} (ha : -(2 ^ 63) ≤ a ∧ a < 2 ^ 63) (h : ¬(a = -(2 ^ 63) ∧ b = -1)) :
    -(2 ^ 63) ≤ a.tdiv b ∧ a.tdiv b ≤ 2 ^ 63 - 1 := by
  have hq : (a.tdiv b).natAbs = a.natAbs / b.natAbs := Int.natAbs_tdiv a b
  by_cases hb : 2 ≤ b.natAbs
  · have hle : a.natAbs / b.natAbs ≤ a.natAbs / 2 := Nat.div_le_div_left hb (by omega)
    omega
  · obtain rfl | rfl | rfl : b = 0 ∨ b = 1 ∨ b = -1 := by omega
    · simp
    · rw [Int.tdiv_one]; omega
    · rw [Int.tdiv_neg, Int.tdiv_one]; omega

theorem divS_eq (A B : Word) : divS A B =
    if B = 0 then (if A.toInt < 0 then BitVec.ofInt 64 (-(2 ^ 63)) else BitVec.ofInt 64 (2 ^ 63 - 1))
    else if A.toInt = -(2 ^ 63) ∧ B.toInt = -1 then BitVec.ofInt 64 (2 ^ 63 - 1) else BitVec.ofInt 64 (A.toInt.tdiv B.toInt) := by
  unfold divS wi
  split_ifs with h0 hn hs
  · rfl
  · rfl
  · rw [hs.1, hs.2]; rfl
  · rw [clampI_of_mem (tdiv_mem_bounds ⟨BitVec.le_toInt A, BitVec.toInt_lt⟩ hs)]

theorem remS_eq (A B : Word) : remS A B = if B = 0 then A else BitVec.ofInt 64 (A.toInt - B.toInt * A.toInt.tdiv B.toInt) := by
  unfold remS wi
  rw [Int.tmod_def]

theorem divU_eq (A B : Word) : divU A B = if B = 0 then BitVec.ofNat 64 (2 ^ 64 - 1) else BitVec.ofNat 64 (A.toNat / B.toNat) := by
  unfold divU
  split
  · rfl
  · rw [← BitVec.toNat_udiv, BitVec.ofNat_toNat, BitVec.setWidth_eq]

theorem remU_eq (A B : Word) : remU A B = if B = 0 then A else BitVec.ofNat 64 (A.toNat % B.toNat) := by
  unfold remU
  split
  · rfl
  · rw [← BitVec.toNat_umod, BitVec.ofNat_toNat, BitVec.setWidth_eq]

/-! ### The group -/

/-- Settles O1: each member is a shape whose operation is the plain one. -/
theorem aluTwoSources : Obligations.AluTwoSources := by
  unfold Obligations.AluTwoSources
  have hlt : ∀ B : Word, B.toNat % 64 < 64 := fun B => Nat.mod_lt _ (by decide)
  refine ⟨⟨?add, ?sub, ?and, ?or, ?xor, ?andn, ?orn, ?xnor, ?sll, ?srl, ?sra, ?rol, ?ror, ?slt, ?sltu, ?seq, ?min, ?max, ?minu, ?maxu,
    ?addw, ?subw, ?adds⟩, ?mul, ?mulh, ?mulhu, ?div, ?divu, ?rem, ?remu⟩
  case add => exact writesOfTwo_of _ exec_add (fun _ _ => rfl)
  case sub => exact writesOfTwo_of _ exec_sub (fun _ _ => rfl)
  case and => exact writesOfTwo_of _ exec_and (fun _ _ => rfl)
  case or => exact writesOfTwo_of _ exec_or (fun _ _ => rfl)
  case xor => exact writesOfTwo_of _ exec_xor (fun _ _ => rfl)
  case andn => exact writesOfTwo_of _ exec_andn (fun _ _ => rfl)
  case orn => exact writesOfTwo_of _ exec_orn (fun _ _ => rfl)
  case xnor => exact writesOfTwo_of _ exec_xnor (fun _ _ => rfl)
  case sll => exact writesOfTwo_of _ exec_sll (fun _ _ => by rw [shiftOf_eq_mod])
  case srl => exact writesOfTwo_of _ exec_srl (fun _ _ => by rw [shiftOf_eq_mod])
  case sra => exact writesOfTwo_of _ exec_sra (fun _ _ => by rw [shiftOf_eq_mod])
  case rol => exact writesOfTwo_of _ exec_rol (fun A B => by rw [shiftOf_eq_mod, rotL_eq_rotateLeft A (hlt B)])
  case ror => exact writesOfTwo_of _ exec_ror (fun A B => by rw [shiftOf_eq_mod, rotR_eq_rotateRight A (hlt B)])
  case slt => exact writesOfTwo_of _ exec_slt (fun _ _ => boolW_decide _)
  case sltu => exact writesOfTwo_of _ exec_sltu (fun _ _ => boolW_decide _)
  case seq => exact writesOfTwo_of _ exec_seq (fun _ _ => boolW_decide _)
  case min => exact writesOfTwo_of _ exec_min (fun A B => (ite_slt_eq A B).1)
  case max => exact writesOfTwo_of _ exec_max (fun A B => (ite_slt_eq A B).2)
  case minu => exact writesOfTwo_of _ exec_minu (fun A B => (ite_ult_eq A B).1)
  case maxu => exact writesOfTwo_of _ exec_maxu (fun A B => (ite_ult_eq A B).2)
  case addw => exact writesOfTwo_of _ exec_addw (fun _ _ => by rw [truncate_eq_extract _ (by decide)])
  case subw => exact writesOfTwo_of _ exec_subw (fun _ _ => by rw [truncate_eq_extract _ (by decide)])
  case adds => exact writesOfTwo_of _ exec_adds (fun _ _ => by rw [clampI_eq_max_min (by decide)]; rfl)
  case mul => exact writesOfTwoLa_of _ exec_mul (fun _ _ => rfl)
  case mulh => exact writesOfTwoLa_of _ exec_mulh (fun _ _ => rfl)
  case mulhu => exact writesOfTwoLa_of _ exec_mulhu (fun _ _ => rfl)
  case div => exact writesOfTwoLa_of _ exec_div divS_eq
  case divu => exact writesOfTwoLa_of _ exec_divu divU_eq
  case rem => exact writesOfTwoLa_of _ exec_rem remS_eq
  case remu => exact writesOfTwoLa_of _ exec_remu remU_eq

end Sys2Proof.Machine
end

section
/-! SUPPORT. Counts and reversals of bits, the immediate forms, and their words (04_scalar_registers R83, R86). -/

namespace Sys2Proof.Machine

/-! ### Counts of bits -/

/-- The count stops at the first one bit, or at its bound. -/
theorem trailing_eq_iff (n v k : Nat) : trailing n v = k ↔ k ≤ n ∧ (∀ j < k, v.testBit j = false) ∧ (k = n ∨ v.testBit k = true) := by
  induction n generalizing v k with
  | zero =>
    simp only [trailing, Nat.le_zero, eq_comm (a := 0)]
    exact ⟨fun h => by subst h; simp, fun h => h.1⟩
  | succ n ih =>
    rw [trailing]
    split <;> rename_i h
    · have h0 : v.testBit 0 = true := by simp [Nat.testBit_zero, h]
      cases k with
      | zero => simp [h0]
      | succ k => exact iff_of_false k.succ_ne_zero.symm (fun h => absurd (h.2.1 0 k.succ_pos) (by simp [h0]))
    · have h0 : v.testBit 0 = false := by simp [Nat.testBit_zero, h]
      cases k with
      | zero => simp [h0]
      | succ k =>
        have e : 1 + trailing n (v / 2) = k + 1 ↔ trailing n (v / 2) = k := by omega
        rw [e, ih, Nat.forall_lt_succ_left]
        simp [h0, Nat.testBit_succ]

theorem trailing_le (n v : Nat) : trailing n v ≤ n := ((trailing_eq_iff n v _).mp rfl).1

theorem popcount_eq_length (n v : Nat) : popcount n v = ((List.range n).filter v.testBit).length := by
  induction n generalizing v with
  | zero => rfl
  | succ n ih =>
    have e : (v.testBit ∘ Nat.succ) = (v / 2).testBit := funext (fun k => Nat.testBit_succ v k)
    rw [popcount, ih, List.range_succ_eq_map, List.filter_cons, List.filter_map, e]
    rcases Nat.mod_two_eq_zero_or_one v with h | h <;> simp [Nat.testBit_zero, h, Nat.add_comm]

theorem popcount_le (n v : Nat) : popcount n v ≤ n := by
  rw [popcount_eq_length]
  exact (List.length_filter_le _ _).trans_eq List.length_range

/-! ### Reversals -/

theorem reverseBits_lt (n v : Nat) : reverseBits n v < 2 ^ n := by
  induction n generalizing v with
  | zero => simp [reverseBits]
  | succ n ih =>
    have h1 := ih (v / 2)
    have h2 : v % 2 * 2 ^ n ≤ 1 * 2 ^ n := Nat.mul_le_mul_right _ (by omega)
    rw [reverseBits, Nat.pow_succ]
    omega

theorem testBit_reverseBits {n k : Nat} (hk : k < n) (v : Nat) : (reverseBits n v).testBit k = v.testBit (n - 1 - k) := by
  induction n generalizing v k with
  | zero => omega
  | succ n ih =>
    rw [reverseBits, Nat.mul_comm, Nat.testBit_two_pow_mul_add _ (reverseBits_lt n _)]
    split
    · rename_i h
      rw [ih h, ← Nat.testBit_succ]
      congr 1; omega
    · obtain rfl : k = n := by omega
      simp [Nat.testBit_zero]

theorem bits_ofBytes (l : List Byte) (k : Nat) : bits (ofBytes l) (8 * k) 8 = (l.getD k 0).toNat := by
  induction l generalizing k with
  | nil => simp [ofBytes, bits]
  | cons b t ih =>
    have hb := b.isLt
    cases k with
    | zero => simp [ofBytes, bits]; omega
    | succ k =>
      have e : (b.toNat + 256 * ofBytes t) / 2 ^ (8 * (k + 1)) = ofBytes t / 2 ^ (8 * k) := by
        rw [Nat.mul_add, Nat.add_comm (8 * k), Nat.pow_add, ← Nat.div_div_eq_div_mul]
        congr 1; omega
      rw [bits, ofBytes, e, List.getD_cons_succ, ← ih]
      rfl

theorem toBytes_length (n v : Nat) : (toBytes n v).length = n := by
  induction n generalizing v with
  | zero => rfl
  | succ n ih => rw [toBytes, List.length_cons, ih]

theorem getD_toBytes {n k : Nat} (hk : k < n) (v : Nat) : (toBytes n v).getD k 0 = BitVec.ofNat 8 (v / 2 ^ (8 * k)) := by
  induction n generalizing v k with
  | zero => omega
  | succ n ih =>
    cases k with
    | zero => simp [toBytes]
    | succ k =>
      rw [toBytes, List.getD_cons_succ, ih (by omega), Nat.div_div_eq_div_mul, Nat.mul_add, Nat.add_comm (8 * k), Nat.pow_add]

/-- Byte `k` of a doubleword cut from a number. -/
theorem extract_wn (x k : Nat) (hk : k < 8) : (wn x).extractLsb' (8 * k) 8 = BitVec.ofNat 8 (bits x (8 * k) 8) := by
  apply BitVec.eq_of_getLsbD_eq
  intro i hi
  simp only [wn, bits, BitVec.getLsbD_extractLsb', BitVec.getLsbD_ofNat, Nat.testBit_mod_two_pow, Nat.testBit_div_two_pow, hi, decide_true,
    Bool.true_and, decide_eq_true (by omega : 8 * k + i < 64), Nat.add_comm i]

theorem extract_byteSwap (A : Word) {k : Nat} (hk : k < 8) : (byteSwap A).extractLsb' (8 * (7 - k)) 8 = A.extractLsb' (8 * k) 8 := by
  have hl : 7 - k < (toBytes 8 A.toNat).length := by rw [toBytes_length]; omega
  have hk' : (toBytes 8 A.toNat).length - 1 - (7 - k) = k := by rw [toBytes_length]; omega
  rw [byteSwap, extract_wn _ _ (by omega), bits_ofBytes, List.getD_reverse _ hl, hk', getD_toBytes hk, BitVec.ofNat_toNat, BitVec.setWidth_eq,
    BitVec.extractLsb', Nat.shiftRight_eq_div_pow]

/-! ### Leading zero bits -/

theorem forall_top_bits_false_iff {n v k : Nat} (hv : v < 2 ^ n) (hk : k ≤ n) : (∀ j < k, v.testBit (n - 1 - j) = false) ↔ v < 2 ^ (n - k) := by
  constructor
  · intro h
    refine Nat.lt_pow_two_of_testBit v (fun i hi => ?_)
    by_cases hin : i < n
    · have := h (n - 1 - i) (by omega)
      rwa [show n - 1 - (n - 1 - i) = i by omega] at this
    · exact Nat.testBit_lt_two_pow (hv.trans_le (Nat.pow_le_pow_right (by decide) (by omega)))
  · exact fun h j hj => Nat.testBit_lt_two_pow (h.trans_le (Nat.pow_le_pow_right (by decide) (by omega)))

theorem testBit_top_iff {m v : Nat} (hv : v < 2 ^ (m + 1)) : v.testBit m = true ↔ 2 ^ m ≤ v := by
  refine ⟨Nat.ge_two_pow_of_testBit, fun h => ?_⟩
  have e : v / 2 ^ m = 1 := Nat.div_eq_of_lt_le (by omega) (by rw [Nat.pow_succ] at hv; omega)
  rw [Nat.testBit_eq_decide_div_mod_eq, e]
  rfl

/-- The trailing zero bits of a reversed number are the leading ones of the number. -/
theorem trailing_reverseBits_eq_iff {n v : Nat} (hv : v < 2 ^ n) (k : Nat) :
    trailing n (reverseBits n v) = k ↔ k ≤ n ∧ v < 2 ^ (n - k) ∧ (k = n ∨ 2 ^ (n - 1 - k) ≤ v) := by
  rw [trailing_eq_iff]
  refine and_congr_right (fun hk => ?_)
  have hz : (∀ j < k, (reverseBits n v).testBit j = false) ↔ v < 2 ^ (n - k) := by
    rw [← forall_top_bits_false_iff hv hk]
    exact forall₂_congr (fun j hj => by rw [testBit_reverseBits (by omega)])
  rw [hz]
  refine and_congr_right (fun hlt => or_congr_right' (fun hne => ?_))
  rw [testBit_reverseBits (by omega)]
  exact testBit_top_iff (by rwa [show n - 1 - k + 1 = n - k by omega])

/-! ### The counts and the reversal as doublewords -/

/-- What CLZ, CTZ, POPC and BREV give, as the model computes it. -/
def clzOf (A : Word) : Word := wn (trailing 64 (reverseBits 64 A.toNat))
def ctzOf (A : Word) : Word := wn (trailing 64 A.toNat)
def popcOf (A : Word) : Word := wn (popcount 64 A.toNat)
def brevOf (A : Word) : Word := wn (reverseBits 64 A.toNat)

theorem wn_toNat_of_lt {n : Nat} (h : n < 2 ^ 64) : (wn n).toNat = n := Nat.mod_eq_of_lt h

theorem clzOf_toNat_eq_iff (A : Word) (n : Nat) :
    (clzOf A).toNat = n ↔ n ≤ 64 ∧ A.toNat < 2 ^ (64 - n) ∧ (n = 64 ∨ 2 ^ (63 - n) ≤ A.toNat) := by
  rw [clzOf, wn_toNat_of_lt ((trailing_le 64 _).trans_lt (by decide)), trailing_reverseBits_eq_iff A.isLt]

theorem ctzOf_toNat_eq_iff (A : Word) (n : Nat) :
    (ctzOf A).toNat = n ↔ n ≤ 64 ∧ (∀ k < n, A.getLsbD k = false) ∧ (n = 64 ∨ A.getLsbD n = true) := by
  rw [ctzOf, wn_toNat_of_lt ((trailing_le 64 _).trans_lt (by decide)), trailing_eq_iff]
  rfl

theorem popcOf_toNat (A : Word) : (popcOf A).toNat = ((List.range 64).filter A.getLsbD).length := by
  rw [popcOf, wn_toNat_of_lt ((popcount_le 64 _).trans_lt (by decide)), popcount_eq_length]
  rfl

theorem getLsbD_brevOf (A : Word) {k : Nat} (hk : k < 64) : (brevOf A).getLsbD (63 - k) = A.getLsbD k := by
  rw [brevOf, wn, BitVec.getLsbD_ofNat, testBit_reverseBits (by omega), decide_eq_true (by omega), Bool.true_and, BitVec.testBit_toNat]
  congr 1; omega

/-! ### Immediates -/

theorem writesOfOne_of_opI {i : BitVec 5 → BitVec 5 → Instr} {f g : Word → Word} (he : ∀ d a s, exec (i d a) s = opI d a g s)
    (hg : ∀ A, g A = f A) : WritesOfOne i f :=
  writesOfOne_of g he hg

theorem setWidth_low (A : Word) (w : Nat) : (A.truncate w).zeroExtend 64 = BitVec.ofNat 64 (A.toNat % 2 ^ w) := by
  apply BitVec.eq_of_toNat_eq
  simp

theorem sx16_toInt (i : BitVec 16) : (sx16 i).toInt = i.toInt := BitVec.toInt_signExtend_of_le (by decide)

theorem zx16_toNat (i : BitVec 16) : (zx16 i).toNat = i.toNat := BitVec.toNat_setWidth_of_le (by decide)

theorem sx16_shiftLeft (i : BitVec 16) : sx16 i <<< 16 = BitVec.ofInt 64 (i.toInt * 2 ^ 16) := by
  rw [BitVec.ofInt_mul, BitVec.shiftLeft_eq_mul_twoPow]
  rfl

/-! ### Words -/

/-- The word of a shift by a constant. -/
theorem packI_shift (d a : BitVec 5) (z : BitVec 2) (n : BitVec 6) : packI 9 d a (z ++ 0#8 ++ n) = 0x09#6 ++ d ++ a ++ z ++ 0#8 ++ n := by
  have h1 := BitVec.append_assoc (x₁ := 0x09#6 ++ d ++ a) (x₂ := z ++ 0#8) (x₃ := n)
  have h2 := BitVec.append_assoc (x₁ := 0x09#6 ++ d ++ a) (x₂ := z) (x₃ := 0#8)
  exact ((congrArg (· ++ n) h2).trans h1).symm

theorem decode_of_raw_error {w : IWord} {r : Reject} (h : decodeRaw w = .error r) : decode w = .error r := by
  rw [decode, h]

theorem need_of_not {p : Prop} [Decidable p] (h : ¬p) (i : Instr) : need p i = .error .mustBeZero := if_neg h

theorem decodeRaw_lui {w : IWord} (h : w.extractLsb' 26 6 = 8) : decodeRaw w = need (f5 w 16 = 0) (.lui (f5 w 21) (w.extractLsb' 0 16)) := by
  unfold decodeRaw
  rw [h]
  rfl

theorem decodeRaw_shi {w : IWord} (h : w.extractLsb' 26 6 = 9) : decodeRaw w = decodeShi (f5 w 21) (f5 w 16) (w.extractLsb' 0 16) := by
  unfold decodeRaw
  rw [h]
  rfl

/-- LUI has no source: a word that names one is unassigned. -/
theorem decode_lui_error (d : BitVec 5) {a : BitVec 5} (i : BitVec 16) (ha : a ≠ 0) : ∃ r, decode (packI 8 d a i) = .error r := by
  refine ⟨_, decode_of_raw_error ((decodeRaw_lui (packI_m _ _ _ _)).trans (need_of_not ?_ _))⟩
  rwa [f5, packI_a]

theorem decodeShi_error (d a : BitVec 5) {i : BitVec 16} (hi : i.extractLsb' 6 8 ≠ 0) : ∃ r, decodeShi d a i = .error r := by
  unfold decodeShi
  split
  · exact ⟨_, need_of_not hi _⟩
  · exact ⟨_, need_of_not hi _⟩
  · exact ⟨_, need_of_not hi _⟩
  · exact ⟨_, need_of_not hi _⟩
  · exact ⟨_, rfl⟩

/-- The eight bits between the kind of a shift and its amount are zero. -/
theorem decode_shift_error (d a : BitVec 5) {i : BitVec 16} (hi : i.extractLsb' 6 8 ≠ 0) : ∃ r, decode (packI 9 d a i) = .error r := by
  obtain ⟨r, hr⟩ := decodeShi_error d a hi
  refine ⟨r, decode_of_raw_error ((decodeRaw_shi (packI_m _ _ _ _)).trans ?_)⟩
  rwa [f5, f5, packI_d, packI_a, packI_imm]

/-! ### The group -/

/-- The one-source members of the ALU group. -/
theorem oneSource_writes :
    WritesOfOne .sextb (fun A => (A.extractLsb' 0 8).signExtend 64) ∧ WritesOfOne .sexth (fun A => (A.extractLsb' 0 16).signExtend 64) ∧
    WritesOfOne .sextw (fun A => (A.extractLsb' 0 32).signExtend 64) ∧ WritesOfOne .zextw (fun A => BitVec.ofNat 64 (A.toNat % 2 ^ 32)) ∧
    WritesOfOne .clz clzOf ∧ WritesOfOne .ctz ctzOf ∧ WritesOfOne .popc popcOf ∧ WritesOfOne .brev brevOf ∧ WritesOfOne .bswap byteSwap :=
  ⟨writesOfOne_of _ exec_sextb (fun A => by rw [truncate_eq_extract A (by decide)]),
    writesOfOne_of _ exec_sexth (fun A => by rw [truncate_eq_extract A (by decide)]),
    writesOfOne_of _ exec_sextw (fun A => by rw [truncate_eq_extract A (by decide)]),
    writesOfOne_of _ exec_zextw (fun A => setWidth_low A 32),
    writesOfOne_of _ exec_clz (fun _ => rfl), writesOfOne_of _ exec_ctz (fun _ => rfl), writesOfOne_of _ exec_popc (fun _ => rfl),
    writesOfOne_of _ exec_brev (fun _ => rfl), writesOfOne_of _ exec_bswap (fun _ => rfl)⟩

theorem addi_writes (i : BitVec 16) : WritesOfOne (fun d a => .addi d a i) (fun A => A + i.signExtend 64) :=
  writesOfOne_of_opI (fun d a s => exec_addi d a i s) (fun _ => rfl)
theorem andi_writes (i : BitVec 16) : WritesOfOne (fun d a => .andi d a i) (fun A => A &&& i.zeroExtend 64) :=
  writesOfOne_of_opI (fun d a s => exec_andi d a i s) (fun _ => rfl)
theorem ori_writes (i : BitVec 16) : WritesOfOne (fun d a => .ori d a i) (fun A => A ||| i.zeroExtend 64) :=
  writesOfOne_of_opI (fun d a s => exec_ori d a i s) (fun _ => rfl)
theorem xori_writes (i : BitVec 16) : WritesOfOne (fun d a => .xori d a i) (fun A => A ^^^ i.zeroExtend 64) :=
  writesOfOne_of_opI (fun d a s => exec_xori d a i s) (fun _ => rfl)
theorem slti_writes (i : BitVec 16) : WritesOfOne (fun d a => .slti d a i) (fun A => if A.toInt < i.toInt then 1 else 0) :=
  writesOfOne_of_opI (fun d a s => exec_slti d a i s) (fun A => by rw [BitVec.slt, sx16_toInt, boolW_decide])
theorem sltiu_writes (i : BitVec 16) : WritesOfOne (fun d a => .sltiu d a i) (fun A => if A.toNat < i.toNat then 1 else 0) :=
  writesOfOne_of_opI (fun d a s => exec_sltiu d a i s) (fun A => by rw [BitVec.ult, zx16_toNat, boolW_decide])
theorem lui_completes {s : State} {d : BitVec 5} (i : BitVec 16) (h : s.ready (Plan.simple [] [sR d]) = true) :
    Completes s (.lui d i) (s.core.writeS d (BitVec.ofInt 64 (i.toInt * 2 ^ 16))) :=
  opS_completes h (exec_lui d i s) (fun _ _ _ => rfl) (sx16_shiftLeft i)

theorem shiftImmediate_writes (n : BitVec 6) :
    WritesOfOne (fun d a => .slli d a n) (fun A => A <<< n.toNat) ∧ WritesOfOne (fun d a => .srli d a n) (fun A => A >>> n.toNat) ∧
    WritesOfOne (fun d a => .srai d a n) (fun A => A.sshiftRight n.toNat) ∧ WritesOfOne (fun d a => .rori d a n) (fun A => A.rotateRight n.toNat) :=
  ⟨writesOfOne_of_opI (fun d a s => exec_slli d a n s) (fun _ => rfl), writesOfOne_of_opI (fun d a s => exec_srli d a n s) (fun _ => rfl),
    writesOfOne_of_opI (fun d a s => exec_srai d a n s) (fun _ => rfl),
    writesOfOne_of_opI (fun d a s => exec_rori d a n s) (fun A => rotR_eq_rotateRight A n.isLt)⟩

/-- Settles O2: the results by member, then the words. -/
theorem aluOneSourceAndImmediates : Obligations.AluOneSourceAndImmediates := by
  unfold Obligations.AluOneSourceAndImmediates
  obtain ⟨sextb, sexth, sextw, zextw, clz, ctz, popc, brev, bswap⟩ := oneSource_writes
  refine ⟨⟨sextb, sexth, sextw, zextw, clzOf, ctzOf, popcOf, brevOf, byteSwap, clz, ctz, popc, brev, bswap, fun A => ?bits⟩,
    fun i => ⟨addi_writes i, andi_writes i, ori_writes i, xori_writes i, slti_writes i, sltiu_writes i, fun _ _ h => lui_completes i h⟩,
    shiftImmediate_writes, ?words, fun _ _ => rfl, ?shiftWords, fun d a i => ⟨decode_lui_error d i, decode_shift_error d a⟩⟩
  case bits =>
    exact ⟨clzOf_toNat_eq_iff A, ctzOf_toNat_eq_iff A, popcOf_toNat A, fun _ => getLsbD_brevOf A, fun _ => extract_byteSwap A⟩
  case words =>
    intro d a i x hx
    simp only [List.mem_cons, List.not_mem_nil, or_false] at hx
    rcases hx with rfl | rfl | rfl | rfl | rfl | rfl <;> rfl
  case shiftWords =>
    intro d a n x hx
    simp only [List.mem_cons, List.not_mem_nil, or_false] at hx
    rcases hx with rfl | rfl | rfl | rfl
    · exact congrArg some (packI_shift d a 0 n)
    · exact congrArg some (packI_shift d a 1 n)
    · exact congrArg some (packI_shift d a 2 n)
    · exact congrArg some (packI_shift d a 3 n)

end Sys2Proof.Machine
end

section
/-! SUPPORT. Bit fields and funnel shifts by bit position, and their words (04_scalar_registers R87, R88). -/

namespace Sys2Proof.Machine

/-! ### Fields -/

theorem fieldLen_le (n : BitVec 6) : fieldLen n ≤ 64 := by
  have hn := n.isLt
  unfold fieldLen
  split <;> omega

theorem fieldGet_toNat (A : Word) (p : Nat) {l : Nat} (hl : l ≤ 64) : (fieldGet A p l).toNat = A.toNat / 2 ^ p % 2 ^ l :=
  wn_toNat_of_lt ((Nat.mod_lt _ (Nat.two_pow_pos l)).trans_le (Nat.pow_le_pow_right (by decide) hl))

theorem getLsbD_fieldMask (p l : Nat) {k : Nat} (hk : k < 64) : (fieldMask p l).getLsbD k = decide (p ≤ k ∧ k < p + l) := by
  rw [fieldMask, wn, BitVec.getLsbD_ofNat, Nat.testBit_mul_two_pow, Nat.testBit_two_pow_sub_one, decide_eq_true hk, Bool.true_and,
    ← Bool.decide_and, decide_eq_decide]
  omega

/-- A field put into a doubleword: inside it the low bits of what is put, outside it the old bits. -/
theorem getLsbD_fieldPut (A D : Word) (p l : Nat) {k : Nat} (hk : k < 64) :
    (fieldPut D A p l).getLsbD k = if p ≤ k ∧ k < p + l then A.getLsbD (k - p) else D.getLsbD k := by
  rw [fieldPut, BitVec.getLsbD_or, BitVec.getLsbD_and, BitVec.getLsbD_and, BitVec.getLsbD_not, BitVec.getLsbD_shiftLeft, getLsbD_fieldMask p l hk]
  split
  · rename_i h
    simp [h, hk, Nat.not_lt.mpr h.1]
  · rename_i h
    simp [h, hk]

theorem shiftBy_eq_mod (B : Word) : shiftBy B = B.toNat % 2 ^ 6 := by
  simp [shiftBy, fld, bits]

theorem fld_low (C : Word) (n : Nat) : fld C 0 n = C.toNat % 2 ^ n := by
  simp [fld, bits]

/-! ### Results -/

theorem bext_writes (P n : BitVec 6) :
    WritesOfOne (fun d a => .bext d a P n) (fun A => BitVec.ofNat 64 (A.toNat / 2 ^ P.toNat % 2 ^ fieldLen n)) :=
  writesOfOne_of (fun A => fieldGet A P.toNat (fieldLen n)) (fun d a s => exec_bext d a P n s) (fun _ => rfl)

theorem bexts_writes (P n : BitVec 6) : WritesOfOne (fun d a => .bexts d a P n)
    (fun A => BitVec.ofInt 64 (sxt (fieldLen n) (A.toNat / 2 ^ P.toNat % 2 ^ fieldLen n))) :=
  writesOfOne_of (fun A => wi (sxt (fieldLen n) (fieldGet A P.toNat (fieldLen n)).toNat)) (fun d a s => exec_bexts d a P n s)
    (fun A => by rw [fieldGet_toNat A _ (fieldLen_le n)]; rfl)

theorem bins_completes {s : State} {d a : BitVec 5} (P n : BitVec 6) (h : s.ready (Plan.simple [sR a, sR d] [sR d]) = true) :
    Completes s (.bins d a P n) (s.core.writeS d (fieldPut (s.core.readS d) (s.core.readS a) P.toNat (fieldLen n))) :=
  opS_completes h (exec_bins d a P n s) (Core.steady_of (fun _ _ _ _ _ _ _ _ _ => rfl)) rfl

section
variable {s : State} {d a b c : BitVec 5}

theorem fshl_completes (h : s.ready (Plan.simple [sR a, sR b, sR c] [sR d]) = true) : Completes s (.fshl d a b c) (s.core.writeS d
    (BitVec.ofNat 64 (((s.core.readS a).toNat * 2 ^ 64 + (s.core.readS b).toNat) * 2 ^ ((s.core.readS c).toNat % 2 ^ 7) / 2 ^ 64))) :=
  opS_completes h (exec_fshl d a b c s) (Core.steady_of (fun _ _ _ _ _ _ _ _ _ => rfl)) (by rw [fld_low]; rfl)

theorem fshr_completes (h : s.ready (Plan.simple [sR a, sR b, sR c] [sR d]) = true) : Completes s (.fshr d a b c) (s.core.writeS d
    (BitVec.ofNat 64 (((s.core.readS a).toNat * 2 ^ 64 + (s.core.readS b).toNat) / 2 ^ ((s.core.readS c).toNat % 2 ^ 7)))) :=
  opS_completes h (exec_fshr d a b c s) (Core.steady_of (fun _ _ _ _ _ _ _ _ _ => rfl)) (by rw [fld_low]; rfl)

theorem bextv_completes (h : s.ready (Plan.simple [sR a, sR b, sR c] [sR d]) = true) : Completes s (.bextv d a b c) (s.core.writeS d
    (BitVec.ofNat 64 ((s.core.readS a).toNat / 2 ^ ((s.core.readS b).toNat % 2 ^ 6) % 2 ^ min ((s.core.readS c).toNat % 2 ^ 7) 64))) :=
  opS_completes h (exec_bextv d a b c s) (Core.steady_of (fun _ _ _ _ _ _ _ _ _ => rfl)) (by rw [shiftBy_eq_mod, lenOf, fld_low]; rfl)

theorem binsv_completes (h : s.ready (Plan.simple [sR a, sR b, sR c, sR d] [sR d]) = true) : Completes s (.binsv d a b c) (s.core.writeS d
    (fieldPut (s.core.readS d) (s.core.readS a) ((s.core.readS b).toNat % 2 ^ 6) (min ((s.core.readS c).toNat % 2 ^ 7) 64))) :=
  opS_completes h (exec_binsv d a b c s) (Core.steady_of (fun _ _ _ _ _ _ _ _ _ => rfl)) (by rw [shiftBy_eq_mod, lenOf, fld_low])

end

/-! ### Words -/

theorem decodeRaw_bf {w : IWord} (h : w.extractLsb' 26 6 = 0x20) : decodeRaw w =
    decodeBf (f5 w 21) (f5 w 16) (w.extractLsb' 10 6) (w.extractLsb' 4 6) (w.extractLsb' 2 2) (w.extractLsb' 0 2) := by
  unfold decodeRaw
  rw [h]
  rfl

theorem decodeRaw_fs {w : IWord} (h : w.extractLsb' 26 6 = 0x27) : decodeRaw w =
    decodeFs (f5 w 21) (f5 w 16) (f5 w 11) (f5 w 6) (w.extractLsb' 4 2) (w.extractLsb' 0 4) := by
  unfold decodeRaw
  rw [h]
  rfl

theorem decodeBf_error (d a : BitVec 5) (P n : BitVec 6) {sub z : BitVec 2} (h : sub = 3 ∨ z ≠ 0) : ∃ r, decodeBf d a P n sub z = .error r := by
  rcases h with rfl | hz
  · exact ⟨_, rfl⟩
  · unfold decodeBf
    split
    · exact ⟨_, need_of_not hz _⟩
    · exact ⟨_, need_of_not hz _⟩
    · exact ⟨_, need_of_not hz _⟩
    · exact ⟨_, rfl⟩

theorem decodeFs_error (d a b c : BitVec 5) (sub : BitVec 2) {z : BitVec 4} (hz : z ≠ 0) : ∃ r, decodeFs d a b c sub z = .error r := by
  unfold decodeFs
  split
  · exact ⟨_, need_of_not hz _⟩
  · exact ⟨_, need_of_not hz _⟩
  · exact ⟨_, need_of_not hz _⟩
  · exact ⟨_, need_of_not hz _⟩
  · exact ⟨_, rfl⟩

theorem decode_bf_error (d a : BitVec 5) (P n : BitVec 6) {sub z : BitVec 2} (h : sub = 3 ∨ z ≠ 0) :
    ∃ r, decode (packBF 0x20 d a P n sub z) = .error r := by
  obtain ⟨r, hr⟩ := decodeBf_error d a P n h
  refine ⟨r, decode_of_raw_error ((decodeRaw_bf (packBF_m _ _ _ _ _ _ _)).trans ?_)⟩
  rwa [f5, f5, packBF_d, packBF_a, packBF_pos, packBF_len, packBF_sub, packBF_z]

theorem decode_fs_error (d a b c : BitVec 5) (sub : BitVec 2) {z : BitVec 4} (hz : z ≠ 0) :
    ∃ r, decode (packFS 0x27 d a b c sub z) = .error r := by
  obtain ⟨r, hr⟩ := decodeFs_error d a b c sub hz
  refine ⟨r, decode_of_raw_error ((decodeRaw_fs (packFS_m _ _ _ _ _ _ _)).trans ?_)⟩
  rwa [f5, f5, f5, f5, packFS_d, packFS_a, packFS_b, packFS_c, packFS_sub, packFS_z]

/-- Settles O3: extraction and funnel shifts as numbers, insertion bit by bit, and the words. -/
theorem bitFields : Obligations.BitFields := by
  unfold Obligations.BitFields
  refine ⟨?fixed, ?byRegister, ?bfWords, ?fsWords, fun d a P n _ _ => decode_bf_error d a P n, fun d a b c sub _ => decode_fs_error d a b c sub⟩
  case fixed =>
    rintro P n L rfl
    exact ⟨bext_writes P n, bexts_writes P n, fun s d a h => ⟨_, bins_completes P n h, fun k hk => getLsbD_fieldPut _ _ _ _ hk⟩⟩
  case byRegister =>
    rintro s d a b c A B C n P L rfl rfl rfl rfl rfl rfl
    exact ⟨fun h => ⟨fshl_completes h, fshr_completes h, bextv_completes h⟩,
      fun h => ⟨_, binsv_completes h, fun k hk => getLsbD_fieldPut _ _ _ _ hk⟩⟩
  case bfWords =>
    intro d a P n x hx
    simp only [List.mem_cons, List.not_mem_nil, or_false] at hx
    rcases hx with rfl | rfl | rfl <;> rfl
  case fsWords =>
    intro d a b c x hx
    simp only [List.mem_cons, List.not_mem_nil, or_false] at hx
    rcases hx with rfl | rfl | rfl | rfl <;> rfl

end Sys2Proof.Machine
end

section
/-! SUPPORT. Jumps and faults at issue, and from them the branches and jumps with their words (04_scalar_registers R89 to R91). -/

namespace Sys2Proof.Machine

/-! ### Where an instruction's own part begins -/

theorem Core.readS_kept {c e : Core} (h : c.kept e) (n : BitVec 5) : e.readS n = c.readS n := by
  unfold Core.readS
  rw [Core.kept_regs h]

theorem Core.plainly_gang {c e : Core} (h : c.plainly e) : e.gang = c.gang := by rw [h.1]

/-! ### An instruction that jumps -/

theorem State.boundary_gang {t : State} {a : Nat} (hs : (t.coreAt a).sam = false) : ((t.boundary a).coreAt a).gang = (t.coreAt a).gang := by
  unfold State.boundary
  rw [samGrant_idle t a hs]
  dsimp only
  split
  · rw [State.coreAt_mapCore_self, (Core.closeChunk_kept _).1]
  · rfl

theorem State.gangIssued_of_no_gang {t : State} {a : Nat} (hg : (t.coreAt a).gang = none) (pc : Word) (jumped : Bool) :
    t.gangIssued a pc jumped = t := by
  unfold State.gangIssued
  rw [hg]

/-- Outside a gang it does not matter whether the next PC is a jump's. -/
theorem State.finish_jumped {s t : State} {p : Plan} {pc : Word} (ht : t.cur = s.cur) (hs : t.core.sam = false) (hg : t.core.gang = none)
    (jumped : Bool) : s.finish t p pc jumped = s.finish t p pc := by
  have e : t.me (fun c => { (c.sbPass p).setPc pc with wait := none }.count 2 1) = t.setCore s.cur (t.core.ended p pc) := by
    unfold State.me State.mapCore State.core
    rw [ht]
    rfl
  have hs' : ((t.setCore s.cur (t.core.ended p pc)).coreAt s.cur).sam = false := by
    rw [State.coreAt_setCore_self, Core.ended_eq]
    exact hs
  have hg' : (((t.setCore s.cur (t.core.ended p pc)).boundary s.cur).coreAt s.cur).gang = none := by
    rw [State.boundary_gang hs', State.coreAt_setCore_self, Core.ended_eq]
    exact hg
  unfold State.finish
  dsimp only
  rw [e, State.gangIssued_of_no_gang hg', State.gangIssued_of_no_gang hg']

/-- An instruction whose own part changes registers by `f` and jumps to `pc` completes there. -/
theorem completesAt_of_jump {s : State} {p : Plan} {body : State → Res} {i : Instr} {f : Core → Core} {pc : Word}
    (he : exec i s = issue p body s) (h : s.ready p = true) (hf : Core.RegsOnly f) (hs : Core.Steady (fun c => (f c).regs))
    (hb : ∀ c, s.core.kept c → body (s.setCore s.cur c) = .jump (s.setCore s.cur (f c)) pc) : CompletesAt s i (f s.core) pc := by
  obtain ⟨hg, hsam, -, hr⟩ := State.ready_gang h
  obtain ⟨c, e1, e2, e3⟩ := State.begin_eq s p hsam hr
  obtain ⟨hp, hsam'⟩ := Core.regsOnly_plainly hf c
  obtain ⟨t, t1, t2, t3, t4⟩ := State.finish_quiet h (f c) (Core.plainly_trans (Core.plainly_of_kept e2) hp) (hsam'.trans e3) pc
  have hg' : (f c).gang = none := (Core.plainly_gang (Core.plainly_trans (Core.plainly_of_kept e2) hp)).trans hg
  have ec : (s.setCore s.cur (f c)).core = f c := State.core_setCore s (f c)
  have hj := State.finish_jumped (s := s) (t := s.setCore s.cur (f c)) (p := p) (pc := pc) rfl ((congrArg Core.sam ec).trans (hsam'.trans e3))
    ((congrArg Core.gang ec).trans hg') true
  refine ⟨t, ?_, ?_, t3, t4⟩
  · rw [he, issue_ready body h, e1, hb c e2]
    show Host.Outcome.next (s.finish (s.setCore s.cur (f c)) p pc true) = _
    rw [hj, t1]
  · have hregs : (f c).regs = (f s.core).regs := hs _ _ e2
    rw [t2, hregs]

/-! ### An access fault at issue -/

theorem State.keepViews_access {p : Plan} (hm : p.mem = false) (s : State) (va : Word) : s.keepViews p (.access va) = s := by
  unfold State.keepViews
  simp only [hm, Bool.false_and, Bool.false_eq_true, if_false]

theorem State.stopWhenIdle_of_faultable {s : State} (hf : s.faultable) (held stop : State) : s.stopWhenIdle held stop s.cur = stop := by
  obtain ⟨hsb, hhit⟩ := hf
  have hsb' : (s.coreAt s.cur).scoreboard = [] := hsb
  have hhit' : s.hitsOwn s.cur = none := hhit
  simp [State.stopWhenIdle, hsb', hhit']

/-- An instruction without memory accesses whose own part finds an access fault takes it in the state at its issue. -/
theorem exec_of_access_fault {s : State} {p : Plan} {body : State → Res} {i : Instr} {va : Word} (he : exec i s = issue p body s)
    (h : s.ready p = true) (hf : s.faultable) (hm : p.mem = false)
    (hb : ∀ c, s.core.kept c → body (s.setCore s.cur c) = .fault (.access va)) : exec i s = .next (s.takeFault s.cur (.access va)) := by
  obtain ⟨hg, hsam, -, hr⟩ := State.ready_gang h
  obtain ⟨c, e1, e2, -⟩ := State.begin_eq s p hsam hr
  rw [he, issue_ready body h, e1, hb c e2]
  refine congrArg _ ?_
  calc s.concludeIssue p (.fault (.access va))
      = s.stopWhenIdle ((s.retry p).hold .scoreboard) ((s.keepViews p (.access va)).takeFault s.cur (.access va)) s.cur := rfl
    _ = s.takeFault s.cur (.access va) := by rw [State.stopWhenIdle_of_faultable hf, State.keepViews_access hm]

/-! ### Branches -/

/-- A member whose meaning is a branch under `g` branches on the condition that `g` decides. -/
theorem branchesOn_of {i : BitVec 5 → BitVec 5 → BitVec 16 → Instr} {g : Word → Word → Bool} {taken : Word → Word → Prop}
    (he : ∀ a b o s, exec (i a b o) s = branch a b o g s) (hg : ∀ A B, g A B = true ↔ taken A B) : BranchesOn i taken := by
  intro s a b o target h ht
  have hid : Core.RegsOnly id := fun _ => rfl
  have hst : Core.Steady (fun c => (id c).regs) := fun _ _ hk => Core.kept_regs hk
  have hb : branchTo s.core.regs.pc o = target := ht.symm
  have hgt : taken (s.core.readS a) (s.core.readS b) → g (s.core.readS a) (s.core.readS b) = true := (hg _ _).mpr
  refine ⟨fun hn => ?fallsThrough, fun hy hc => ?jumps, fun hy hc hf => ?faults⟩
  case fallsThrough =>
    refine completesAt_of (f := id) (he a b o s) h hid hst (fun c hk => ?_)
    have hgf : g (s.core.readS a) (s.core.readS b) = false := by rw [← Bool.not_eq_true, hg]; exact hn
    simp only [State.core_setCore, Core.readS_kept hk, hgf, Bool.false_eq_true, if_false]
    rfl
  case jumps =>
    refine completesAt_of_jump (f := id) (he a b o s) h hid hst (fun c hk => ?_)
    simp only [State.core_setCore, Core.readS_kept hk, Core.kept_regs hk, hgt hy, hb, hc, if_true, id]
  case faults =>
    refine exec_of_access_fault (he a b o s) h hf rfl (fun c hk => ?_)
    simp only [State.core_setCore, Core.readS_kept hk, Core.kept_regs hk, hgt hy, hb, hc, if_true, Bool.false_eq_true, if_false]

theorem not_slt_iff (A B : Word) : (!A.slt B) = true ↔ B.toInt ≤ A.toInt := by simp [BitVec.slt]
theorem not_ult_iff (A B : Word) : (!A.ult B) = true ↔ B.toNat ≤ A.toNat := by simp [BitVec.ult]

/-! ### Jumps -/

/-- A link is the address behind the jump. -/
theorem link_steady (d : BitVec 5) : Core.Steady (fun c => (c.writeS d (c.regs.pc + 4)).regs) := by
  intro c e hk
  dsimp only
  rw [Core.kept_regs hk]
  exact Core.writeS_regs (Core.kept_regs hk) d _

theorem fld_low_two_eq_zero_iff (t : Word) : fld t 0 2 = 0 ↔ t.toNat % 4 = 0 := by
  simp [fld, bits]

section
variable {s : State}

theorem jal_completesAt {o : BitVec 26} (h : s.ready { Plan.simple [] [sR 1] with ahead := .branches } = true)
    (hc : canonical (jumpTo s.core.regs.pc o) = true) :
    CompletesAt s (.jal o) (s.core.writeS 1 (s.core.regs.pc + 4)) (jumpTo s.core.regs.pc o) := by
  refine completesAt_of_jump (f := fun c => c.writeS 1 (c.regs.pc + 4)) (exec_jal o s) h (Core.regsOnly_writeS _ 1) (link_steady 1)
    (fun c hk => ?_)
  simp only [State.core_setCore, Core.kept_regs hk, hc, if_true, State.me_setCore]

theorem jal_faults {o : BitVec 26} (h : s.ready { Plan.simple [] [sR 1] with ahead := .branches } = true)
    (hc : canonical (jumpTo s.core.regs.pc o) = false) (hf : s.faultable) :
    exec (.jal o) s = .next (s.takeFault s.cur (.access (jumpTo s.core.regs.pc o))) := by
  refine exec_of_access_fault (exec_jal o s) h hf rfl (fun c hk => ?_)
  simp only [State.core_setCore, Core.kept_regs hk, hc, Bool.false_eq_true, if_false]

variable {d a : BitVec 5} {i : BitVec 16}

theorem jalr_completesAt (h : s.ready { Plan.simple [sR a] [sR d] with ahead := .branches } = true)
    (hc : (s.core.readS a + sx16 i).toNat % 4 = 0 ∧ canonical (s.core.readS a + sx16 i) = true) :
    CompletesAt s (.jalr d a i) (s.core.writeS d (s.core.regs.pc + 4)) (s.core.readS a + sx16 i) := by
  rw [← fld_low_two_eq_zero_iff] at hc
  refine completesAt_of_jump (f := fun c => c.writeS d (c.regs.pc + 4)) (exec_jalr d a i s) h (Core.regsOnly_writeS _ d) (link_steady d)
    (fun c hk => ?_)
  simp only [State.core_setCore, Core.readS_kept hk, hc.1, hc.2, decide_true, Bool.and_self, if_true, State.me_setCore]

theorem jalr_faults (h : s.ready { Plan.simple [sR a] [sR d] with ahead := .branches } = true)
    (hc : ¬((s.core.readS a + sx16 i).toNat % 4 = 0 ∧ canonical (s.core.readS a + sx16 i) = true)) (hf : s.faultable) :
    exec (.jalr d a i) s = .next (s.takeFault s.cur (.access (s.core.readS a + sx16 i))) := by
  rw [← fld_low_two_eq_zero_iff] at hc
  refine exec_of_access_fault (exec_jalr d a i s) h hf rfl (fun c hk => ?_)
  simp only [State.core_setCore, Core.readS_kept hk, Bool.and_eq_true, decide_eq_true_eq, hc, if_false]

end

/-- Settles O5: each branch by its condition, the two jumps by their targets, and the words. -/
theorem branchesAndJumps : Obligations.BranchesAndJumps := by
  unfold Obligations.BranchesAndJumps
  refine ⟨⟨branchesOn_of exec_beq (fun _ _ => beq_iff_eq), branchesOn_of exec_bne (fun _ _ => bne_iff_ne),
    branchesOn_of exec_blt (fun _ _ => BitVec.slt_iff_toInt_lt), branchesOn_of exec_bge not_slt_iff,
    branchesOn_of exec_bltu (fun _ _ => decide_eq_true_iff), branchesOn_of exec_bgeu not_ult_iff⟩, ?jumps, ?words, fun _ => rfl, fun _ _ _ => rfl⟩
  case jumps =>
    rintro s pc rfl
    refine ⟨?jal, ?jalr⟩
    case jal =>
      rintro o t rfl h
      exact ⟨jal_completesAt h, jal_faults h⟩
    case jalr =>
      rintro d a i t rfl h
      exact ⟨jalr_completesAt h, jalr_faults h⟩
  case words =>
    intro a b o x hx
    simp only [List.mem_cons, List.not_mem_nil, or_false] at hx
    rcases hx with rfl | rfl | rfl | rfl | rfl | rfl <;> rfl

end Sys2Proof.Machine
end

section
/-! SUPPORT. Elements of vector registers and the writes that put them there: results given by element, flags gathered from
several results, and the instructions that end in one such write (05_vector_registers R98 to R104). -/

namespace Sys2Proof.Machine

/-! ### Lists by position -/

theorem tab_eq_map_range {α : Type} (f : Nat → α) (lo n : Nat) : tab f lo n = (List.range n).map (fun k => f (lo + k)) := by
  induction n generalizing lo with
  | zero => rfl
  | succ n ih =>
    rw [tab, ih, List.range_succ_eq_map, List.map_cons, List.map_map]
    simp only [Function.comp_def, Nat.add_zero, Nat.succ_eq_add_one, Nat.add_assoc, Nat.add_comm 1]

theorem tab_id_zero (n : Nat) : tab id 0 n = List.range n := by
  rw [tab_eq_map_range]
  simp

theorem nth_eq_getD {α : Type} (d : α) (l : List α) (k : Nat) : nth d l k = l.getD k d := by
  induction l generalizing k with
  | nil => rfl
  | cons x t ih =>
    cases k with
    | zero => rfl
    | succ k => rw [nth, ih, List.getD_cons_succ]

theorem nth_tab {α : Type} (d : α) (f : Nat → α) {n k : Nat} (hk : k < n) : nth d (tab f 0 n) k = f k := by
  rw [nth_eq_getD, tab_eq_map_range]
  simp [hk]

/-! ### Elements -/

theorem mul_succ_le_of_lt_lanes {w k : Nat} (hk : k < lanes w) : w * k + w ≤ 2048 :=
  (Nat.mul_le_mul_left w hk).trans (Nat.mul_div_le 2048 w)

/-- A field of a number, read from a bit vector that reaches beyond the field. -/
theorem bits_toNat_ofNat {lo n m : Nat} (h : lo + n ≤ m) (x : Nat) : bits (BitVec.ofNat m x).toNat lo n = bits x lo n := by
  apply Nat.eq_of_testBit_eq
  intro i
  simp only [bits, BitVec.toNat_ofNat, Nat.testBit_mod_two_pow, Nat.testBit_div_two_pow]
  by_cases hi : i < n
  · simp [hi, show i + lo < m by omega]
  · simp [hi]

theorem bits_ofDigits (w : Nat) (l : List Nat) (k : Nat) : bits (ofDigits w l) (w * k) w = nth 0 l k % 2 ^ w := by
  induction l generalizing k with
  | nil => simp [ofDigits, nth, bits]
  | cons x t ih =>
    cases k with
    | zero => simp [ofDigits, nth, bits]
    | succ k =>
      have hd : (x % 2 ^ w + 2 ^ w * ofDigits w t) / 2 ^ w = ofDigits w t := by
        rw [Nat.add_mul_div_left _ _ (Nat.two_pow_pos w), Nat.div_eq_of_lt (Nat.mod_lt _ (Nat.two_pow_pos w)), Nat.zero_add]
      rw [nth, ← ih, bits, bits, ofDigits, Nat.mul_succ, Nat.add_comm (w * k), Nat.pow_add, ← Nat.div_div_eq_div_mul, hd]

theorem elem_ofElems {w k : Nat} (hk : k < lanes w) (l : List Nat) : elem w (ofElems w l) k = nth 0 l k % 2 ^ w := by
  rw [elem, ofElems, bits_toNat_ofNat (mul_succ_le_of_lt_lanes hk), bits_ofDigits]

theorem elem_mod (w : Nat) (x : VWord) (k : Nat) : elem w x k % 2 ^ w = elem w x k := Nat.mod_mod _ _

/-- A slice of a vector register is the element of that width. -/
theorem ofNat_elem_eq_extract (w : Nat) (x : VWord) (k : Nat) : BitVec.ofNat w (elem w x k) = x.extractLsb' (w * k) w := by
  apply BitVec.eq_of_toNat_eq
  rw [BitVec.toNat_ofNat, elem_mod, BitVec.extractLsb'_toNat, Nat.shiftRight_eq_div_pow]
  rfl

theorem widthW_eq {x : Nat} (h : x < 4) : widthW x = 8 * 2 ^ x := by
  obtain rfl | rfl | rfl | rfl : x = 0 ∨ x = 1 ∨ x = 2 ∨ x = 3 := by omega
  all_goals rfl

/-! ### Vector registers after a write -/

@[simp] theorem Core.readV_writeV_same (c : Core) (d : BitVec 5) (x : VWord) : (c.writeV d x).readV d = x := by
  simp [Core.readV, Core.writeV]
@[simp] theorem Core.readV_mergeV_same (c : Core) (d : BitVec 5) (x : VWord) : (c.mergeV d x).readV d = x := by
  simp [Core.readV, Core.mergeV]
@[simp] theorem Core.readV_raiseFl (c : Core) (n : BitVec 5) (f : FFl) : (c.raiseFl f).readV n = c.readV n := rfl
@[simp] theorem Core.fflags_raiseFl (c : Core) (f : FFl) : (c.raiseFl f).regs.fflags = c.regs.fflags ||| f := rfl
@[simp] theorem Core.raiseFl_none (c : Core) : c.raiseFl flNone = c := by
  have h : c.regs.fflags ||| flNone = c.regs.fflags := BitVec.or_zero
  rw [Core.raiseFl, h]

/-! ### Flags of several results -/

theorem getLsbD_foldl_flags (l : List FRes) (a : FFl) (i : Nat) :
    (l.foldl (fun f r => f ||| r.2) a).getLsbD i = (a.getLsbD i || l.any (fun r => r.2.getLsbD i)) := by
  induction l generalizing a with
  | nil => simp
  | cons r t ih => rw [List.foldl_cons, ih, BitVec.getLsbD_or, List.any_cons, Bool.or_assoc]

theorem getLsbD_flagsOf (l : List FRes) (i : Nat) : (flagsOf l).getLsbD i = l.any (fun r => r.2.getLsbD i) := by
  rw [flagsOf, getLsbD_foldl_flags]
  simp [flNone]

/-- The flags of each result are among those raised. -/
theorem flags_of_mem {l : List FRes} {r : FRes} (h : r ∈ l) (old : FFl) : r.2 &&& ~~~(old ||| flagsOf l) = 0 := by
  apply BitVec.eq_of_getLsbD_eq
  intro i hi
  cases hr : r.2.getLsbD i with
  | false => simp [hr]
  | true =>
    have hl : (flagsOf l).getLsbD i = true := by
      rw [getLsbD_flagsOf]
      exact List.any_eq_true.mpr ⟨r, h, hr⟩
    simp [hl]

/-! ### Instructions that end in one write -/

theorem Core.regsOnly_writeP (f : Core → PWord) (d : BitVec 3) : Core.RegsOnly (fun c => c.writeP d (f c)) := by
  intro c
  dsimp only
  unfold Core.writeP
  split <;> rfl

section
variable {s : State} {pl : Plan} {i : Instr}

theorem completes_of_putV {d : BitVec 5} {p : BitVec 3} {w : Nat} {f : Core → Nat → FRes}
    (he : exec i s = issue pl (fun s => .done (s.me (fun c => c.putV d p w (f c)))) s) (h : s.ready pl = true) (hs : Core.Steady f) :
    Completes s i (s.core.putV d p w (f s.core)) :=
  completes_of (f := fun c => c.putV d p w (f c)) he h (Core.regsOnly_putV d p w f) (fun c e hk => by
    dsimp only
    rw [hs c e hk]
    exact Core.putV_regs (Core.kept_regs hk) d p w _)

theorem completes_of_writeV {d : BitVec 5} {f : Core → VWord} (he : exec i s = issue pl (fun s => .done (s.me (fun c => c.writeV d (f c)))) s)
    (h : s.ready pl = true) (hs : Core.Steady f) : Completes s i (s.core.writeV d (f s.core)) :=
  completes_of (f := fun c => c.writeV d (f c)) he h (fun _ => rfl) (fun c e hk => by
    dsimp only
    rw [hs c e hk]
    exact Core.writeV_regs (Core.kept_regs hk) d _)

theorem completes_of_writeP {d : BitVec 3} {f : Core → PWord} (he : exec i s = issue pl (fun s => .done (s.me (fun c => c.writeP d (f c)))) s)
    (h : s.ready pl = true) (hs : Core.Steady f) : Completes s i (s.core.writeP d (f s.core)) :=
  completes_of (f := fun c => c.writeP d (f c)) he h (Core.regsOnly_writeP f d) (fun c e hk => by
    dsimp only
    rw [hs c e hk]
    exact Core.writeP_regs (Core.kept_regs hk) d _)

end

/-! ### Words with predicate fields -/

/-- A three-bit number in a five-bit field stands behind two zero bits. -/
theorem append_zero_append {w : Nat} (x : BitVec w) (q : BitVec 3) : x ++ (0#2 ++ q) = x ++ 0#2 ++ q :=
  (BitVec.append_assoc (x₁ := x) (x₂ := 0#2) (x₃ := q)).symm

section
variable (m : BitVec 6) (fn : BitVec 4) (pm : BitVec 3) (la : BitVec 4)

theorem packV_pred_dab (d a b : BitVec 3) :
    packV m (0#2 ++ d) (0#2 ++ a) (0#2 ++ b) fn pm la = m ++ 0#2 ++ d ++ 0#2 ++ a ++ 0#2 ++ b ++ fn ++ pm ++ la := by
  unfold packV
  rw [append_zero_append, append_zero_append, append_zero_append]

theorem packV_pred_da (d a : BitVec 3) (b : BitVec 5) :
    packV m (0#2 ++ d) (0#2 ++ a) b fn pm la = m ++ 0#2 ++ d ++ 0#2 ++ a ++ b ++ fn ++ pm ++ la := by
  unfold packV
  rw [append_zero_append, append_zero_append]

theorem packV_pred_a (d : BitVec 5) (a : BitVec 3) (b : BitVec 5) :
    packV m d (0#2 ++ a) b fn pm la = m ++ d ++ 0#2 ++ a ++ b ++ fn ++ pm ++ la := by
  unfold packV
  rw [append_zero_append]

theorem packV_pred_db (d : BitVec 3) (a : BitVec 5) (b : BitVec 3) :
    packV m (0#2 ++ d) a (0#2 ++ b) fn pm la = m ++ 0#2 ++ d ++ a ++ 0#2 ++ b ++ fn ++ pm ++ la := by
  unfold packV
  rw [append_zero_append, append_zero_append]

theorem packV_pred_ab (d : BitVec 5) (a b : BitVec 3) :
    packV m d (0#2 ++ a) (0#2 ++ b) fn pm la = m ++ d ++ 0#2 ++ a ++ 0#2 ++ b ++ fn ++ pm ++ la := by
  unfold packV
  rw [append_zero_append, append_zero_append]

end

theorem extract_high_eq_zero_iff (x : BitVec 5) : x.extractLsb' 3 2 = 0 ↔ x.toNat < 8 := by
  have hx := x.isLt
  rw [← BitVec.toNat_inj, BitVec.extractLsb'_toNat, Nat.shiftRight_eq_div_pow]
  change x.toNat / 8 % 4 = 0 ↔ _
  omega

/-- A word is refused when no well-formed instruction stands at its opcode. -/
theorem decode_error_of {w : IWord} (h : ∀ i, decodeRaw w = .ok i → i.wf = false) : ∃ r, decode w = .error r := by
  cases hr : decodeRaw w with
  | error r => exact ⟨r, decode_of_raw_error hr⟩
  | ok i => exact ⟨.fieldValue, by simp [decode, hr, h i hr]⟩

theorem need_eq_ok {p : Prop} [Decidable p] {i j : Instr} (h : need p i = .ok j) : p ∧ j = i := by
  unfold need at h
  split at h
  · cases h
    exact ⟨‹_›, rfl⟩
  · cases h


end Sys2Proof.Machine
end

section
/-! SUPPORT. The logical and predicate members of major 0x2E: results and words (05_vector_registers R107, R108). -/

namespace Sys2Proof.Machine

/-! ### Results -/

section
variable {s : State}

/-- A member of the bitwise group works byte by byte under its predicate. -/
theorem vlog_completes {i : Instr} {d a b : BitVec 5} {p : BitVec 3} {f : Nat → Nat → Nat} (he : exec i s = opVlog d a b p f s)
    (h : s.ready (Plan.simple [vR a, vR b, pR p] [vR d]) = true) :
    Completes s i (s.core.putV d p 8 (fun k => (f (elem 8 (s.core.readV a) k) (elem 8 (s.core.readV b) k), 0))) :=
  completes_of_putV (f := fun c k => quiet (f (elem 8 (c.readV a) k) (elem 8 (c.readV b) k))) he h (Core.steady_of (fun _ _ _ _ _ _ _ _ _ => rfl))

theorem active_bytes (q : PWord) (k : Nat) : active q 8 k = q.getLsbD k := by
  rw [active, Nat.mul_div_cancel _ (by decide)]

/-- VSEL writes every byte: its predicate selects. -/
theorem vsel_completes {d a b : BitVec 5} {p : BitVec 3} (h : s.ready (Plan.simple [vR a, vR b, pR p] [vR d]) = true) :
    Completes s (.vsel d a b p) (s.core.writeV d
      (vtab 8 (fun k => if (s.core.readP p).getLsbD k then elem 8 (s.core.readV a) k else elem 8 (s.core.readV b) k))) := by
  simpa only [active_bytes] using completes_of_writeV
    (f := fun c => vtab 8 (fun k => if active (c.readP p) 8 k then elem 8 (c.readV a) k else elem 8 (c.readV b) k)) (exec_vsel d a b p s) h
    (Core.steady_of (fun _ _ _ _ _ _ _ _ _ => rfl))

theorem pred_completes {i : Instr} {d a b : BitVec 3} {f : PWord → PWord → PWord} (he : exec i s = opPred d a b f s)
    (h : s.ready (Plan.simple [pR a, pR b] [pR d]) = true) : Completes s i (s.core.writeP d (f (s.core.readP a) (s.core.readP b))) :=
  completes_of_writeP (f := fun c => f (c.readP a) (c.readP b)) he h (Core.steady_of (fun _ _ _ _ _ _ _ _ _ => rfl))

theorem vpnot_completes {d a : BitVec 3} (h : s.ready (Plan.simple [pR a] [pR d]) = true) :
    Completes s (.vpnot d a) (s.core.writeP d (~~~(s.core.readP a))) :=
  completes_of_writeP (exec_vpnot d a s) h (Core.steady_of (fun _ _ _ _ _ _ _ _ _ => rfl))

theorem bothActive_eq_filter (w : Nat) (p q : PWord) :
    bothActive w p q = (List.range (lanes w)).filter (fun k => active p w k && active q w k) := by
  rw [bothActive, tab_id_zero]

variable {d : BitVec 5} {a : BitVec 3} {e : BitVec 5} {p : BitVec 3} {l : BitVec 4}

theorem vpcnt_completes (h : s.ready (Plan.multi [pR a, pR p] [sR d] l) = true) : Completes s (.vpcnt d a e p l)
    (s.core.writeS d (BitVec.ofNat 64 (bothActive (widthE e.toNat) (s.core.readP a) (s.core.readP p)).length)) :=
  opM_completes h (exec_vpcnt d a e p l s) (Core.steady_of (fun _ _ _ _ _ _ _ _ _ => rfl)) rfl

theorem vpfirst_completes (h : s.ready (Plan.multi [pR a, pR p] [sR d] l) = true) : Completes s (.vpfirst d a e p l)
    (s.core.writeS d (BitVec.ofNat 64
      ((bothActive (widthE e.toNat) (s.core.readP a) (s.core.readP p)).head?.getD (lanes (widthE e.toNat))))) :=
  opM_completes h (exec_vpfirst d a e p l s) (Core.steady_of (fun _ _ _ _ _ _ _ _ _ => rfl)) rfl

end

/-! ### Words -/

theorem decodeRaw_vlog {w : IWord} (h : w.extractLsb' 26 6 = 0x2E) : decodeRaw w =
    decodeVlog (f5 w 21) (f5 w 16) (f5 w 11) (w.extractLsb' 7 4) (w.extractLsb' 4 3) (w.extractLsb' 0 4) := by
  unfold decodeRaw
  rw [h]
  rfl

/-- What a well-formed word of the group holds in the fields that its member does not use. -/
theorem decodeVlog_fields {d a b : BitVec 5} {f : BitVec 4} {p : BitVec 3} {l : BitVec 4} {i : Instr} (h : decodeVlog d a b f p l = .ok i)
    (hw : i.wf = true) :
    (f.toNat < 5 ∧ l = 0) ∨ (5 ≤ f.toNat ∧ f.toNat < 8 ∧ d.toNat < 8 ∧ a.toNat < 8 ∧ b.toNat < 8 ∧ p = 0 ∧ l = 0) ∨
    (f.toNat = 8 ∧ d.toNat < 8 ∧ a.toNat < 8 ∧ b = 0 ∧ p = 0 ∧ l = 0) ∨ ((f.toNat = 9 ∨ f.toNat = 10) ∧ a.toNat < 8 ∧ b.toNat ≤ 5) := by
  unfold decodeVlog at h
  simp only [extract_high_eq_zero_iff] at h
  split at h
  case h_1 hf | h_2 hf | h_3 hf | h_4 hf | h_5 hf => exact .inl ⟨by omega, (need_eq_ok h).1⟩
  case h_6 hf | h_7 hf | h_8 hf => exact .inr (.inl ⟨by omega, by omega, (need_eq_ok h).1⟩)
  case h_9 hf => exact .inr (.inr (.inl ⟨hf, (need_eq_ok h).1⟩))
  case h_10 hf | h_11 hf =>
    obtain ⟨ha, rfl⟩ := need_eq_ok h
    exact .inr (.inr (.inr ⟨by omega, ha, of_decide_eq_true hw⟩))
  case h_12 => cases h

theorem decode_vlog_error {d a b : BitVec 5} {f : BitVec 4} {p : BitVec 3} {l : BitVec 4}
    (h : (f.toNat < 9 ∧ l ≠ 0) ∨ (4 < f.toNat ∧ f.toNat < 9 ∧ ¬(d.toNat < 8 ∧ a.toNat < 8 ∧ p = 0)) ∨
      (4 < f.toNat ∧ f.toNat < 8 ∧ 7 < b.toNat) ∨ (f = 8 ∧ b ≠ 0) ∨ ((f = 9 ∨ f = 10) ∧ (7 < a.toNat ∨ 5 < b.toNat))) :
    ∃ r, decode (packV 0x2E d a b f p l) = .error r := by
  refine decode_error_of (fun i hi => ?_)
  rw [decodeRaw_vlog (packV_m _ _ _ _ _ _ _), f5, f5, f5, packV_d, packV_a, packV_b, packV_fn, packV_pm, packV_la] at hi
  by_contra hw
  have hf := decodeVlog_fields hi (Bool.of_not_eq_false hw)
  simp only [← BitVec.toNat_inj] at h
  rcases hf with ⟨hf, rfl⟩ | ⟨hf, hf', hd, ha, hb, rfl, rfl⟩ | ⟨hf, hd, ha, rfl, rfl, rfl⟩ | ⟨hf, ha, hb⟩
  all_goals
    simp at h
    omega

/-! ### The group -/

/-- Settles O11: words, results by member, and the words that are refused. -/
theorem vectorLogic : Obligations.VectorLogic := by
  unfold Obligations.VectorLogic
  refine ⟨?bitwiseWords, ?bitwise, fun s d a b h => ⟨pred_completes (exec_vpand d a b s) h, pred_completes (exec_vpor d a b s) h,
    pred_completes (exec_vpxor d a b s) h⟩, fun _ _ _ => vpnot_completes, ?predWords, fun d a => ?notWord, ?countWords,
    fun d a b f p l h => decode_vlog_error h, ?counts⟩
  case bitwiseWords =>
    intro d a b p x hx
    simp only [List.mem_cons, List.not_mem_nil, or_false] at hx
    rcases hx with rfl | rfl | rfl | rfl | rfl <;> rfl
  case bitwise =>
    rintro s d a b p A B h rfl rfl
    exact ⟨vlog_completes (exec_vand d a b p s) h, vlog_completes (exec_vor d a b p s) h, vlog_completes (exec_vxor d a b p s) h,
      vlog_completes (f := fun x y => x &&& (255 - y)) (exec_vandn d a b p s) h, vsel_completes h⟩
  case predWords =>
    intro d a b x hx
    simp only [List.mem_cons, List.not_mem_nil, or_false] at hx
    rcases hx with rfl | rfl | rfl
    · exact congrArg some (packV_pred_dab 46 5#4 0#3 0#4 d a b)
    · exact congrArg some (packV_pred_dab 46 6#4 0#3 0#4 d a b)
    · exact congrArg some (packV_pred_dab 46 7#4 0#3 0#4 d a b)
  case notWord => exact congrArg some (packV_pred_da 46 8#4 0#3 0#4 d a 0#5)
  case countWords =>
    intro d a e p l x hx
    simp only [List.mem_cons, List.not_mem_nil, or_false] at hx
    rcases hx with rfl | rfl
    · exact congrArg some (packV_pred_a 46 9#4 p l d a e)
    · exact congrArg some (packV_pred_a 46 10#4 p l d a e)
  case counts =>
    rintro s d a e p l on h rfl
    rw [← bothActive_eq_filter]
    exact ⟨vpcnt_completes h, vpfirst_completes h⟩

end Sys2Proof.Machine
end

section
/-! SUPPORT. The conversions of VCVT code by code and element by element, and the moves between register files
(05_vector_registers R113, R119, 02_formats R46, R47). -/

namespace Sys2Proof.Machine

/-! ### The conversion codes -/

/-- A conversion to a whole number stays within its bounds. -/
theorem fToInt_mem (f : Fmt) (rm : BitVec 2) {lo hi : Int} (hlo : lo ≤ 0) (hhi : 0 ≤ hi) (x : Nat) :
    lo ≤ (fToInt f rm lo hi x).1 ∧ (fToInt f rm lo hi x).1 ≤ hi := by
  unfold fToInt
  split
  · exact ⟨hlo, hhi⟩
  · dsimp only
    split <;> omega
  · dsimp only
    split
    · dsimp only; omega
    · split <;> dsimp only <;> omega

theorem lowBits_of_lt {w : Nat} {x : Int} (h0 : 0 ≤ x) (hx : x < 2 ^ w) : lowBits w x = x.toNat := by
  rw [lowBits, Int.emod_eq_of_lt h0 hx]

theorem satI_eq (w : Nat) (x : Int) : satI w x = (max (-(2 ^ (w - 1))) (min (2 ^ (w - 1) - 1) x) % 2 ^ w).toNat := by
  have h : (0 : Int) < 2 ^ (w - 1) := Int.pow_pos (by decide)
  rw [satI, lowBits, clampI_eq_max_min (by omega)]

theorem bits_zero (x n : Nat) : bits x 0 n = x % 2 ^ n := by
  rw [bits, Nat.pow_zero, Nat.div_one]

/-- A conversion code of the model with its widths and its operation. -/
def conversionOf (c : Nat) : Nat × Nat × Nat × (BitVec 2 → Nat → FRes) := (c, (cvtWidths c).1, (cvtWidths c).2, cvtElem c)

/-- The table of R46 is the model's, code by code: the saturating, truncating and unsigned ones by the lemmas above. -/
theorem conversions_eq : conversions = (List.range 29).map conversionOf := by
  have h16 : cvtElem 16 = fun _ x => ((max (-(2 ^ 15)) (min (2 ^ 15 - 1) (sxt 32 x)) % 2 ^ 16).toNat, 0) :=
    funext₂ (fun _ _ => congrArg (·, flNone) (satI_eq 16 _))
  have h17 : cvtElem 17 = fun _ x => ((max (-(2 ^ 7)) (min (2 ^ 7 - 1) (sxt 32 x)) % 2 ^ 8).toNat, 0) :=
    funext₂ (fun _ _ => congrArg (·, flNone) (satI_eq 8 _))
  have h18 : cvtElem 18 = fun _ x => (x % 2 ^ 16, 0) := funext₂ (fun _ x => congrArg (·, flNone) (bits_zero x 16))
  have h19 : cvtElem 19 = fun _ x => (x % 2 ^ 8, 0) := funext₂ (fun _ x => congrArg (·, flNone) (bits_zero x 8))
  have h23 : cvtElem 23 = fun _ x => ((max (-(2 ^ 7)) (min (2 ^ 7 - 1) (sxt 16 x)) % 2 ^ 8).toNat, 0) :=
    funext₂ (fun _ _ => congrArg (·, flNone) (satI_eq 8 _))
  have h24 : cvtElem 24 = fun rm x => ((fToInt fmtF32 rm 0 255 x).1.toNat, (fToInt fmtF32 rm 0 255 x).2) := by
    funext rm x
    obtain ⟨hlo, hhi⟩ := fToInt_mem fmtF32 rm (lo := 0) (hi := 255) (by decide) (by decide) x
    exact congrArg (·, (fToInt fmtF32 rm 0 255 x).2) (lowBits_of_lt hlo (by omega))
  have h28 : cvtElem 28 = fun _ x => ((max (-8) (min 7 (sxt 8 x)) % 2 ^ 4).toNat, 0) :=
    funext₂ (fun _ _ => congrArg (·, flNone) (satI_eq 4 _))
  unfold conversions
  rw [← h16, ← h17, ← h18, ← h19, ← h23, ← h24, ← h28]
  rfl

theorem mem_conversions {n ws wd : Nat} {f : BitVec 2 → Nat → FRes} (h : (n, ws, wd, f) ∈ conversions) :
    cvtWidths n = (ws, wd) ∧ cvtElem n = f := by
  rw [conversions_eq] at h
  obtain ⟨c, -, hc⟩ := List.mem_map.mp h
  simp only [conversionOf, Prod.mk.injEq] at hc
  obtain ⟨rfl, rfl, rfl, rfl⟩ := hc
  exact ⟨rfl, rfl⟩

/-! ### What a conversion leaves in an element -/

/-- Element `k` of what a conversion writes, with its flags, and whether the conversion reaches it. -/
def Core.convertAt (x : Core) (d a : BitVec 5) (c part : Nat) (p : BitVec 3) (k : Nat) : FRes × Bool :=
  match (if active (x.readP p) (cvtWidths c).2 k then cvtSource c part k else none) with
  | some j => (cvtElem c x.regs.frm (elem (cvtWidths c).1 (x.readV a) j), true)
  | none => (quiet (elem (cvtWidths c).2 (x.readV d) k), false)

section
variable {x : Core} {d a : BitVec 5} {c part : Nat} {p : BitVec 3} {k : Nat}

theorem Core.convertAt_of_source {j : Nat} (hq : active (x.readP p) (cvtWidths c).2 k = true) (hj : cvtSource c part k = some j) :
    x.convertAt d a c part p k = (cvtElem c x.regs.frm (elem (cvtWidths c).1 (x.readV a) j), true) := by
  rw [Core.convertAt, if_pos hq, hj]

theorem Core.convertAt_of_unreached (h : ¬(cvtSource c part k ≠ none ∧ active (x.readP p) (cvtWidths c).2 k = true)) :
    x.convertAt d a c part p k = (quiet (elem (cvtWidths c).2 (x.readV d) k), false) := by
  have hn : (if active (x.readP p) (cvtWidths c).2 k then cvtSource c part k else none) = none := by
    split
    · by_contra hs
      exact h ⟨hs, ‹_›⟩
    · rfl
  rw [Core.convertAt, hn]

theorem Core.convert_eq (x : Core) (d a : BitVec 5) (c part : Nat) (p : BitVec 3) :
    x.convert d a c part p =
      (let rs := tab (x.convertAt d a c part p) 0 (lanes (cvtWidths c).2)
       let y := ofElems (cvtWidths c).2 (rs.map (fun r => r.1.1))
       (if rs.all Prod.snd then x.writeV d y else x.mergeV d y).raiseFl (flagsOf (rs.map Prod.fst))) := rfl

theorem Core.elem_convert (hk : k < lanes (cvtWidths c).2) :
    elem (cvtWidths c).2 ((x.convert d a c part p).readV d) k = (x.convertAt d a c part p k).1.1 % 2 ^ (cvtWidths c).2 := by
  have hv : (x.convert d a c part p).readV d =
      ofElems (cvtWidths c).2 (tab (fun j => (x.convertAt d a c part p j).1.1) 0 (lanes (cvtWidths c).2)) := by
    rw [Core.convert_eq]
    dsimp only
    rw [map_tab (fun r : FRes × Bool => r.1.1)]
    split
    · rw [Core.readV_raiseFl, Core.readV_writeV_same]
    · rw [Core.readV_raiseFl, Core.readV_mergeV_same]
  rw [hv, elem_ofElems hk, nth_tab _ _ hk]

theorem Core.fflags_convert (hk : k < lanes (cvtWidths c).2) :
    (x.convertAt d a c part p k).1.2 &&& ~~~(x.convert d a c part p).regs.fflags = 0 := by
  have hm : (x.convertAt d a c part p k).1 ∈ (tab (x.convertAt d a c part p) 0 (lanes (cvtWidths c).2)).map Prod.fst := by
    rw [tab_eq_map_range]
    exact List.mem_map_of_mem (List.mem_map.mpr ⟨k, List.mem_range.mpr hk, by rw [Nat.zero_add]⟩)
  rw [Core.convert_eq]
  dsimp only
  split <;> exact flags_of_mem hm _

end

/-- Which source element a part of a conversion brings to an element of v[d]. -/
theorem cvtSource_eq {c part k ws wd : Nat} (hw : cvtWidths c = (ws, wd)) : cvtSource c part k =
    if ws ≤ wd ∨ (part * (2048 / ws) ≤ k ∧ k < (part + 1) * (2048 / ws)) then
      some (if ws ≤ wd then part * (2048 / wd) + k else k - part * (2048 / ws)) else none := by
  unfold cvtSource
  rw [hw, Nat.add_mul, Nat.one_mul]
  by_cases h : ws ≤ wd
  · simp [h, lanes]
  · simp only [h, if_false, false_or, Bool.and_eq_true, decide_eq_true_eq]
    rfl

/-- 02 R47: what the elements of v[d] hold after a conversion, with the flags of those it reaches. -/
theorem Core.convert_spec {x : Core} {d a : BitVec 5} {p : BitVec 3} {part k n ws wd : Nat} {f : BitVec 2 → Nat → FRes}
    (hr : (n, ws, wd, f) ∈ conversions) (hk : k < 2048 / wd) {reached : Prop} {from' : Nat}
    (hreached : reached ↔ ws ≤ wd ∨ (part * (2048 / ws) ≤ k ∧ k < (part + 1) * (2048 / ws)))
    (hfrom : from' = if ws ≤ wd then part * (2048 / wd) + k else k - part * (2048 / ws)) :
    (reached → (x.readP p).getLsbD (k * wd / 8) = true →
      elem wd ((x.convert d a n part p).readV d) k = (f x.regs.frm (elem ws (x.readV a) from')).1 % 2 ^ wd ∧
      (f x.regs.frm (elem ws (x.readV a) from')).2 &&& ~~~(x.convert d a n part p).regs.fflags = 0) ∧
    (¬(reached ∧ (x.readP p).getLsbD (k * wd / 8) = true) → elem wd ((x.convert d a n part p).readV d) k = elem wd (x.readV d) k) := by
  obtain ⟨hw, rfl⟩ := mem_conversions hr
  obtain ⟨rfl, rfl⟩ : (cvtWidths n).1 = ws ∧ (cvtWidths n).2 = wd := by rw [hw]; exact ⟨rfl, rfl⟩
  have hs := cvtSource_eq (part := part) (k := k) hw
  rw [← hfrom] at hs
  refine ⟨fun hy hq => ?reached, fun hn => ?kept⟩
  case reached =>
    rw [if_pos (hreached.mp hy)] at hs
    have ha := Core.convertAt_of_source (x := x) (d := d) (a := a) hq hs
    have hf := Core.fflags_convert (x := x) (d := d) (a := a) (part := part) (p := p) hk
    rw [Core.elem_convert hk]
    rw [ha] at hf ⊢
    exact ⟨rfl, hf⟩
  case kept =>
    have hu : cvtSource n part k ≠ none → reached := by
      rw [hs, hreached]
      intro h
      by_contra hc
      exact h (if_neg hc)
    rw [Core.elem_convert hk, Core.convertAt_of_unreached (fun h => hn ⟨hu h.1, h.2⟩)]
    exact elem_mod _ _ _

/-! ### Results -/

theorem Core.convert_regs {c e : Core} (h : e.regs = c.regs) (d a : BitVec 5) (n part : Nat) (p : BitVec 3) :
    (e.convert d a n part p).regs = (c.convert d a n part p).regs := by
  have hat : e.convertAt d a n part p = c.convertAt d a n part p := by
    funext k
    unfold Core.convertAt Core.readP Core.readV
    rw [h]
  rw [Core.convert_eq, Core.convert_eq, hat]
  dsimp only
  apply Core.raiseFl_regs
  split
  · exact Core.writeV_regs h _ _
  · exact Core.mergeV_regs h _ _

theorem Core.regsOnly_convert (d a : BitVec 5) (n part : Nat) (p : BitVec 3) : Core.RegsOnly (fun c => c.convert d a n part p) := by
  intro c
  dsimp only
  rw [Core.convert_eq]
  dsimp only
  split <;> rfl

section
variable {s : State} {d a b : BitVec 5} {l : BitVec 4}

theorem vcvt_completes {c : BitVec 5} {x : BitVec 2} {p : BitVec 3} (h : s.ready (Plan.multi [vR a, pR p] [vR d] l) = true) :
    Completes s (.vcvt d a c x p l) (s.core.convert d a c.toNat x.toNat p) :=
  completes_of (f := fun y => y.convert d a c.toNat x.toNat p) (exec_vcvt d a c x p l s) h (Core.regsOnly_convert d a _ _ p)
    (fun _ _ hk => Core.convert_regs (Core.kept_regs hk) d a _ _ p)

theorem vmvsv_completes {x : BitVec 3} (hx : x.toNat < 4) (h : s.ready (Plan.multi [sR a] [vR d] l) = true) :
    Completes s (.vmvsv d a x l)
      (s.core.writeV d (vtab (8 * 2 ^ x.toNat) (fun _ => (s.core.readS a).toNat % 2 ^ (8 * 2 ^ x.toNat)))) := by
  have hc := opW_completes (b := true) h (exec_vmvsv d a x l s) (fun _ _ _ => rfl) (Core.steady_of (fun _ _ _ _ _ _ _ _ _ => rfl)) rfl rfl
  simpa only [if_true, Core.raiseFl_none, bits_zero, widthW_eq hx] using hc

theorem vmvvs_completes {x : BitVec 3} (hx : x.toNat < 4) (h : s.ready (Plan.multi [vR a, sR b] [sR d] l) = true) :
    Completes s (.vmvvs d a b x l) (s.core.writeS d (BitVec.ofNat 64
      (elem (8 * 2 ^ x.toNat) (s.core.readV a) ((s.core.readS b).toNat % lanes (8 * 2 ^ x.toNat))))) :=
  opM_completes h (exec_vmvvs d a b x l s) (Core.steady_of (fun _ _ _ _ _ _ _ _ _ => rfl)) (by rw [widthW_eq hx]; rfl)

variable {q n : BitVec 3}

theorem vpld_completes (h : s.ready (Plan.multi [vR a] [pR q] l) = true) :
    Completes s (.vpld q a n l) (s.core.writeP q ((s.core.readV a).extractLsb' (256 * n.toNat) 256)) := by
  rw [← ofNat_elem_eq_extract]
  exact completes_of_writeP (f := fun c => BitVec.ofNat 256 (elem 256 (c.readV a) n.toNat)) (exec_vpld q a n l s) h
    (Core.steady_of (fun _ _ _ _ _ _ _ _ _ => rfl))

theorem vpst_completes (h : s.ready (Plan.multi [pR q] [vR d] l) = true) :
    Completes s (.vpst d q n l) (s.core.mergeV d (setElem 256 (s.core.readV d) n.toNat (s.core.readP q).toNat)) := by
  have hc := opW_completes (b := false) h (exec_vpst d q n l s) (fun _ _ _ => rfl) (Core.steady_of (fun _ _ _ _ _ _ _ _ _ => rfl)) rfl rfl
  simpa only [Bool.false_eq_true, if_false, Core.raiseFl_none] using hc

end

/-! ### Words -/

theorem decodeRaw_vmov {w : IWord} (h : w.extractLsb' 26 6 = 0x35) : decodeRaw w =
    decodeVmov (f5 w 21) (f5 w 16) (f5 w 11) (w.extractLsb' 7 4) (w.extractLsb' 4 3) (w.extractLsb' 0 4) := by
  unfold decodeRaw
  rw [h]
  rfl

/-- What a well-formed word of the group holds in the fields that its member does not use. -/
theorem decodeVmov_fields {d a b : BitVec 5} {f : BitVec 4} {w : BitVec 3} {l : BitVec 4} {i : Instr} (h : decodeVmov d a b f w l = .ok i)
    (hw : i.wf = true) :
    (f.toNat = 0 ∧ b = 0 ∧ w.toNat ≤ 3) ∨ (f.toNat = 1 ∧ w.toNat ≤ 3) ∨ (f.toNat = 2 ∧ d.toNat < 8 ∧ b.toNat < 8 ∧ w = 0) ∨
    (f.toNat = 3 ∧ a.toNat < 8 ∧ b.toNat < 8 ∧ w = 0) := by
  unfold decodeVmov at h
  simp only [extract_high_eq_zero_iff] at h
  split at h
  case h_1 hf =>
    obtain ⟨hb, rfl⟩ := need_eq_ok h
    exact .inl ⟨hf, hb, of_decide_eq_true hw⟩
  case h_2 hf =>
    cases h
    exact .inr (.inl ⟨hf, of_decide_eq_true hw⟩)
  case h_3 hf => exact .inr (.inr (.inl ⟨hf, (need_eq_ok h).1⟩))
  case h_4 hf => exact .inr (.inr (.inr ⟨hf, (need_eq_ok h).1⟩))
  case h_5 => cases h

theorem decode_vmov_error {d a b : BitVec 5} {f : BitVec 4} {w : BitVec 3} {l : BitVec 4}
    (h : (f = 0 ∧ b ≠ 0) ∨ (f.toNat < 2 ∧ 3 < w.toNat) ∨ (f = 2 ∧ ¬(d.toNat < 8 ∧ b.toNat < 8 ∧ w = 0)) ∨
      (f = 3 ∧ ¬(a.toNat < 8 ∧ b.toNat < 8 ∧ w = 0))) :
    ∃ r, decode (packV 0x35 d a b f w l) = .error r := by
  refine decode_error_of (fun i hi => ?_)
  rw [decodeRaw_vmov (packV_m _ _ _ _ _ _ _), f5, f5, f5, packV_d, packV_a, packV_b, packV_fn, packV_pm, packV_la] at hi
  by_contra hw
  have hf := decodeVmov_fields hi (Bool.of_not_eq_false hw)
  simp only [← BitVec.toNat_inj] at h
  rcases hf with ⟨hf, rfl, hw⟩ | ⟨hf, hw⟩ | ⟨hf, hd, hb, rfl⟩ | ⟨hf, ha, hb, rfl⟩
  all_goals
    simp at h
    omega

/-! ### The group -/

/-- Settles O14: the results, the words with those that are refused, and the elements of a conversion. -/
theorem vectorMoves : Obligations.VectorMoves := by
  unfold Obligations.VectorMoves
  refine ⟨⟨fun s d a b l => ⟨fun c x p => vcvt_completes, ?moves, fun q n => ⟨vpld_completes, vpst_completes⟩⟩,
    fun d a b w p n l => ⟨rfl, rfl, congrArg some (packV_pred_db 53 2#4 0#3 l p a n),
      congrArg some (packV_pred_ab 53 3#4 0#3 l d p n)⟩, fun d a b f w l => decode_vmov_error⟩, ?conversions⟩
  case moves =>
    rintro x w hx rfl
    exact ⟨vmvsv_completes hx, vmvvs_completes hx⟩
  case conversions =>
    rintro x d a p part k r hr ws wd n f rfl hk - y q reached from' rfl rfl hreached hfrom
    exact Core.convert_spec hr hk hreached hfrom

end Sys2Proof.Machine
end
